-- ==== Sys2Proof/Word.lean ====
section
/-! DEFINITION. The plainest words of the part: bytes, samples, 16-bit and 32-bit numbers, and the small
index types (manual, table of quantities in section 1.5.4). -/

namespace Sys2Proof

/-- One byte of a management message (R181). -/
abbrev Byte := BitVec 8

/-- One 16-bit two's-complement sample of either link (R178, R180). -/
abbrev Sample := BitVec 16

/-- A 16-bit number: checksums, fingerprints, fixture words. -/
abbrev Word16 := BitVec 16

/-- A 32-bit number: label numbers, generations, counters, lots. -/
abbrev Word32 := BitVec 32

/-- Nest number, 0 to 3. -/
abbrev NestId := Fin 4

/-- Enclosure group, 0 or 1. -/
abbrev GroupId := Fin 2

/-- Plan index, 0 to 7. -/
abbrev PlanId := Fin 8

/-- Band index, 0 to 31. -/
abbrev BandId := Fin 32

/-- Capture block number, 0 to 63. -/
abbrev BlockId := Fin 64

/-- Result Ring entry index, 0 to 63. -/
abbrev EntryId := Fin 64

/-- Notice source index, 0 to 17. -/
abbrev SourceId := Fin 18

end Sys2Proof
end

