-- ==== Sys2Proof/Syntax.lean ====
section
/-! DEFINITION. The commands of the part: one constructor of `Instr` for each row of the manual's table of operations
and events, and the operand types they carry.

A row that carries out a message of the station controller has the message's tag as its first operand, then the named
fields of its body. A field the manual gives as a number is a byte or word as sent, so that a number out of range can
be written. A field the manual gives as a list of values is an `Option` whose `none` stands for a value outside the
list. A field that may be left UNCHANGED is an `Option` whose `none` stands for UNCHANGED. -/

namespace Sys2Proof

/-- Roles of a unit (Table 1-2). -/
inductive Role | production | golden | engineering
deriving DecidableEq, Repr

/-- The four fixture inputs of a nest (Table 10-1). -/
inductive InputLine | present | clamped | lid | aux
deriving DecidableEq, Repr

/-- Polarity of an input (Table 10-2). -/
inductive Polarity | activeHigh | activeLow
deriving DecidableEq, Repr

/-- Mode of an output (Table 10-2). -/
inductive OutputMode | sequencer | manual
deriving DecidableEq, Repr

/-- One nest link frame as it arrives (R178): samples in the order listed, and the fixture input word. -/
structure NestFrame where
  mic : Vector Sample 4
  sense : Vector Sample 4
  ambient : Vector Sample 2
  fixture : Word16
deriving DecidableEq, Repr

/-- One controller link frame as it arrives (R180): two pass-through slots and four management byte positions, an
unmarked position being `none` (R181). -/
structure ControllerFrame where
  slots : Vector Sample 2
  bytes : Vector (Option Byte) 4
deriving DecidableEq, Repr

/-- The fields of a NEST START body (Table 11-5). -/
structure StartFields where
  nest : Byte
  role : Byte
  plan : Byte
  lot : Word32
  serialLength : Byte
  serial : Vector Byte 16
deriving DecidableEq, Repr

/-- Gate value of NEST GATE (R11). -/
inductive GateArg | opened | closed | unchanged
deriving DecidableEq, Repr

/-- Auto-start value of NEST GATE (R11). -/
inductive AutoArg | off | plan (p : PlanId) | unchanged
deriving DecidableEq, Repr

/-- Source of PASS-THROUGH (R49). -/
inductive PassArg | slot (i : Fin 2) | off
deriving DecidableEq, Repr

/-- Selection of one monitor slot (R51). -/
inductive MonitorSel
  | silence | mic (n : NestId) | drive (n : NestId) | sense (n : NestId) | ambient (g : GroupId)
deriving DecidableEq, Repr

/-- Nest selection of DRIFT SETTINGS WRITE (R123). -/
inductive DriftSel | one (n : NestId) | all
deriving DecidableEq, Repr

/-- A field that may be UNCHANGED, given as one of the listed values, or given as a value outside the list. -/
inductive Arg (α : Type) | unchanged | given (a : α) | outside
deriving DecidableEq, Repr

/-- The fields of FIXTURE MAP WRITE beside the nest (R175). -/
structure MapFields where
  polarity : Vector (Arg Polarity) 4
  debounce : Vector (Option Nat) 4
  detector : Vector (Arg Bool) 4
  mode : Vector (Arg OutputMode) 4
  clampTimeout : Option Nat
  settle : Option Nat
  releaseTimeout : Option Nat
deriving DecidableEq, Repr

/-- What a FIXTURE MAP WRITE can make due in its own step (R175, R176). -/
inductive DueItem | input (l : InputLine) | clampTimeout | releaseTimeout
deriving DecidableEq, Repr

/-- The measured values of one analysis window (R76 to R80), before they are held (R79). Levels and ratios in 0.1 dB,
the distortion in 0.01 %. Log 5, log 6. -/
structure Measures where
  /-- fundamental level, dBFS -/
  fundamental : Int
  distortion : Nat
  /-- residue energy relative to the fundamental, dB; not used by a SILENCE window -/
  buzz : Int
  /-- residue level, dBFS; used by a SILENCE window -/
  residueLevel : Int
  crest : Int
  /-- the in-phase part of a PILOT window is zero or greater -/
  inPhase : Bool
deriving DecidableEq, Repr

/-- The rows of the manual's table of operations and events. -/
inductive Instr
  | powerOnReset
  | nestLinkFrame (frame : Option NestFrame)
  | nestLinkLocked
  | nestLinkLoss (order : List NestId)
  | controllerLinkFrame (frame : Option ControllerFrame)
  | controllerLinkLocked
  | controllerLinkHoldover
  | messageReceived
  | messageChoice
  | messageSent
  | unknownType (tag : Byte) (type : Byte)
  | statusRead (tag : Byte) (historyClear : Option Bool)
  | versionRead (tag : Byte)
  | nestStart (tag : Byte) (fields : StartFields)
  | nestAbort (tag : Byte) (nest : Byte)
  | nestGate (tag : Byte) (nest : Byte) (gate : Option GateArg) (auto : Option AutoArg)
  | unitRead (tag : Byte) (nest : Byte) (clear : Option Bool) (page : Byte)
  | loopback (tag : Byte) (nest : Byte) (on : Option Bool)
  | passThrough (tag : Byte) (nest : Byte) (source : Option PassArg)
  | monitorSelect (tag : Byte) (first : Option MonitorSel) (second : Option MonitorSel)
  | ringRead (tag : Byte) (start : Byte) (count : Byte)
  | ringReturn (tag : Byte) (index : Byte)
  | captureFetch (tag : Byte) (label : Word32) (block : Byte) (chunk : Byte)
  | captureRelease (tag : Byte) (label : Word32)
  | tableWrite (tag : Byte) (kind : Byte) (plan : Byte) (row : Byte) (codes : List Word16)
  | tableCommit (tag : Byte) (body : Option (Byte × Word16))
  | bankCopy (tag : Byte)
  | bankSwitch (tag : Byte)
  | loadStatusClear (tag : Byte)
  | counterSnapshot (tag : Byte) (flagIsNo : Bool)
  | counterSnapshotClear (tag : Byte)
  | counterRead (tag : Byte) (nest : Byte) (page : Byte)
  | correctionRead (tag : Byte) (nest : Byte) (plan : Byte)
  | correctionClear (tag : Byte) (nest : Byte) (plan : Byte)
  | fixtureSet (tag : Byte) (outputs : Word16)
  | fixtureClear (tag : Byte) (outputs : Word16)
  | fixtureMapWrite (tag : Byte) (nest : Byte) (fields : MapFields) (order : List DueItem)
  | groupMapWrite (tag : Byte) (groups : Vector Byte 4) (thresholds : Vector Int 2)
  | driftSettingsWrite (tag : Byte) (nests : Option DriftSel) (length : Option Nat) (limit : Option Nat)
  | noticeConfig (tag : Byte) (priorities : Vector (Option Byte) 9) (count : Option Byte) (time : Option Word16)
      (threshold : Option Byte)
  | linkReset (tag : Byte) (confirm : Option Byte) (order : List NestId)
  | inputChangeTaken (nest : NestId) (line : InputLine)
  | settleEnd (nest : NestId)
  | clampTimeout (nest : NestId)
  | releaseTimeout (nest : NestId)
  | lockIntervalEnd (nest : NestId) (tryNumber : Nat) (interval : Nat)
  | lockTimeout (nest : NestId)
  | quietWindowClose (nest : NestId) (attempt : Nat)
  | quietRetryWaitEnd (nest : NestId)
  | windowClose (nest : NestId) (measures : Measures)
  | segmentEnd (nest : NestId)
  | judgeComplete (nest : NestId)
  | markPulseEnd (nest : NestId)
  | bankCopyComplete
  | verificationComplete
  | coalescingTimerExpiry
  | autoStartAfterReset
deriving DecidableEq, Repr

end Sys2Proof
end

