-- ==== Sys2Proof/Config.lean ====
section
/-! DEFINITION. What the manual leaves to the part: constants and functions without a body. Nothing can be proved
about their values, so a statement that mentions one holds for every value of it. -/

namespace Sys2Proof.Config

/-- The revision byte of VERSION READ (R187: "not given in this manual"). Log 19. -/
opaque revisionByte : Byte

/-- Whether a drive sample whose exact value lies between two whole numbers is the one farther from zero: by applied
level in 0.1 dB and phase (R35, R36; internal arithmetic is not specified, introduction 1.2). Log 8. -/
opaque toneRoundsUp (level : Int) (phase : Nat) : Bool

/-- The phase advance of frame `t` of a chirp's measured portion of `portion` frames from `f0` to `f1` Hz, in the unit
of the phase: R46 gives the frequency at each time, and not how the generator sums it over a frame. The model holds this
value between the frequencies at the two ends of the frame. Log 8. -/
opaque chirpAdvance (f0 f1 portion t : Nat) : Nat

/-- Whether the mean uncorrected response, when the division leaves a remainder, is held at the step above the
quotient's floor or at the floor (R90: "held in 0.1 dB steps", no rounding stated). Log 18. -/
opaque meanRoundsUp (sum : Int) (count : Nat) : Bool

/-- The data bytes of a reply whose byte encoding "is not treated in this manual" (introduction 1.5.5). Log 14. -/
opaque replyDataBytes {α : Type} (data : α) : List Byte

/-- Whether the four byte positions of a controller frame that is not received while the port is LOCKED reach the
parser as idle bytes, or not at all (R180 does not say). Log 16. -/
opaque missedControllerFrameIdle : Bool

/-- The labels-posted count after a posting that finds it at 4,294,967,295 (R192 gives the range, not what follows).
Log 17. -/
opaque labelsPostedAfterMax : Word32

end Sys2Proof.Config
end

