-- ==== Sys2Proof/Machine/State.lean ====
section
/-! DEFINITION. The state of the part, as plain data: every register, queue, table, counter, timer and flag the manual
gives it, block by block, the queue of rows that wait, and the state after power-on reset. Rules are those of the
manual (R<n>). Levels, gains and ratios are whole numbers of 0.1 dB unless a comment says otherwise. -/

namespace Sys2Proof.Machine

/-! ## Sets and codes -/

/-- A set of failure classes as its code of R154: bit i for the i-th class of R91, NOTE 1. -/
abbrev FailureSet := BitVec 16

/-- A set of history events as Table 11-4 lays it out: bit i for the i-th event of Table 1-3. -/
abbrev HistorySet := BitVec 16

/-- A set of verdict actions as its code of R154: MARK, GATE, LAMP at bits 0, 1, 2. -/
abbrev ActionSet := BitVec 8

/-- The thirteen failure classes, in the order of R91, NOTE 1. -/
inductive FailureClass
  | respLow | respHigh | distortion | buzz | crest | polarity | noSignal | levelLock | noise | fixture | marginal
  | aborted | link
deriving DecidableEq, Repr

/-- The twelve history events, in the order of Table 1-3. -/
inductive HistoryEvent
  | started | clamped | locked | quiet | swept | judged | retested | reswept | labelled | levelFail | noiseFail
  | fixtureFail
deriving DecidableEq, Repr

/-- Reply status codes (Table 11-2). -/
inductive Status
  | ok | busy | refusedState | badField | badLength | unknownType | loadBlocked | noTables | refusedCal
deriving DecidableEq, Repr

/-- Classes of a label (R91). -/
inductive LabelClass | pass | fail | void
deriving DecidableEq, Repr

/-! ## Tables (Chapters 2, 4, 5, 7, 9) -/

/-- The two banks. -/
inductive BankId | bankA | bankB
deriving DecidableEq, Repr

/-- CAPTURE POLICY of a plan (Table 2-1). -/
inductive CapturePolicy | none | onFail | always
deriving DecidableEq, Repr

/-- A plan header (Table 2-1). Frequencies in Hz, times in ms, the acoustic delay in samples. -/
structure PlanHeader where
  defined : Bool
  segmentCount : Nat
  bandCount : Nat
  pilotFrequency : Nat
  pilotLevel : Int
  senseTarget : Int
  lockTolerance : Int
  lockTimeout : Nat
  noSignalFloor : Int
  acousticDelay : Nat
  quietLimit : Int
  quietRetries : Nat
  ambientLimit : Int
  resweeps : Nat
  retestLimit : Nat
  dwellFactor : Nat
  capturePolicy : CapturePolicy
  captureBlockLimit : Nat
  referenceValid : Bool
  adjustLimit : Int
deriving DecidableEq, Repr

/-- Segment kinds (Table 2-2). -/
inductive SegmentKind | pilot | step | chirp | silence
deriving DecidableEq, Repr

/-- A segment record (Table 2-2). -/
structure Segment where
  kind : SegmentKind
  startFrequency : Nat
  endFrequency : Nat
  level : Int
  duration : Nat
  settle : Nat
  quiet : Bool
  capture : Bool
deriving DecidableEq, Repr

/-- A band record (Table 4-3). The distortion limit is in 0.01 %. -/
structure Band where
  lower : Nat
  upper : Nat
  responseLower : Int
  responseUpper : Int
  distortionLimit : Nat
  buzzLimit : Int
  crestLimit : Int
  guardMargin : Int
deriving DecidableEq, Repr

/-- A reference row (R127, R151). -/
structure Reference where
  response : Int
  present : Bool
deriving DecidableEq, Repr

/-- CAPTURE OVERRIDE of a verdict entry (Table 5-1). -/
inductive CaptureOverride | inherit | force | suppress
deriving DecidableEq, Repr

/-- A verdict entry (Table 5-1). The mark pulse is in ms. -/
structure VerdictEntry where
  require : FailureSet
  exclude : FailureSet
  cls : LabelClass
  retest : Bool
  bin : Fin 16
  actions : ActionSet
  markPulse : Nat
  override : CaptureOverride
deriving DecidableEq, Repr

/-- One plan of a bank: header, 24 segment rows, 32 band rows, 32 reference rows (Table 9-1). -/
structure Plan where
  header : PlanHeader
  segments : Vector Segment 24
  bands : Vector Band 32
  references : Vector Reference 32
deriving DecidableEq, Repr

/-- The 728 rows of a bank (R151). -/
structure BankRows where
  plans : Vector Plan 8
  verdicts : Vector VerdictEntry 16
deriving DecidableEq, Repr

/-- Bank states (R152), in the order of their codes (Table 11-4). -/
inductive BankState | empty | opened | verifying | ready | active | retiring
deriving DecidableEq, Repr

/-- A bank (R152). -/
structure Bank where
  rows : BankRows
  state : BankState
  generation : Word32
  pins : Nat
  fingerprints : Option (Vector Word16 8)
deriving DecidableEq, Repr

/-- The operation in flight (R152); a commit keeps its declared checksum (R158). -/
inductive Operation | none | copy | commit (declared : Word16)
deriving DecidableEq, Repr

/-- Table kinds, in the order of their codes (Table 11-4). -/
inductive TableKind | planHeader | segment | band | reference | verdict
deriving DecidableEq, Repr

/-- Reasons of the error detail (Table 9-4, R161). -/
inductive Reason
  | checksum | noPlan | noDrivenSegment | bandOrder | bandUnreached | referenceMissing | referenceExtra | noCatchAll
  | confirm | notOpen
deriving DecidableEq, Repr

/-- The error detail record (R161). -/
structure ErrorDetail where
  reason : Reason
  kind : Option TableKind
  plan : Option PlanId
  row : Option (Fin 32)
  computed : Option Word16
deriving DecidableEq, Repr

/-- The Table Store (R151, R152, R161). `operationTimer` counts the frames of the operation in flight (R157, R160). -/
structure TableStore where
  bankA : Bank
  bankB : Bank
  generationCounter : Word32
  operation : Operation
  operationTimer : Nat
  loadError : Bool
  sequenceError : Bool
  detail : Option ErrorDetail
deriving DecidableEq, Repr

/-! ## Nests (Chapters 1 to 4, 7, 8) -/

/-- Nest states (Table 1-1), in the order of their codes (Table 11-4). -/
inductive NestState
  | empty | loaded | clamping | levelLock | quietCheck | sweeping | judging | labelWait | marking | releasing | done
  | fault
deriving DecidableEq, Repr

/-- Sub-states of the arbitrated stages (Table 3-1); `none` elsewhere. -/
inductive SubStage | none | held | locking | waitPermit | measuring | retryWait | running
deriving DecidableEq, Repr

/-- Calibration states (Table 7-1), in the order of their codes (Table 11-4). -/
inductive CalState | notRequired | due | ok | out
deriving DecidableEq, Repr

/-- Capture status (R140), in the order of the codes (Table 11-4). -/
inductive CaptureStatus | none | taken | truncated | skipped
deriving DecidableEq, Repr

/-- A capture chain (R140). -/
structure Chain where
  blocks : List BlockId
  fill : Nat
  status : CaptureStatus
  recording : Bool
deriving DecidableEq, Repr

/-- A band accumulator (Table 4-4). The distortion is in 0.01 %. -/
structure Accumulator where
  minResponse : Option Int
  maxResponse : Option Int
  maxDistortion : Option Nat
  maxBuzz : Option Int
  maxCrest : Option Int
  windowCount : Nat
  uncorrectedSum : Int
deriving DecidableEq, Repr

/-- The verdict field of a Unit Record (R93, R97). A GOLDEN unit has no entry and no bin. -/
structure Verdict where
  cls : LabelClass
  bin : Option (Fin 16)
  entry : Option (Fin 16)
  actions : ActionSet
  markPulse : Nat
  override : CaptureOverride
deriving DecidableEq, Repr

/-- The Unit Record (Table 1-2). `serial` empty is an absent serial. `chainKept` is the capture decision (R94) and
`calStale` the CAL_STALE decision (R131), which the manual has made before the label is formed. -/
structure UnitRecord where
  role : Role
  plan : PlanId
  bank : BankId
  generation : Word32
  serial : List Byte
  lot : Word32
  tries : Nat
  dwell : Nat
  sub : SubStage
  quietAttempts : Nat
  lockedGain : Option Int
  cursor : Fin 24
  resweeps : Nat
  accumulators : Vector Accumulator 32
  unmapped : Nat
  failures : FailureSet
  worst : Option (BandId × Int)
  chain : Chain
  chainKept : Bool
  corrections : Vector Int 32
  calAtStart : CalState
  verdict : Option Verdict
  calStale : Bool
  partLost : Bool
deriving DecidableEq, Repr

/-- Drive modes of a Tone Generator (Table 2-3). -/
inductive DriveMode | silent | lock | segment | pass (slot : Fin 2)
deriving DecidableEq, Repr

/-- A Tone Generator (R34, Table 2-4). `timer` counts frames of the lock or segment in progress. `intervals` counts
the lock intervals already evaluated, and `sense` and `pilot` are the samples of the interval in progress, in arrival
order: the drive-sense samples, and the delayed microphone samples (R38, R39; log 26). The phase counts turns /
(96,000 · 2^32): a frame at f Hz advances it by f · 2^32 (log 8). -/
structure ToneGenerator where
  mode : DriveMode
  gain : Int
  phase : Nat
  timer : Nat
  inTolerance : Nat
  intervals : Nat
  sense : List Sample
  pilot : List Sample
deriving DecidableEq, Repr

/-- The frequency of a window in Hz (R68, Table 4-1): one frequency, or the range [lower, upper) of the bands a SILENCE
window feeds; `none` for a SILENCE window that feeds no band. -/
inductive WindowFrequency | single (f : Nat) | range (lower upper : Nat) | none
deriving DecidableEq, Repr

/-- An open window (R68): the cursor it belongs to, its index in the segment, its spans in segment-timer frames
(half open), its frequency, the microphone and ambient samples of the frames so far, and the partial sums of its
measurements: the microphone samples' squares and largest magnitude, and the ambient samples' squares (log 35). -/
structure OpenWindow where
  cursor : Fin 24
  index : Nat
  driveStart : Nat
  driveEnd : Nat
  micStart : Nat
  micEnd : Nat
  frequency : WindowFrequency
  samples : List Sample
  ambient : List Sample
  micSquares : Nat
  micPeak : Nat
  ambientSquares : Nat
deriving DecidableEq, Repr

/-- An Analysis Engine (R68). `closed` counts the windows of the running segment that have closed. -/
structure AnalysisEngine where
  window : Option OpenWindow
  closed : Nat
deriving DecidableEq, Repr

/-- A nest: its sequencer, tone generator and analysis engine. The CLAMP claim is the nest state's (R4). `settling`
is a running settle: frames run, and frames in all (R14, R176). `stageTimer` counts the quiet check window or the
retry wait (R61, R62), `quietCount` and `quietSquares` the samples taken in the window and their squares (R61), and
`judgeTimer` the frames of an evaluation (R84). `autoTestOwed` marks a nest that entered LOADED in a LINK RESET and has
not left it since (R30). -/
structure Nest where
  state : NestState
  record : Option UnitRecord
  history : HistorySet
  gateOpen : Bool
  autoStart : Option PlanId
  loopback : Bool
  markClaim : Bool
  gateClaim : Bool
  lampClaim : Bool
  clampTimer : Nat
  settling : Option (Nat × Nat)
  releaseTimer : Nat
  markTimer : Nat
  stageTimer : Nat
  quietCount : Nat
  quietSquares : Nat
  judgeTimer : Nat
  autoTestOwed : Bool
  tone : ToneGenerator
  engine : AnalysisEngine
deriving DecidableEq, Repr

/-! ## Enclosure groups (Chapter 3) -/

/-- An ambient level (R63): that of `count` ambient samples whose sum of squares, without what the guard leaves out, is
`squares` (log 39). -/
structure AmbientLevel where
  count : Nat
  squares : Nat
deriving DecidableEq, Repr

/-- One enclosure group: its Permit Arbiter (R53 to R55), its loud threshold (R52), and what its Ambient Guard last
found (R63): the ambient level and the void indication. -/
structure Group where
  holder : Option NestId
  queue : List NestId
  loud : Vector Bool 4
  threshold : Int
  ambientLevel : Option AmbientLevel
  windowVoid : Bool
deriving DecidableEq, Repr

/-! ## Label Unit (Chapter 5) -/

/-- A label record (Table 5-3). -/
structure Label where
  number : Word32
  nest : NestId
  role : Role
  plan : PlanId
  generation : Word32
  serial : List Byte
  lot : Word32
  cls : LabelClass
  bin : Option (Fin 16)
  failures : FailureSet
  tries : Nat
  worst : Option (BandId × Int)
  actions : ActionSet
  captureStatus : CaptureStatus
  captureBlocks : Nat
  calAtStart : CalState
  calStale : Bool
deriving DecidableEq, Repr

/-- A posted entry: a label and perhaps a chain (R100). -/
structure RingEntry where
  label : Label
  chain : Option Chain
deriving DecidableEq, Repr

/-- The Label Unit (R99, R100, R105). An entry that is `none` is owned by PART. -/
structure LabelUnit where
  ring : Vector (Option RingEntry) 64
  post : EntryId
  ret : EntryId
  posted : Nat
  counter : Word32
  waitQueue : List NestId
deriving DecidableEq, Repr

/-! ## Yield Counters and Calibration Store (Chapters 6, 7) -/

/-- The twenty-four counters of one nest (Table 6-1). -/
structure Counters where
  started : Word32
  labelled : Word32
  discarded : Word32
  voided : Word32
  golden : Word32
  engineering : Word32
  retests : Word32
  marginal : Word32
  bins : Vector Word32 16
deriving DecidableEq, Repr

/-- The Yield Counters (R111). -/
structure YieldCounters where
  live : Vector Counters 4
  snapshot : Vector Counters 4
  number : Word32
deriving DecidableEq, Repr

/-- A calibration record (Table 7-1). -/
structure CalRecord where
  state : CalState
  corrections : Vector Int 32
  stamp : Word32
deriving DecidableEq, Repr

/-- A drift window (section 6.3). -/
structure DriftWindow where
  labels : Nat
  marginals : Nat
  length : Nat
  limit : Nat
deriving DecidableEq, Repr

/-- The Calibration Store (R125, R124). -/
structure CalibrationStore where
  records : Vector (Vector CalRecord 8) 4
  drift : Vector DriftWindow 4
deriving DecidableEq, Repr

/-! ## Capture Pool (Chapter 8). The samples themselves are `State.samples`. -/

/-- The Free List and the capture-low threshold (R139, R149). -/
structure CapturePool where
  free : List BlockId
  lowThreshold : Nat
deriving DecidableEq, Repr

/-! ## Fixture Interface (Chapter 10) -/

/-- The Fixture Map of one nest (Table 10-2). Inputs PRESENT, CLAMPED, LID, AUX and outputs CLAMP, MARK, GATE, LAMP
stand at 0 to 3. -/
structure FixtureMap where
  polarity : Vector Polarity 4
  debounce : Vector Nat 4
  detector : Vector Bool 4
  mode : Vector OutputMode 4
  clampTimeout : Nat
  settle : Nat
  releaseTimeout : Nat
deriving DecidableEq, Repr

/-- The fixture lines of one nest (R168 to R171). -/
structure FixtureLines where
  map : FixtureMap
  taken : Vector Bool 4
  count : Vector Nat 4
  changed : Vector Bool 4
  manual : Vector Bool 4
deriving DecidableEq, Repr

/-! ## Links (Chapter 11) -/

/-- The Nest Link Port (R178, R179) with the samples of the last frame, `mic` after the loopback selection. `past` holds
the microphone samples of each nest over the last 480 frames, the latest first: as many as the longest ACOUSTIC DELAY,
by which the quiet check takes its samples delayed (R61; log 34). -/
structure NestPort where
  locked : Bool
  received : Nat
  missed : Nat
  mic : Vector Sample 4
  sense : Vector Sample 4
  ambient : Vector Sample 2
  drive : Vector Sample 4
  outFixture : Word16
  past : Vector (List Sample) 4
deriving DecidableEq, Repr

/-- The Controller Link Port (R180, R51) with its last outbound frame. -/
structure ControllerPort where
  locked : Bool
  received : Nat
  missed : Nat
  slots : Vector Sample 2
  monitor : Vector MonitorSel 2
  outMonitor : Vector Sample 2
  outBytes : Vector (Option Byte) 4
deriving DecidableEq, Repr

/-! ## Notice Arbiter (Chapter 12) -/

/-- Causes of a CAL notice (R137). -/
inductive CalCause | golden | switched | drift | clear
deriving DecidableEq, Repr

/-- The Notice Arbiter (R189, R192) with the details its conditions record (R13, R137). -/
structure NoticeArbiter where
  pending : Vector Bool 18
  priorities : Vector Nat 9
  labelsPosted : Word32
  timer : Option Nat
  coalescingCount : Nat
  coalescingTime : Nat
  refusal : Vector (Option Status) 4
  calCause : Vector (Option (CalCause × Option PlanId)) 4
deriving DecidableEq, Repr

/-! ## Everything but the Management Interface -/

/-- All blocks but the Management Interface and the sample store. -/
structure Device where
  nestPort : NestPort
  controllerPort : ControllerPort
  notices : NoticeArbiter
  nests : Vector Nest 4
  groups : Vector Group 2
  groupMap : Vector GroupId 4
  tables : TableStore
  labels : LabelUnit
  yields : YieldCounters
  calibration : CalibrationStore
  pool : CapturePool
  fixture : Vector FixtureLines 4
deriving DecidableEq, Repr

/-! ## Management Interface (Chapter 11) -/

/-- Inbound parser states (R182). -/
inductive ParserState | hunt | ready | receiving
deriving DecidableEq, Repr

/-- A command of the Command Queue: type, tag, body (R183). -/
structure Command where
  type : Byte
  tag : Byte
  body : List Byte
deriving DecidableEq, Repr

/-- One accumulator as UNIT READ reports it (R195). -/
structure AccumulatorReport where
  minResponse : Option Int
  maxResponse : Option Int
  maxDistortion : Option Nat
  maxBuzz : Option Int
  maxCrest : Option Int
  windowCount : Nat
  mean : Option Int
deriving DecidableEq, Repr

/-- The Unit Record fields UNIT READ carries (R195): those of Table 1-2 but the correction copy and accumulators. The
quiet attempt count is kept with the current stage (R61); that the reply carries it is the model's choice (log 36). -/
structure RecordReport where
  nest : NestId
  role : Role
  plan : PlanId
  bank : BankId
  generation : Word32
  serial : List Byte
  lot : Word32
  tries : Nat
  dwell : Nat
  stage : NestState
  sub : SubStage
  quietAttempts : Nat
  lockedGain : Option Int
  cursor : Fin 24
  resweeps : Nat
  unmapped : Nat
  failures : FailureSet
  worst : Option (BandId × Int)
  chainHead : Option BlockId
  chainBlocks : Nat
  chainStatus : CaptureStatus
  calAtStart : CalState
  verdict : Option Verdict
  partLost : Bool
deriving DecidableEq, Repr

/-- The reported part of one drift window (R123). -/
structure DriftReport where
  nest : NestId
  labels : Nat
  marginals : Nat
  length : Nat
  limit : Nat
deriving DecidableEq, Repr

/-- The data of a reply, as the command's rule gives it. -/
inductive ReplyData
  | none
  | status (body : List Byte)
  | version (bytes : List Byte)
  | unit (nest : NestState) (history : HistorySet) (record : Option RecordReport)
      (bands : List (Option AccumulatorReport))
  | records (entries : List (EntryId × Label))
  | returned (entries : Nat)
  | capture (label : Word32) (block chunk valid : Nat) (samples : List Sample)
  | released (label : Word32) (blocks : Nat)
  | row (kind plan row : Byte)
  | detail (d : Option ErrorDetail)
  | checksum (sum : Word16)
  | generation (g : Word32)
  | snapshot (number : Word32)
  | counters (number : Word32) (nest page : Byte) (values : List Word32)
  | correction (nest plan : Byte) (state : CalState) (stamp : Word32) (bands : Nat) (values : Vector Int 32)
  | outputs (refused lines : Word16)
  | map (nest : NestId) (m : FixtureMap)
  | drift (windows : List DriftReport)
  | noticeSettings (priorities : Vector Nat 9) (count time threshold : Nat)
deriving DecidableEq, Repr

/-- A reply: its tag, the type of its command, its status and data (R184). -/
structure Reply where
  tag : Byte
  type : Byte
  status : Status
  data : ReplyData
deriving DecidableEq, Repr

/-- A message being sent: its bytes, those still to send, and whether it is a reply (R180, R183, R185). The bytes of
a notice are its frozen body's (R190). -/
structure Sending where
  isReply : Bool
  bytes : List Byte
  left : List Byte
deriving DecidableEq, Repr

/-- The Management Interface (R182 to R186). `partBytes` is the message being received. `completed` holds messages
whose check byte has arrived and which wait for MESSAGE_RECEIVED. `held` is the tag and type of the command whose reply
is held (R184). -/
structure Management where
  parser : ParserState
  partBytes : List Byte
  completed : List (List Byte)
  discards : Byte
  queue : List Command
  replies : List Reply
  held : Option (Byte × Byte)
  credit : Nat
  consecutive : Nat
  sending : Option Sending
  idlePassed : Bool
deriving DecidableEq, Repr

/-- The state of the part and the queue of rows that wait, first in, first out. `samples` is the content of the
capture blocks (R139) as a memory of bytes: see `Sys2Proof.Machine.Memory`. -/
structure State where
  pending : List Instr
  mgmt : Management
  samples : List Host.Cell
  dev : Device
deriving DecidableEq, Repr

/-- What stops the machine. -/
inductive Fault
  /-- raised by JUDGE_COMPLETE when no verdict entry of the pinned bank matches the failure set. R92 rules it out for
  a committed bank and gives no effect. Safe. Log 20. -/
  | noMatchingVerdict
deriving DecidableEq, Repr

/-- Why a row has no meaning. -/
inductive Refusal
  /-- raised by `exec` for a row of the table that has no meaning in the model yet. Safe. -/
  | notModelled (mnemonic : String)
deriving DecidableEq, Repr

/-! ## Power-on reset -/

/-- Table 9-2, PLAN_HEADER. -/
def PlanHeader.cleared : PlanHeader where
  defined := false
  segmentCount := 1
  bandCount := 1
  pilotFrequency := 1000
  pilotLevel := -200
  senseTarget := -200
  lockTolerance := 5
  lockTimeout := 500
  noSignalFloor := -400
  acousticDelay := 0
  quietLimit := -600
  quietRetries := 0
  ambientLimit := -400
  resweeps := 0
  retestLimit := 0
  dwellFactor := 1
  capturePolicy := .none
  captureBlockLimit := 1
  referenceValid := false
  adjustLimit := 10

/-- Table 9-2, SEGMENT. -/
def Segment.cleared : Segment where
  kind := .silence
  startFrequency := 1000
  endFrequency := 1000
  level := -600
  duration := 100
  settle := 0
  quiet := false
  capture := false

/-- Table 9-2, BAND. -/
def Band.cleared : Band where
  lower := 10
  upper := 11
  responseLower := -1000
  responseUpper := 400
  distortionLimit := 10000
  buzzLimit := 400
  crestLimit := 600
  guardMargin := 0

/-- Table 9-2, REFERENCE. -/
def Reference.cleared : Reference where
  response := 0
  present := false

/-- Table 9-2, VERDICT. -/
def VerdictEntry.cleared : VerdictEntry where
  require := 0
  exclude := 0
  cls := .void
  retest := false
  bin := 0
  actions := 0
  markPulse := 10
  override := .inherit

/-- A plan of cleared rows. -/
def Plan.cleared : Plan where
  header := .cleared
  segments := Vector.replicate 24 .cleared
  bands := Vector.replicate 32 .cleared
  references := Vector.replicate 32 .cleared

/-- A bank at power-on reset (R151, R152). -/
def Bank.reset : Bank where
  rows := { plans := Vector.replicate 8 .cleared, verdicts := Vector.replicate 16 .cleared }
  state := .empty
  generation := 0
  pins := 0
  fingerprints := none

/-- The Table Store at power-on reset (R151, R152, R161). -/
def TableStore.reset : TableStore where
  bankA := .reset
  bankB := .reset
  generationCounter := 0
  operation := .none
  operationTimer := 0
  loadError := false
  sequenceError := false
  detail := none

/-- An empty chain of a new Unit Record or a retest (R140, R144). -/
def Chain.empty : Chain where
  blocks := []
  fill := 0
  status := .none
  recording := true

/-- An accumulator's initial value (Table 4-4). -/
def Accumulator.initial : Accumulator where
  minResponse := none
  maxResponse := none
  maxDistortion := none
  maxBuzz := none
  maxCrest := none
  windowCount := 0
  uncorrectedSum := 0

/-- A Tone Generator at power-on reset (R34). -/
def ToneGenerator.reset : ToneGenerator where
  mode := .silent
  gain := 0
  phase := 0
  timer := 0
  inTolerance := 0
  intervals := 0
  sense := []
  pilot := []

/-- A nest at power-on reset (R31, R34, R68). -/
def Nest.reset : Nest where
  state := .empty
  record := none
  history := 0
  gateOpen := true
  autoStart := none
  loopback := false
  markClaim := false
  gateClaim := false
  lampClaim := false
  clampTimer := 0
  settling := none
  releaseTimer := 0
  markTimer := 0
  stageTimer := 0
  quietCount := 0
  quietSquares := 0
  judgeTimer := 0
  autoTestOwed := false
  tone := .reset
  engine := { window := none, closed := 0 }

/-- A group at power-on reset (R52, R54, R63). -/
def Group.reset : Group where
  holder := none
  queue := []
  loud := Vector.replicate 4 false
  threshold := -200
  ambientLevel := none
  windowVoid := false

/-- The Label Unit at power-on reset (R110). -/
def LabelUnit.reset : LabelUnit where
  ring := Vector.replicate 64 none
  post := 0
  ret := 0
  posted := 0
  counter := 1
  waitQueue := []

/-- Counters of one nest, all 0. -/
def Counters.zero : Counters where
  started := 0
  labelled := 0
  discarded := 0
  voided := 0
  golden := 0
  engineering := 0
  retests := 0
  marginal := 0
  bins := Vector.replicate 16 0

/-- The Yield Counters at power-on reset (R111). -/
def YieldCounters.reset : YieldCounters where
  live := Vector.replicate 4 .zero
  snapshot := Vector.replicate 4 .zero
  number := 0

/-- A calibration record at power-on reset (R125). -/
def CalRecord.reset : CalRecord where
  state := .notRequired
  corrections := Vector.replicate 32 0
  stamp := 0

/-- The Calibration Store at power-on reset (R125, R124). -/
def CalibrationStore.reset : CalibrationStore where
  records := Vector.replicate 4 (Vector.replicate 8 .reset)
  drift := Vector.replicate 4 { labels := 0, marginals := 0, length := 100, limit := 10 }

/-- The Capture Pool at power-on reset (R139, R149): block 0 at the head of the Free List. -/
def CapturePool.reset : CapturePool where
  free := List.finRange 64
  lowThreshold := 8

/-- The Fixture Map at power-on reset (Table 10-2). -/
def FixtureMap.reset : FixtureMap where
  polarity := Vector.replicate 4 .activeHigh
  debounce := Vector.replicate 4 10
  detector := #v[true, true, false, false]
  mode := Vector.replicate 4 .sequencer
  clampTimeout := 2000
  settle := 200
  releaseTimeout := 2000

/-- The fixture lines of a nest at power-on reset (R169 to R171). -/
def FixtureLines.reset : FixtureLines where
  map := .reset
  taken := Vector.replicate 4 false
  count := Vector.replicate 4 0
  changed := Vector.replicate 4 false
  manual := Vector.replicate 4 false

/-- The Nest Link Port at power-on reset: LOST (R179); the outbound word has every output de-asserted (R171, R172).
The samples of a last frame are DESIGN CHOICE 0, and no earlier frame is listed. Log 9. -/
def NestPort.reset : NestPort where
  locked := false
  received := 0
  missed := 0
  mic := Vector.replicate 4 0
  sense := Vector.replicate 4 0
  ambient := Vector.replicate 2 0
  drive := Vector.replicate 4 0
  outFixture := 0xFFFF
  past := Vector.replicate 4 []

/-- The Controller Link Port at power-on reset: HOLDOVER (R180), both monitor slots SILENCE (R51). The last outbound
frame is DESIGN CHOICE silent and idle. Log 9. -/
def ControllerPort.reset : ControllerPort where
  locked := false
  received := 0
  missed := 0
  slots := Vector.replicate 2 0
  monitor := Vector.replicate 2 .silence
  outMonitor := Vector.replicate 2 0
  outBytes := Vector.replicate 4 none

/-- The Notice Arbiter at power-on reset (R189, R192). -/
def NoticeArbiter.reset : NoticeArbiter where
  pending := Vector.replicate 18 false
  priorities := Vector.replicate 9 8
  labelsPosted := 0
  timer := none
  coalescingCount := 1
  coalescingTime := 100
  refusal := Vector.replicate 4 none
  calCause := Vector.replicate 4 none

/-- All blocks but the Management Interface at power-on reset. -/
def Device.reset : Device where
  nestPort := .reset
  controllerPort := .reset
  notices := .reset
  nests := Vector.replicate 4 .reset
  groups := Vector.replicate 2 .reset
  groupMap := #v[0, 0, 1, 1]
  tables := .reset
  labels := .reset
  yields := .reset
  calibration := .reset
  pool := .reset
  fixture := Vector.replicate 4 .reset

/-- The Management Interface at power-on reset (R182, R183, R185). -/
def Management.reset : Management where
  parser := .hunt
  partBytes := []
  completed := []
  discards := 0
  queue := []
  replies := []
  held := none
  credit := 0
  consecutive := 0
  sending := none
  idlePassed := true

/-- The part right after power-on reset: no row waits, and no sample has been written. -/
def State.reset : State where
  pending := []
  mgmt := .reset
  samples := []
  dev := .reset

end Sys2Proof.Machine
end

