-- ==== Sys2Proof/Machine/Flags.lean ====
section
/-! DEFINITION. Positions and codes: the bit of a failure class, history event or action in its set word, the code of
each named value (Table 11-4, Table 11-2), and the indices of notice sources and fixture lines. -/

namespace Sys2Proof.Machine

/-- Position of a failure class in its list (R91, NOTE 1; R154). -/
def FailureClass.bit : FailureClass → Nat
  | .respLow => 0 | .respHigh => 1 | .distortion => 2 | .buzz => 3 | .crest => 4 | .polarity => 5 | .noSignal => 6
  | .levelLock => 7 | .noise => 8 | .fixture => 9 | .marginal => 10 | .aborted => 11 | .link => 12

/-- Position of a history event in Table 1-3. -/
def HistoryEvent.bit : HistoryEvent → Nat
  | .started => 0 | .clamped => 1 | .locked => 2 | .quiet => 3 | .swept => 4 | .judged => 5 | .retested => 6
  | .reswept => 7 | .labelled => 8 | .levelFail => 9 | .noiseFail => 10 | .fixtureFail => 11

/-- A set with one more class; a class already present is not added again. -/
def addFailure (f : FailureSet) (c : FailureClass) : FailureSet := f ||| BitVec.twoPow 16 c.bit

/-- Membership of a failure class. -/
def hasFailure (f : FailureSet) (c : FailureClass) : Bool := f.getLsbD c.bit

/-- A history set with one more event (R7). -/
def addEvent (h : HistorySet) (e : HistoryEvent) : HistorySet := h ||| BitVec.twoPow 16 e.bit

/-- The thirteen classes as one set: the codes a verdict row may hold (Table 5-1). -/
def allFailures : FailureSet := 0x1FFF

/-- MARK, GATE and LAMP in an action set (R154). -/
def actMark (a : ActionSet) : Bool := a.getLsbD 0
/-- GATE in an action set. -/
def actGate (a : ActionSet) : Bool := a.getLsbD 1
/-- LAMP in an action set. -/
def actLamp (a : ActionSet) : Bool := a.getLsbD 2
/-- The action set that names LAMP alone (R97). -/
def lampOnly : ActionSet := 4

/-- Reply status codes (Table 11-2). -/
def Status.code : Status → Byte
  | .ok => 0 | .busy => 1 | .refusedState => 2 | .badField => 3 | .badLength => 4 | .unknownType => 5
  | .loadBlocked => 6 | .noTables => 7 | .refusedCal => 8

/-- Nest state codes (Table 11-4). -/
def NestState.code : NestState → Byte
  | .empty => 0 | .loaded => 1 | .clamping => 2 | .levelLock => 3 | .quietCheck => 4 | .sweeping => 5 | .judging => 6
  | .labelWait => 7 | .marking => 8 | .releasing => 9 | .done => 10 | .fault => 11

/-- The seven test stages (R2). -/
def NestState.testStage : NestState → Bool
  | .clamping | .levelLock | .quietCheck | .sweeping | .judging | .labelWait | .marking => true
  | .empty | .loaded | .releasing | .done | .fault => false

/-- The states of a unit in test: CLAMPING through LABEL_WAIT (R2). -/
def NestState.inTest : NestState → Bool
  | .clamping | .levelLock | .quietCheck | .sweeping | .judging | .labelWait => true
  | .empty | .loaded | .marking | .releasing | .done | .fault => false

/-- The stages in which a unit can end early: CLAMPING through JUDGING (R24). -/
def NestState.endsEarly : NestState → Bool
  | .clamping | .levelLock | .quietCheck | .sweeping | .judging => true
  | .empty | .loaded | .labelWait | .marking | .releasing | .done | .fault => false

/-- Bank state codes (Table 11-4). -/
def BankState.code : BankState → Byte
  | .empty => 0 | .opened => 1 | .verifying => 2 | .ready => 3 | .active => 4 | .retiring => 5

/-- Role codes (Table 11-4). -/
def roleCode : Role → Byte
  | .production => 0 | .golden => 1 | .engineering => 2

/-- The role of a code; other codes name none. -/
def roleOf (b : Byte) : Option Role :=
  if b = 0 then some .production else if b = 1 then some .golden else if b = 2 then some .engineering else none

/-- Class codes (Table 11-4). -/
def LabelClass.code : LabelClass → Byte
  | .pass => 0 | .fail => 1 | .void => 2

/-- Capture status codes (Table 11-4). -/
def CaptureStatus.code : CaptureStatus → Byte
  | .none => 0 | .taken => 1 | .truncated => 2 | .skipped => 3

/-- Calibration state codes (Table 11-4). -/
def CalState.code : CalState → Byte
  | .notRequired => 0 | .due => 1 | .ok => 2 | .out => 3

/-- Table kind codes (Table 11-4). -/
def TableKind.code : TableKind → Byte
  | .planHeader => 0 | .segment => 1 | .band => 2 | .reference => 3 | .verdict => 4

/-- The table kind of a code; other codes name none (R155, check 2). -/
def tableKindOf (b : Byte) : Option TableKind :=
  if b = 0 then some .planHeader else if b = 1 then some .segment else if b = 2 then some .band
  else if b = 3 then some .reference else if b = 4 then some .verdict else none

/-- Reason codes (Table 9-4, R161). -/
def Reason.code : Reason → Byte
  | .checksum => 0x01 | .noPlan => 0x02 | .noDrivenSegment => 0x03 | .bandOrder => 0x04 | .bandUnreached => 0x05
  | .referenceMissing => 0x06 | .referenceExtra => 0x07 | .noCatchAll => 0x08 | .confirm => 0x10 | .notOpen => 0x11

/-- CAL causes (Table 11-7). -/
def CalCause.code : CalCause → Byte
  | .golden => 1 | .switched => 2 | .drift => 3 | .clear => 4

/-- Position of an input among a nest's four (Table 11-4). -/
def inputIndex : InputLine → Fin 4
  | .present => 0 | .clamped => 1 | .lid => 2 | .aux => 3

/-- Position of CLAMP among a nest's outputs (Table 11-4). -/
def clampOut : Fin 4 := 0
/-- Position of MARK. -/
def markOut : Fin 4 := 1
/-- Position of GATE. -/
def gateOut : Fin 4 := 2
/-- Position of LAMP. -/
def lampOut : Fin 4 := 3

/-- NEST_FAULT source of a nest (Table 12-1). -/
def nestFaultSource (n : NestId) : SourceId := ⟨n.val, by omega⟩
/-- FIXTURE source of a nest (Table 12-1). -/
def fixtureSource (n : NestId) : SourceId := ⟨4 + n.val, by omega⟩
/-- CAL source of a nest (Table 12-1). -/
def calSource (n : NestId) : SourceId := ⟨8 + n.val, by omega⟩
/-- LABELS. -/
def labelsSource : SourceId := 12
/-- RING_FULL. -/
def ringFullSource : SourceId := 13
/-- CAPTURE_LOW. -/
def captureLowSource : SourceId := 14
/-- BANK. -/
def bankSource : SourceId := 15
/-- LINK. -/
def linkSource : SourceId := 16
/-- DISCARD. -/
def discardSource : SourceId := 17

/-- The class of a source, as its place in the priority list of NOTICE CONFIG (Table 12-1, R193). -/
def sourceClass (i : SourceId) : Fin 9 :=
  if i.val < 4 then 0 else if i.val < 8 then 1 else if i.val < 12 then 2 else
    ⟨(i.val - 9) % 9, Nat.mod_lt _ (by decide)⟩

/-- A set pending flag (R189): a flag already set stays set. -/
def NoticeArbiter.raise (a : NoticeArbiter) (i : SourceId) : NoticeArbiter :=
  { a with pending := a.pending.set i true }

end Sys2Proof.Machine
end

