-- ==== Sys2Proof/WellFormed.lean ====
section
/-! DEFINITION. What a sender may offer: the operand conditions that the operand types do not already impose. `exec`
is total and does not depend on them. A field out of the manual's range is NOT ill formed: the part answers it. -/

namespace Sys2Proof

/-- The command types of Table 11-1 run from 01h to 1Dh without a gap. -/
def isCommandType (type : Byte) : Bool := 1 ≤ type.toNat && type.toNat ≤ 0x1D

/-- A list names nothing twice. -/
def noRepeats {α : Type} [DecidableEq α] : List α → Bool
  | [] => true
  | a :: l => !l.contains a && noRepeats l

/-- The measured levels of a window are levels of 16-bit samples: none exceeds +3.1 dBFS, just above the +3.01 dBFS of a
full-scale square wave, and a crest is not negative. The manual bounds the held values alone (R79) and states no bound
of a measured one: DESIGN CHOICE, log 6. -/
def Measures.wellFormed (m : Measures) : Bool := m.fundamental ≤ 31 && m.residueLevel ≤ 31 && 0 ≤ m.crest

/-- The operand conditions of a row. A unit has at most four tries (Table 1-2), and a lock at most 400 intervals of 20
ms: LOCK TIMEOUT is at most 2,000 ms and the dwell in force at most 4 (R40, Table 2-1). -/
def Instr.wellFormed : Instr → Bool
  | .nestLinkLoss order => noRepeats order
  | .linkReset _ _ order => noRepeats order
  | .fixtureMapWrite _ _ _ order => noRepeats order
  | .unknownType _ type => !isCommandType type
  | .tableWrite _ _ _ _ codes => codes.length ≤ 20
  | .lockIntervalEnd _ tryNumber interval => 1 ≤ tryNumber && tryNumber ≤ 4 && interval < 400
  | .quietWindowClose _ attempt => attempt ≤ 7
  | .windowClose _ m => m.wellFormed
  | .powerOnReset | .nestLinkFrame _ | .nestLinkLocked | .controllerLinkFrame _ | .controllerLinkLocked
  | .controllerLinkHoldover | .messageReceived | .messageChoice | .messageSent | .statusRead _ _ | .versionRead _
  | .nestStart _ _ | .nestAbort _ _ | .nestGate _ _ _ _ | .unitRead _ _ _ _ | .loopback _ _ _ | .passThrough _ _ _
  | .monitorSelect _ _ _ | .ringRead _ _ _ | .ringReturn _ _ | .captureFetch _ _ _ _ | .captureRelease _ _
  | .tableCommit _ _ | .bankCopy _ | .bankSwitch _ | .loadStatusClear _ | .counterSnapshot _ _
  | .counterSnapshotClear _ | .counterRead _ _ _ | .correctionRead _ _ _ | .correctionClear _ _ _ | .fixtureSet _ _
  | .fixtureClear _ _ | .groupMapWrite _ _ _ | .driftSettingsWrite _ _ _ _ | .noticeConfig _ _ _ _ _
  | .inputChangeTaken _ _ | .settleEnd _ | .clampTimeout _ | .releaseTimeout _ | .lockTimeout _
  | .quietRetryWaitEnd _ | .segmentEnd _ | .judgeComplete _ | .markPulseEnd _ | .bankCopyComplete
  | .verificationComplete | .coalescingTimerExpiry | .autoStartAfterReset => true

end Sys2Proof
end

