-- ==== Sys2Proof/Machine/Operands.lean ====
section
/-! DEFINITION. How bytes and codes are read and written: body lengths (Table 11-1), the body layouts the manual gives,
the row codes of R154 in both directions, and the byte layouts of messages, label records and replies (section 11.7). -/

namespace Sys2Proof.Machine

/-! ## Bytes -/

/-- The two bytes of a word, most significant first (R181). -/
def bytes16 (w : Word16) : List Byte := [w.extractLsb' 8 8, w.extractLsb' 0 8]

/-- The four bytes of a word, most significant first (R181). -/
def bytes32 (w : Word32) : List Byte :=
  [w.extractLsb' 24 8, w.extractLsb' 16 8, w.extractLsb' 8 8, w.extractLsb' 0 8]

/-- The word of two bytes, most significant first. -/
def word16 (h l : Byte) : Word16 := h ++ l

/-- The word of four bytes, most significant first. -/
def word32 (a b c d : Byte) : Word32 := a ++ b ++ c ++ d

/-- The sum of bytes modulo 256 (R181). -/
def sumBytes (l : List Byte) : Byte := l.foldr (· + ·) 0

/-- A whole message: type, tag, length, body, and the check byte that makes all bytes sum to 0 (Table 11-3). -/
def messageBytes (type tag : Byte) (body : List Byte) : List Byte :=
  let front := type :: tag :: BitVec.ofNat 8 body.length :: body
  front ++ [-(sumBytes front)]

/-- A nest number of a body byte. -/
def nestOf (b : Byte) : Option NestId := if h : b.toNat < 4 then some ⟨b.toNat, h⟩ else none

/-- A plan index of a body byte. -/
def planOf (b : Byte) : Option PlanId := if h : b.toNat < 8 then some ⟨b.toNat, h⟩ else none

/-- A ring index of a body byte. -/
def entryOf (b : Byte) : Option EntryId := if h : b.toNat < 64 then some ⟨b.toNat, h⟩ else none

/-! ## Body lengths (Table 11-1, R188) -/

/-- The body lengths of the types with one length or a short list of them. -/
def bodyLengths (type : Byte) : List Nat :=
  match type.toNat with
  | 0x01 => [1] | 0x02 => [0] | 0x03 => [24] | 0x04 => [1] | 0x05 => [3] | 0x06 => [2] | 0x07 => [2] | 0x08 => [2]
  | 0x09 => [4] | 0x0A => [2] | 0x0B => [1] | 0x0C => [6] | 0x0D => [4] | 0x0F => [0, 3] | 0x10 => [0] | 0x11 => [0]
  | 0x12 => [0] | 0x13 => [1] | 0x14 => [2] | 0x15 => [2] | 0x16 => [2] | 0x17 => [2] | 0x18 => [2] | 0x19 => [23]
  | 0x1A => [6] | 0x1B => [5] | 0x1C => [13] | 0x1D => [0, 1]
  | _ => []

/-- The body length of TABLE WRITE is fixed by its kind; a kind code outside the list fits 3 to 43 bytes (R188). -/
def tableWriteLengthFits (body : List Byte) : Bool :=
  match body with
  | [] => false
  | k :: _ =>
    match tableKindOf k with
    | some .planHeader => body.length == 43
    | some .segment | some .band | some .verdict => body.length == 19
    | some .reference => body.length == 7
    | none => 3 ≤ body.length && body.length ≤ 43

/-- Whether a body length fits its type (R188). -/
def lengthFits (type : Byte) (body : List Byte) : Bool :=
  if type = 0x0E then tableWriteLengthFits body else (bodyLengths type).contains body.length

/-! ## Body layouts the manual gives -/

/-- NEST START (Table 11-5). -/
def startFieldsOf (body : List Byte) : Option StartFields :=
  match body with
  | n :: r :: p :: a :: b :: c :: d :: len :: chars =>
    if h : chars.length = 16 then
      some { nest := n, role := r, plan := p, lot := word32 a b c d, serialLength := len,
             serial := ⟨⟨chars⟩, by simpa using h⟩ }
    else none
  | _ => none

/-- The two-byte field codes after a TABLE WRITE's kind, plan and row (R188). -/
def codesOf : List Byte → List Word16
  | h :: l :: rest => word16 h l :: codesOf rest
  | _ => []

/-- TABLE COMMIT: confirm code, then the declared checksum; or an empty body (R158). -/
def commitFieldsOf (body : List Byte) : Option (Option (Byte × Word16)) :=
  match body with
  | [] => some none
  | [c, h, l] => some (some (c, word16 h l))
  | _ => none

/-- LINK RESET: a confirm code, or an empty body (R186). -/
def confirmOf (body : List Byte) : Option (Option Byte) :=
  match body with
  | [] => some none
  | [c] => some (some c)
  | _ => none

/-- The output set of FIXTURE SET and FIXTURE CLEAR (Table 11-4). -/
def outputSetOf (body : List Byte) : Option Word16 :=
  match body with
  | [h, l] => some (word16 h l)
  | _ => none

/-! ## Row codes (R154) -/

/-- The code of a value: steps from the bottom of its range. -/
def stepCode (bottom step v : Int) : Nat := ((v - bottom) / step).toNat

/-- The value of a code, when it lies in the range. -/
def stepValue (bottom step top : Int) (code : Nat) : Option Int :=
  let v := bottom + step * code
  if v ≤ top then some v else none

/-- The value of a code of a whole-number field. -/
def natValue (bottom top code : Nat) : Option Nat := if bottom + code ≤ top then some (bottom + code) else none

/-- NO and YES (R154). -/
def boolCode (b : Bool) : Nat := if b then 1 else 0
/-- The value of a YES and NO code. -/
def boolValue (code : Nat) : Option Bool := if code = 0 then some false else if code = 1 then some true else none

/-- CAPTURE POLICY codes (R154). -/
def CapturePolicy.code : CapturePolicy → Nat
  | .none => 0 | .onFail => 1 | .always => 2
/-- The policy of a code. -/
def capturePolicyOf (c : Nat) : Option CapturePolicy :=
  if c = 0 then some .none else if c = 1 then some .onFail else if c = 2 then some .always else Option.none

/-- KIND codes (R154). -/
def SegmentKind.code : SegmentKind → Nat
  | .pilot => 0 | .step => 1 | .chirp => 2 | .silence => 3
/-- The kind of a code. -/
def segmentKindOf (c : Nat) : Option SegmentKind :=
  if c = 0 then some .pilot else if c = 1 then some .step else if c = 2 then some .chirp
  else if c = 3 then some .silence else none

/-- The class of a CLASS code (R154). -/
def labelClassOf (c : Nat) : Option LabelClass :=
  if c = 0 then some .pass else if c = 1 then some .fail else if c = 2 then some .void else none

/-- CAPTURE OVERRIDE codes (R154). -/
def CaptureOverride.code : CaptureOverride → Nat
  | .inherit => 0 | .force => 1 | .suppress => 2
/-- The override of a code. -/
def captureOverrideOf (c : Nat) : Option CaptureOverride :=
  if c = 0 then some .inherit else if c = 1 then some .force else if c = 2 then some .suppress else none

/-- The row image of a plan header (Table 2-1). -/
def PlanHeader.image (h : PlanHeader) : List Nat :=
  [boolCode h.defined, h.segmentCount - 1, h.bandCount - 1, h.pilotFrequency - 10, stepCode (-600) 5 h.pilotLevel,
   stepCode (-600) 5 h.senseTarget, stepCode 1 1 h.lockTolerance, h.lockTimeout - 50,
   stepCode (-600) 5 h.noSignalFloor, h.acousticDelay, stepCode (-900) 5 h.quietLimit, h.quietRetries,
   stepCode (-900) 5 h.ambientLimit, h.resweeps, h.retestLimit, h.dwellFactor - 1, h.capturePolicy.code,
   h.captureBlockLimit - 1, boolCode h.referenceValid, stepCode 1 1 h.adjustLimit]

/-- A plan header of its codes: every field within its range and step (R155, check 3; R32). -/
def planHeaderOf (codes : List Nat) : Option PlanHeader :=
  match codes with
  | [c0, c1, c2, c3, c4, c5, c6, c7, c8, c9, c10, c11, c12, c13, c14, c15, c16, c17, c18, c19] => do
    let defined ← boolValue c0
    let segmentCount ← natValue 1 24 c1
    let bandCount ← natValue 1 32 c2
    let pilotFrequency ← natValue 10 24000 c3
    let pilotLevel ← stepValue (-600) 5 0 c4
    let senseTarget ← stepValue (-600) 5 0 c5
    let lockTolerance ← stepValue 1 1 30 c6
    let lockTimeout ← natValue 50 2000 c7
    let noSignalFloor ← stepValue (-600) 5 0 c8
    let acousticDelay ← natValue 0 480 c9
    let quietLimit ← stepValue (-900) 5 0 c10
    let quietRetries ← natValue 0 7 c11
    let ambientLimit ← stepValue (-900) 5 0 c12
    let resweeps ← natValue 0 3 c13
    let retestLimit ← natValue 0 3 c14
    let dwellFactor ← natValue 1 4 c15
    let capturePolicy ← capturePolicyOf c16
    let captureBlockLimit ← natValue 1 32 c17
    let referenceValid ← boolValue c18
    let adjustLimit ← stepValue 1 1 120 c19
    some { defined, segmentCount, bandCount, pilotFrequency, pilotLevel, senseTarget, lockTolerance, lockTimeout,
           noSignalFloor, acousticDelay, quietLimit, quietRetries, ambientLimit, resweeps, retestLimit, dwellFactor,
           capturePolicy, captureBlockLimit, referenceValid, adjustLimit }
  | _ => none

/-- The row image of a segment (Table 2-2). -/
def Segment.image (s : Segment) : List Nat :=
  [s.kind.code, s.startFrequency - 10, s.endFrequency - 10, stepCode (-600) 5 s.level, s.duration - 2, s.settle,
   boolCode s.quiet, boolCode s.capture]

/-- A segment of its codes; SETTLE must be below DURATION (R33). -/
def segmentOf (codes : List Nat) : Option Segment :=
  match codes with
  | [c0, c1, c2, c3, c4, c5, c6, c7] => do
    let kind ← segmentKindOf c0
    let startFrequency ← natValue 10 24000 c1
    let endFrequency ← natValue 10 24000 c2
    let level ← stepValue (-600) 5 0 c3
    let duration ← natValue 2 2000 c4
    let settle ← natValue 0 200 c5
    let quiet ← boolValue c6
    let capture ← boolValue c7
    if settle < duration then
      some { kind, startFrequency, endFrequency, level, duration, settle, quiet, capture }
    else none
  | _ => none

/-- The row image of a band (Table 4-3). -/
def Band.image (b : Band) : List Nat :=
  [b.lower - 10, b.upper - 11, stepCode (-1000) 1 b.responseLower, stepCode (-1000) 1 b.responseUpper,
   b.distortionLimit - 1, stepCode (-1200) 1 b.buzzLimit, stepCode 0 1 b.crestLimit, stepCode 0 1 b.guardMargin]

/-- A band of its codes, with the conditions of R81. -/
def bandOf (codes : List Nat) : Option Band :=
  match codes with
  | [c0, c1, c2, c3, c4, c5, c6, c7] => do
    let lower ← natValue 10 24000 c0
    let upper ← natValue 11 24001 c1
    let responseLower ← stepValue (-1000) 1 400 c2
    let responseUpper ← stepValue (-1000) 1 400 c3
    let distortionLimit ← natValue 1 10000 c4
    let buzzLimit ← stepValue (-1200) 1 400 c5
    let crestLimit ← stepValue 0 1 600 c6
    let guardMargin ← stepValue 0 1 60 c7
    if lower < upper ∧ responseLower ≤ responseUpper then
      some { lower, upper, responseLower, responseUpper, distortionLimit, buzzLimit, crestLimit, guardMargin }
    else none
  | _ => none

/-- The row image of a reference row (R154). -/
def Reference.image (r : Reference) : List Nat := [stepCode (-1000) 1 r.response, boolCode r.present]

/-- A reference row of its codes (R127). -/
def referenceOf (codes : List Nat) : Option Reference :=
  match codes with
  | [c0, c1] => do
    let response ← stepValue (-1000) 1 400 c0
    let present ← boolValue c1
    some { response, present }
  | _ => none

/-- The row image of a verdict entry (Table 5-1). -/
def VerdictEntry.image (v : VerdictEntry) : List Nat :=
  [v.require.toNat, v.exclude.toNat, v.cls.code.toNat, boolCode v.retest, v.bin.val, v.actions.toNat, v.markPulse - 10,
   v.override.code]

/-- A verdict entry of its codes; REQUIRE SET and EXCLUDE SET share no class (R91). -/
def verdictOf (codes : List Nat) : Option VerdictEntry :=
  match codes with
  | [c0, c1, c2, c3, c4, c5, c6, c7] => do
    let require ← natValue 0 allFailures.toNat c0
    let exclude ← natValue 0 allFailures.toNat c1
    let cls ← labelClassOf c2
    let retest ← boolValue c3
    let bin ← natValue 0 15 c4
    let actions ← natValue 0 7 c5
    let markPulse ← natValue 10 2000 c6
    let override ← captureOverrideOf c7
    let r := BitVec.ofNat 16 require
    let e := BitVec.ofNat 16 exclude
    if r &&& e = 0 then
      some { require := r, exclude := e, cls, retest, bin := Fin.ofNat 16 bin, actions := BitVec.ofNat 8 actions,
             markPulse, override }
    else none
  | _ => none

/-- The sum of row images modulo 65,536 (R154). -/
def sumImages (images : List (List Nat)) : Word16 :=
  images.foldl (fun acc image => acc + BitVec.ofNat 16 (image.foldl (· + ·) 0)) 0

/-- The row images of one plan in canonical order (R154). -/
def Plan.images (p : Plan) : List (List Nat) :=
  p.header.image :: (p.segments.toList.map Segment.image ++ p.bands.toList.map Band.image
    ++ p.references.toList.map Reference.image)

/-- The bank checksum over all 728 rows (R154). -/
def BankRows.checksum (r : BankRows) : Word16 :=
  sumImages (r.plans.toList.flatMap Plan.images ++ r.verdicts.toList.map VerdictEntry.image)

/-- A plan is reference-valid when both fields are YES (R127). -/
def PlanHeader.isReferenceValid (h : PlanHeader) : Bool := h.defined && h.referenceValid

/-- The fingerprint of a plan (R132): 0 when it is not defined. -/
def Plan.fingerprint (p : Plan) : Word16 :=
  if p.header.defined then
    sumImages ((p.bands.toList.take p.header.bandCount).map Band.image
      ++ if p.header.isReferenceValid then (p.references.toList.take p.header.bandCount).map Reference.image else [])
  else 0

/-! ## Layouts of section 11.7 -/

/-- A serial padded to sixteen bytes with 00h (Table 11-6). -/
def padSerial (s : List Byte) : List Byte := (s ++ List.replicate 16 0).take 16

/-- An absent byte value (Table 11-4). -/
def absentByte : Byte := 0xFF

/-- The 45 bytes of a label record (Table 11-6). Bits 1 to 7 of byte 44 are sent as 0: DESIGN CHOICE, log 44. -/
def Label.bytes (l : Label) : List Byte :=
  bytes32 l.number ++ [BitVec.ofNat 8 l.nest.val, roleCode l.role, BitVec.ofNat 8 l.plan.val] ++ bytes32 l.generation
  ++ [BitVec.ofNat 8 l.serial.length] ++ padSerial l.serial ++ bytes32 l.lot
  ++ [l.cls.code, (l.bin.map fun b => BitVec.ofNat 8 b.val).getD absentByte] ++ bytes16 l.failures
  ++ [BitVec.ofNat 8 l.tries, (l.worst.map fun w => BitVec.ofNat 8 w.1.val).getD absentByte]
  ++ bytes16 ((l.worst.map fun w => BitVec.ofInt 16 w.2).getD 0)
  ++ [l.actions, l.captureStatus.code, BitVec.ofNat 8 l.captureBlocks, l.calAtStart.code,
      if l.calStale then 1 else 0]

/-- The data of VERSION READ (R187): part code, revision, capacities, samples of a block. -/
def versionBytes : List Byte :=
  [0x4F, 0x50, 0x52, 0x49, 0x4C, 0x41, 0x4E, 0x20, 0x54, 0x34, Config.revisionByte, 4, 2, 8, 24, 32, 16, 16, 64, 64, 8,
   18, 240] ++ bytes16 4096

/-- A signed 16-bit value, or 8000h where it is absent (R195, R181). -/
def optBytes16 (v : Option Int) : List Byte := bytes16 (match v with | some x => BitVec.ofInt 16 x | none => 0x8000)

/-- The seven values of an accumulator as UNIT READ gives them, in the order of R195 (log 14): minimum and maximum
response, maximum distortion, buzz ratio and crest, window count, mean uncorrected response. -/
def AccumulatorReport.bytes (a : AccumulatorReport) : List Byte :=
  optBytes16 a.minResponse ++ optBytes16 a.maxResponse ++ optBytes16 (a.maxDistortion.map Int.ofNat)
  ++ optBytes16 a.maxBuzz ++ optBytes16 a.maxCrest ++ bytes16 (BitVec.ofNat 16 a.windowCount) ++ optBytes16 a.mean

/-- The fourteen bytes of a band of the page; an absent accumulator has every value absent. -/
def bandBytes (a : Option AccumulatorReport) : List Byte :=
  match a with
  | some a => a.bytes
  | none => (List.replicate 7 (bytes16 0x8000)).flatten

/-- The data bytes of a reply: by the manual's layout where it gives one, otherwise a free value held to the room a body
has (introduction 1.5.5; R181). CAPTURE FETCH sends its fields in the order of R147, and UNIT READ ends with its page of
accumulators (R195), at most 112 bytes (log 14). -/
def ReplyData.bytes : ReplyData → List Byte
  | .none => []
  | .status body => body
  | .version bytes => bytes
  | .records entries => entries.flatMap fun e => BitVec.ofNat 8 e.1.val :: e.2.bytes
  | .unit s h r b => (Config.replyDataBytes (s, h, r)).take 126 ++ b.flatMap bandBytes
  | .returned n => (Config.replyDataBytes (ReplyData.returned n)).take 238
  | .capture l b c v s =>
    bytes32 l ++ [BitVec.ofNat 8 b, BitVec.ofNat 8 c, BitVec.ofNat 8 v] ++ s.flatMap bytes16
  | .released l n => (Config.replyDataBytes (ReplyData.released l n)).take 238
  | .row k p r => (Config.replyDataBytes (ReplyData.row k p r)).take 238
  | .detail d => (Config.replyDataBytes (ReplyData.detail d)).take 238
  | .checksum c => (Config.replyDataBytes (ReplyData.checksum c)).take 238
  | .generation g => (Config.replyDataBytes (ReplyData.generation g)).take 238
  | .snapshot n => (Config.replyDataBytes (ReplyData.snapshot n)).take 238
  | .counters n i p v => (Config.replyDataBytes (ReplyData.counters n i p v)).take 238
  | .correction n p s g b v => (Config.replyDataBytes (ReplyData.correction n p s g b v)).take 238
  | .outputs r l => (Config.replyDataBytes (ReplyData.outputs r l)).take 238
  | .map n m => (Config.replyDataBytes (ReplyData.map n m)).take 238
  | .drift w => (Config.replyDataBytes (ReplyData.drift w)).take 238
  | .noticeSettings p c t h => (Config.replyDataBytes (ReplyData.noticeSettings p c t h)).take 238

/-- A reply as sent: type 80h, the command's tag, and a body of command type, status and data (R184). -/
def Reply.bytes (r : Reply) : List Byte := messageBytes 0x80 r.tag (r.type :: r.status.code :: r.data.bytes)

/-- A notice as sent: type 81h, tag 00h (chapter 12). -/
def noticeBytes (body : List Byte) : List Byte := messageBytes 0x81 0 body

end Sys2Proof.Machine
end

