-- ==== Sys2Proof/Machine/Ops.lean ====
section
/-! DEFINITION. The shared operations: the sample store, reading and changing a nest, record, bank, group or flag, the
capture pool, the permit arbiter, and the management interface's queues. Everything that reads or writes a piece of
state goes through one of these. -/

namespace Sys2Proof.Machine

/-! ## The sample store (R139): a memory of bytes in canonical form -/

/-- What a byte reads as; an unlisted address reads 0 (DESIGN CHOICE, log 10). -/
def Memory.read : List Host.Cell → Nat → Byte
  | [], _ => 0
  | c :: m, a => if c.1 = a then c.2 else Memory.read m a

/-- Write one byte and keep the canonical form: writing 0 removes the cell. -/
def Memory.write : List Host.Cell → Nat → Byte → List Host.Cell
  | [], a, v => if v = 0 then [] else [(a, v)]
  | c :: m, a, v =>
    if a < c.1 then (if v = 0 then c :: m else (a, v) :: c :: m)
    else if a = c.1 then (if v = 0 then m else (a, v) :: m)
    else c :: Memory.write m a v

/-- The canonical form: addresses strictly rising, no cell equal to what an unlisted address reads as. -/
def Memory.wf : List Host.Cell → Bool
  | [] => true
  | c :: m => c.2 != 0 && m.all (fun e => decide (c.1 < e.1)) && Memory.wf m

/-- The address of the first byte of sample `pos` of block `b`: 4096 samples of two bytes a block. -/
def sampleAddress (b : BlockId) (pos : Nat) : Nat := 2 * (4096 * b.val + pos)

/-- A sample, most significant byte first (R181; log 10). -/
def readSample (m : List Host.Cell) (b : BlockId) (pos : Nat) : Sample :=
  Memory.read m (sampleAddress b pos) ++ Memory.read m (sampleAddress b pos + 1)

/-- Store a sample. -/
def writeSample (m : List Host.Cell) (b : BlockId) (pos : Nat) (x : Sample) : List Host.Cell :=
  Memory.write (Memory.write m (sampleAddress b pos) (x.extractLsb' 8 8)) (sampleAddress b pos + 1) (x.extractLsb' 0 8)

/-! ## Search -/

/-- The largest number below `2 ^ bits` past `acc` that satisfies a condition true up to some point. -/
def largestWith (p : Nat → Bool) : Nat → Nat → Nat
  | 0, acc => acc
  | b + 1, acc => if p (acc + 2 ^ b) then largestWith p b (acc + 2 ^ b) else largestWith p b acc

/-! ## Time (R1) -/

/-- Frames of a duration in ms: 96 frames per ms. -/
def msFrames (ms : Nat) : Nat := 96 * ms

/-! ## Nests and records -/

/-- Nest `n`. -/
def Device.nest (d : Device) (n : NestId) : Nest := d.nests[n]

/-- Replace nest `n`. -/
def Device.setNest (d : Device) (n : NestId) (x : Nest) : Device := { d with nests := d.nests.set n x }

/-- Change nest `n`. -/
def Device.modNest (d : Device) (n : NestId) (f : Nest → Nest) : Device := d.setNest n (f (d.nest n))

/-- Change the Unit Record of nest `n`, where there is one. -/
def Device.modRecord (d : Device) (n : NestId) (f : UnitRecord → UnitRecord) : Device :=
  d.modNest n fun x => { x with record := x.record.map f }

/-- Add a history event to nest `n` (R7). -/
def Device.addHistory (d : Device) (n : NestId) (e : HistoryEvent) : Device :=
  d.modNest n fun x => { x with history := addEvent x.history e }

/-- Enter a nest state. -/
def Device.setState (d : Device) (n : NestId) (st : NestState) : Device := d.modNest n fun x => { x with state := st }

/-- Add a failure class to the unit of nest `n`. -/
def Device.addFailureTo (d : Device) (n : NestId) (c : FailureClass) : Device :=
  d.modRecord n fun r => { r with failures := addFailure r.failures c }

/-- Put the unit of nest `n` in a sub-state. -/
def Device.setSub (d : Device) (n : NestId) (sub : SubStage) : Device := d.modRecord n fun r => { r with sub := sub }

/-- The drive of nest `n` is silent from this step, its lock or segment timer stops, the in-tolerance count and the
samples of the lock interval in progress are dropped, and no window is open (R34, R41, R68, R75). The current drive gain
keeps its value (R41). The oscillator phase keeps its value too: the manual gives the phase at power-on reset and at the
start of a tone, and not between tones or after LINK RESET; that it stands is the model's choice (log 8). -/
def Device.silence (d : Device) (n : NestId) : Device :=
  d.modNest n fun x =>
    { x with
      tone := { x.tone with mode := .silent, timer := 0, inTolerance := 0, intervals := 0, sense := [], pilot := [] }
      engine := { window := none, closed := 0 } }

/-- Set the pending flag of a notice source (R189). -/
def Device.raise (d : Device) (i : SourceId) : Device := { d with notices := d.notices.raise i }

/-! ## Banks -/

/-- A bank of the Table Store. -/
def TableStore.bank (t : TableStore) : BankId → Bank
  | .bankA => t.bankA
  | .bankB => t.bankB

/-- Change a bank. -/
def TableStore.modBank (t : TableStore) (b : BankId) (f : Bank → Bank) : TableStore :=
  match b with
  | .bankA => { t with bankA := f t.bankA }
  | .bankB => { t with bankB := f t.bankB }

/-- The ACTIVE bank (R152: at most one). -/
def TableStore.activeBank (t : TableStore) : Option BankId :=
  if t.bankA.state = .active then some .bankA else if t.bankB.state = .active then some .bankB else none

/-- The standby bank (R153): neither ACTIVE nor RETIRING; Bank A while no bank is ACTIVE; none while the other bank is
RETIRING. -/
def TableStore.standby (t : TableStore) : Option BankId :=
  match t.activeBank with
  | none => some .bankA
  | some .bankA => if t.bankB.state = .retiring then none else some .bankB
  | some .bankB => if t.bankA.state = .retiring then none else some .bankA

/-- The plan header of the ACTIVE bank, or none when no bank is ACTIVE. -/
def Device.activeHeader (d : Device) (p : PlanId) : Option PlanHeader :=
  d.tables.activeBank.map fun b => (d.tables.bank b).rows.plans[p].header

/-- Whether a plan is reference-valid in the ACTIVE bank (R127). -/
def Device.activeReferenceValid (d : Device) (p : PlanId) : Bool :=
  (d.activeHeader p).any PlanHeader.isReferenceValid

/-- The plan of a unit, in its pinned bank. -/
def Device.planOf (d : Device) (r : UnitRecord) : Plan := (d.tables.bank r.bank).rows.plans[r.plan]

/-- Decrement a pin count at a unit's end (R6, R164): a RETIRING bank whose count reaches 0 becomes OPEN and the BANK
flag is set. -/
def Device.unpin (d : Device) (b : BankId) : Device :=
  let bank := d.tables.bank b
  let pins := bank.pins - 1
  if bank.state = .retiring ∧ pins = 0 then
    { d with tables := d.tables.modBank b fun x => { x with pins := pins, state := .opened } }.raise bankSource
  else { d with tables := d.tables.modBank b fun x => { x with pins := pins } }

/-! ## Yield Counters -/

/-- Change the live counters of nest `n`. -/
def Device.count (d : Device) (n : NestId) (f : Counters → Counters) : Device :=
  { d with yields := { d.yields with live := d.yields.live.set n (f d.yields.live[n]) } }

/-! ## Capture Pool (Chapter 8) -/

/-- The sample count of a chain (R140). -/
def Chain.sampleCount (c : Chain) : Nat := if c.blocks = [] then 0 else 4096 * c.blocks.length - 4096 + c.fill

/-- The blocks of a chain join the tail of the Free List in chain order (R144, R145, R146). -/
def CapturePool.freeChain (p : CapturePool) (c : Chain) : CapturePool := { p with free := p.free ++ c.blocks }

/-- Free a chain. -/
def Device.freeChain (d : Device) (c : Chain) : Device := { d with pool := d.pool.freeChain c }

/-- A block claim in progress: the chain, the pool, the sample store, and whether a take crossed the capture-low
threshold (R141, R149). -/
structure Recording where
  chain : Chain
  pool : CapturePool
  samples : List Host.Cell
  low : Bool
deriving DecidableEq, Repr

/-- Write a sample into the last block; the limit block becoming full stops recording (R142). -/
def putSample (limit : Nat) (r : Recording) (x : Sample) : Recording :=
  match r.chain.blocks.getLast? with
  | none => r
  | some b =>
    { r with
      samples := writeSample r.samples b r.chain.fill x
      chain := { r.chain with
        fill := r.chain.fill + 1
        status := .taken
        recording := !(decide (limit ≤ r.chain.blocks.length) && decide (r.chain.fill + 1 = 4096)) } }

/-- Append one sample of a window: take a block at need, or be refused on an empty Free List (R141, R143). -/
def recordSample (limit : Nat) (r : Recording) (x : Sample) : Recording :=
  if !r.chain.recording then r
  else if r.chain.blocks = [] ∨ r.chain.fill = 4096 then
    match r.pool.free with
    | [] =>
      { r with chain := { r.chain with
          recording := false
          status := if r.chain.blocks = [] then .skipped else .truncated } }
    | b :: rest =>
      putSample limit
        { r with
          pool := { r.pool with free := rest }
          chain := { r.chain with blocks := r.chain.blocks ++ [b], fill := 0 }
          low := r.low || decide (r.pool.free.length = r.pool.lowThreshold) } x
  else putSample limit r x

/-- Append a window's samples: one block claim, written whole (R141). -/
def recordWindow (limit : Nat) (r : Recording) (xs : List Sample) : Recording := xs.foldl (recordSample limit) r

/-! ## Permit Arbiter (Chapter 3) -/

/-- The group of a nest (R52). -/
def Device.groupOf (d : Device) (n : NestId) : GroupId := d.groupMap[n]

/-- A group. -/
def Device.group (d : Device) (g : GroupId) : Group := d.groups[g]

/-- Change a group. -/
def Device.modGroup (d : Device) (g : GroupId) (f : Group → Group) : Device :=
  { d with groups := d.groups.set g (f d.groups[g]) }

/-- The applied drive level: programmed level plus gain, limited to 0.0 dBFS (R35). -/
def appliedLevel (level gain : Int) : Int := min 0 (level + gain)

/-- The segment at the cursor of a unit. -/
def Device.segmentOf (d : Device) (r : UnitRecord) : Segment := (d.planOf r).segments[r.cursor]

/-- The applied drive level of a unit's segment (R35): programmed level plus the locked drive gain. -/
def segmentLevel (r : UnitRecord) (s : Segment) : Int := appliedLevel s.level (r.lockedGain.getD 0)

/-- The classes of a presented start (R53). -/
inductive StartClass | loud | quiet | plain
deriving DecidableEq, Repr

/-- Whether the drive of the start a nest presents exceeds its group's loud threshold (R53, R37): the lock pilot is
classed at PILOT LEVEL plus 12.0 dB. A SILENCE segment and a quiet check drive nothing. -/
def Device.exceedsThreshold (d : Device) (n : NestId) : Bool :=
  match (d.nest n).record with
  | none => false
  | some r =>
    let threshold := (d.group (d.groupOf n)).threshold
    match (d.nest n).state with
    | .levelLock => decide (threshold < appliedLevel (d.planOf r).header.pilotLevel 120)
    | .sweeping =>
      decide ((d.segmentOf r).kind ≠ .silence) && decide (threshold < segmentLevel r (d.segmentOf r))
    | _ => false

/-- The class of the start a nest presents in its present state (R53). -/
def Device.startClass (d : Device) (n : NestId) : StartClass :=
  match (d.nest n).record with
  | none => .plain
  | some r =>
    match (d.nest n).state with
    | .quietCheck => .quiet
    | .sweeping => if (d.segmentOf r).quiet then .quiet else if d.exceedsThreshold n then .loud else .plain
    | _ => if d.exceedsThreshold n then .loud else .plain

/-- A nest whose start begins (R37, R42, R61): the lock pilot or segment at phase 0 with its timer at zero, or the
quiet check window. -/
def Nest.started (x : Nest) : Nest :=
  match x.state with
  | .levelLock =>
    { x with
      tone := { x.tone with
        mode := .lock, phase := 0, timer := 0, inTolerance := 0, intervals := 0, sense := [], pilot := [] }
      record := x.record.map fun r => { r with sub := .locking } }
  | .quietCheck =>
    { x with
      stageTimer := 0
      quietCount := 0
      quietSquares := 0
      record := x.record.map fun r => { r with sub := .measuring } }
  | .sweeping =>
    { x with
      tone := { x.tone with mode := .segment, phase := 0, timer := 0 }
      engine := { window := none, closed := 0 }
      record := x.record.map fun r => { r with sub := .running } }
  | .empty | .loaded | .clamping | .judging | .labelWait | .marking | .releasing | .done | .fault => x

/-- The start of a nest begins. A drive above the threshold puts the nest in the loud set (R55, R56). -/
def Device.beginStart (d : Device) (n : NestId) : Device :=
  let e := d.modNest n Nest.started
  if d.exceedsThreshold n then e.modGroup (d.groupOf n) fun g => { g with loud := g.loud.set n true } else e

/-- No nest but `n` is in the loud set. -/
def Group.onlyLoud (g : Group) (n : NestId) : Bool :=
  (List.finRange 4).all fun m => decide (m = n) || !g.loud[m]

/-- The grant test (R55): the head of the queue is granted the permit when there is no holder and the loud set holds no
other nest. -/
def Device.grantTest (d : Device) (g : GroupId) : Device :=
  match (d.group g).holder, (d.group g).queue with
  | none, n :: rest =>
    if (d.group g).onlyLoud n then
      (d.modGroup g fun x => { x with holder := some n, queue := rest }).beginStart n
    else d
  | _, _ => d

/-- A nest of the group whose start is held. -/
def Device.isHeld (d : Device) (g : GroupId) (n : NestId) : Bool :=
  decide (d.groupOf n = g) && (d.nest n).record.any fun r => decide (r.sub = .held)

/-- Begin the start of nest `n` if it is held in group `g`. -/
def Device.beginIfHeld (g : GroupId) (d : Device) (n : NestId) : Device := if d.isHeld g n then d.beginStart n else d

/-- When there is no holder, every held start of the group begins (R58). -/
def Device.beginHeld (d : Device) (g : GroupId) : Device :=
  if (d.group g).holder = none then (List.finRange 4).foldl (Device.beginIfHeld g) d else d

/-- After a change of holder, queue or loud set: the grant test, then the held starts (R55, R57, R58). -/
def Device.settleGroup (d : Device) (g : GroupId) : Device := (d.grantTest g).beginHeld g

/-- Present the start of nest `n` to its arbiter (R55, R56). -/
def Device.presentStart (d : Device) (n : NestId) : Device :=
  let g := d.groupOf n
  match d.startClass n with
  | .plain => d.beginStart n
  | .loud => if (d.group g).holder.any fun m => decide (m ≠ n) then d.setSub n .held else d.beginStart n
  | .quiet =>
    ((d.setSub n .waitPermit).modGroup g fun x => { x with queue := x.queue ++ [n] }).grantTest g

/-- Nest `n` leaves every arbiter structure: its drive leaves the loud set, a permit it holds is released, a place in
the queue or a hold is given up; then the grant test and held starts (R57 steps 1 to 3, R59). -/
def Device.leaveArbiter (d : Device) (n : NestId) : Device :=
  let g := d.groupOf n
  ((d.setSub n .none).modGroup g fun x =>
    { x with
      holder := x.holder.filter fun m => decide (m ≠ n)
      queue := x.queue.filter fun m => decide (m ≠ n)
      loud := x.loud.set n false }).settleGroup g

/-! ## Calibration Store -/

/-- The calibration record of a nest and plan. -/
def CalibrationStore.record (c : CalibrationStore) (n : NestId) (p : PlanId) : CalRecord := c.records[n][p]

/-- Replace a calibration record. -/
def CalibrationStore.setRecord (c : CalibrationStore) (n : NestId) (p : PlanId) (r : CalRecord) : CalibrationStore :=
  { c with records := c.records.set n (c.records[n].set p r) }

/-- Set the CAL flag of a nest with its cause and plan; a later cause replaces an earlier (R137). -/
def Device.raiseCal (d : Device) (n : NestId) (cause : CalCause) (p : Option PlanId) : Device :=
  { d with notices := { d.notices with calCause := d.notices.calCause.set n (some (cause, p)) } }.raise (calSource n)

/-- A record as a changed plan sets it (R133, R136): DUE when the plan is reference-valid in the ACTIVE bank. -/
def clearedRecord (referenceValid : Bool) (stamp : Word32) : CalRecord where
  state := if referenceValid then .due else .notRequired
  corrections := Vector.replicate 32 0
  stamp := stamp

/-! ## Management Interface (R182 to R186) -/

/-- Discard a message and count it: the counter wraps from 255 to 0 and then sets the DISCARD flag (R182). -/
def State.discardMessage (s : State) : State :=
  { s with
    mgmt := { s.mgmt with discards := s.mgmt.discards + 1 }
    dev := if s.mgmt.discards = 255 then s.dev.raise discardSource else s.dev }

/-- A partly received message is discarded and counted (R180, R182, R186); the parser hunts for an idle byte. -/
def State.dropPartMessage (s : State) : State :=
  let t := if s.mgmt.parser = .receiving then s.discardMessage else s
  { t with mgmt := { t.mgmt with parser := .hunt, partBytes := [] } }

/-- The outcome of a command: the blocks after it, and its reply, or none while the reply is held (R184). -/
structure Answer where
  dev : Device
  reply : Option (Status × ReplyData)
deriving DecidableEq, Repr

/-- An OK reply with data. -/
def Answer.ok (d : Device) (data : ReplyData) : Answer := { dev := d, reply := some (.ok, data) }

/-- A refusal that changes nothing. -/
def Answer.refuse (d : Device) (st : Status) : Answer := { dev := d, reply := some (st, .none) }

/-- The command at the head of the Command Queue is removed and answered: its reply joins the tail of the Reply Queue,
or its tag is kept while the reply is held (R184). -/
def State.answered (s : State) (tag type : Byte) (a : Answer) : State :=
  { s with
    mgmt := { s.mgmt with
      queue := s.mgmt.queue.tail
      replies := match a.reply with
        | some (st, data) => s.mgmt.replies ++ [{ tag := tag, type := type, status := st, data := data }]
        | none => s.mgmt.replies
      held := match a.reply with
        | some _ => s.mgmt.held
        | none => some (tag, type) }
    dev := a.dev }

/-- Execute the command at the head of the Command Queue (R184). The row acts when the head has its type and tag; a
body length that does not fit is answered BAD_LENGTH; `agrees` says that the row's fields are those of the body, for
the bodies whose layout the manual gives. In every other state the command is not at its execution and the row changes
nothing (log 2, log 13). -/
def State.runCommand (s : State) (type tag : Byte) (agrees : List Byte → Bool) (act : Device → Answer) : State :=
  match s.mgmt.queue with
  | [] => s
  | c :: _ =>
    if c.type = type ∧ c.tag = tag then
      if !lengthFits type c.body then s.answered tag type (.refuse s.dev .badLength)
      else if agrees c.body then s.answered tag type (act s.dev)
      else s
    else s

/-- The held reply joins the Reply Queue at the completion of its operation (R184). -/
def State.releaseHeld (s : State) (st : Status) (data : ReplyData) : State :=
  match s.mgmt.held with
  | none => s
  | some (tag, type) =>
    { s with mgmt := { s.mgmt with
        held := none
        replies := s.mgmt.replies ++ [{ tag := tag, type := type, status := st, data := data }] } }

end Sys2Proof.Machine
end

