-- ==== Sys2Proof/Machine/Units.lean ====
section
/-! DEFINITION. The life of a unit: entering the nest states, starting a unit, ending it by a posted label or a discard,
MARKING, and the fixture changes the Nest Sequencer acts on (Chapters 1, 5 and 6). -/

namespace Sys2Proof.Machine

/-- The taken level of an input (R168). -/
def Device.taken (d : Device) (n : NestId) (l : InputLine) : Bool := d.fixture[n].taken[inputIndex l]

/-- The Fixture Map of a nest (R167). -/
def Device.map (d : Device) (n : NestId) : FixtureMap := d.fixture[n].map

/-- Whether the change detector of an input is enabled (R170). -/
def Device.detects (d : Device) (n : NestId) (l : InputLine) : Bool := (d.map n).detector[inputIndex l]

/-! ## Entering LEVEL_LOCK and CLAMPING -/

/-- Enter LEVEL_LOCK (R37): the gain becomes the start gain, and the lock pilot is presented to the arbiter. -/
def Device.enterLevelLock (d : Device) (n : NestId) : Device :=
  (d.modNest n fun x =>
    { x with
      state := .levelLock
      tone := { x.tone with
        mode := .silent
        gain := (x.record.bind fun r => r.lockedGain).getD 0
        inTolerance := 0
        intervals := 0
        sense := []
        pilot := [] } }).presentStart n

/-- CLAMPED taken active in CLAMPING (R14): the clamp timer stops and the settle begins; a settle of 0 ms enters
LEVEL_LOCK in this step. -/
def Device.clampedTaken (d : Device) (n : NestId) : Device :=
  let d := d.addHistory n .clamped
  if (d.map n).settle = 0 then d.enterLevelLock n
  else d.modNest n fun x => { x with settling := some (0, msFrames (d.map n).settle) }

/-- Enter CLAMPING (R14): the clamp timer starts from zero; CLAMPED already active counts as taken on entry. -/
def Device.enterClamping (d : Device) (n : NestId) : Device :=
  let d := d.modNest n fun x => { x with state := .clamping, clampTimer := 0, settling := none }
  if d.taken n .clamped then d.clampedTaken n else d

/-! ## Starting a unit (R9, R10, R12, R13) -/

/-- Checks 2 to 6 of Table 1-4 for an effective role: the bank to pin, or the reply of the first check that fails. While
a nest waits in LABEL_WAIT with a golden result, check 2 answers a start for it REFUSED_STATE, although R131 says that a
PRODUCTION start on the pair may be taken then: DESIGN CHOICE, log 42. -/
def Device.startCheck (d : Device) (n : NestId) (role : Role) (p : PlanId) : Except Status BankId :=
  let x := d.nest n
  if !(decide (x.state = .loaded) && x.gateOpen && d.nestPort.locked
      && (!d.detects n .lid || x.loopback || d.taken n .lid)) then .error .refusedState
  else
    match d.tables.activeBank with
    | none => .error .noTables
    | some b =>
      let header := (d.tables.bank b).rows.plans[p].header
      let cal := (d.calibration.record n p).state
      if !header.defined then .error .badField
      else if role = .production ∧ cal ≠ .ok ∧ cal ≠ .notRequired then .error .refusedCal
      else if role = .golden ∧ !header.isReferenceValid then .error .badField
      else .ok b

/-- A new Unit Record (Table 1-2). -/
def newRecord (role : Role) (p : PlanId) (b : BankId) (generation : Word32) (serial : List Byte) (lot : Word32)
    (cal : CalRecord) : UnitRecord where
  role := role
  plan := p
  bank := b
  generation := generation
  serial := serial
  lot := lot
  tries := 1
  dwell := 1
  sub := .none
  quietAttempts := 0
  lockedGain := none
  cursor := 0
  resweeps := 0
  accumulators := Vector.replicate 32 .initial
  unmapped := 0
  failures := 0
  worst := none
  chain := .empty
  chainKept := false
  corrections := cal.corrections
  calAtStart := cal.state
  verdict := none
  calStale := false
  partLost := false

/-- A taken start (R10): the record is created, the bank pinned, STARTED counted, the history set cleared with STARTED
added, and the nest enters CLAMPING, or LEVEL_LOCK in loopback (R29). Pass-through ends (R50). -/
def Device.startUnit (d : Device) (n : NestId) (role : Role) (p : PlanId) (serial : List Byte) (lot : Word32)
    (b : BankId) : Device :=
  let record := newRecord role p b (d.tables.bank b).generation serial lot (d.calibration.record n p)
  let d := { d with tables := d.tables.modBank b fun x => { x with pins := x.pins + 1 } }
  let d := d.count n fun c => { c with started := c.started + 1 }
  let d := d.modNest n fun x =>
    { x with
      record := some record
      history := addEvent 0 .started
      tone := { x.tone with mode := .silent }
      autoTestOwed := false }
  if (d.nest n).loopback then d.enterLevelLock n else d.enterClamping n

/-- The auto-start test (R12, R13): it starts a PRODUCTION unit, or records the refusal and sets NEST_FAULT. -/
def Device.autoStartTest (d : Device) (n : NestId) : Device :=
  match (d.nest n).autoStart with
  | none => d
  | some p =>
    if (d.nest n).gateOpen && !(d.nest n).loopback then
      match d.startCheck n .production p with
      | .ok b => d.startUnit n .production p [] 0 b
      | .error st =>
        { d with notices := { d.notices with refusal := d.notices.refusal.set n (some st) } }.raise (nestFaultSource n)
    else d

/-! ## States without a unit (R3, R22, R23) -/

/-- Enter EMPTY: the GATE and LAMP claims are withdrawn (R3). A test still owed to LOADED lapses (log 24). -/
def Device.enterEmpty (d : Device) (n : NestId) : Device :=
  d.modNest n fun x => { x with state := .empty, gateClaim := false, lampClaim := false, autoTestOwed := false }

/-- Enter LOADED: the auto-start test is made (R3), and none is owed. -/
def Device.enterLoaded (d : Device) (n : NestId) : Device :=
  (d.modNest n fun x => { x with state := .loaded, autoTestOwed := false }).autoStartTest n

/-- Enter DONE, and EMPTY at once when PRESENT is inactive (R3). -/
def Device.enterDone (d : Device) (n : NestId) : Device :=
  let d := d.setState n .done
  if d.taken n .present then d else d.enterEmpty n

/-- Enter RELEASING (R22): the release timer starts from zero; CLAMPED already inactive passes to DONE. The record is
gone, and a MARK claim is released. After a clamp timeout R15 has the nest wait in RELEASING for CLAMPED to fall, while
R22 passes a nest whose CLAMPED is already taken inactive to DONE in the step of entry; at that timeout it is inactive.
That R22 decides is the model's choice (log 37). -/
def Device.enterReleasing (d : Device) (n : NestId) : Device :=
  let d := d.modNest n fun x =>
    { x with state := .releasing, record := none, markClaim := false, settling := none, releaseTimer := 0 }
  if d.taken n .clamped then d else d.enterDone n

/-- Enter FAULT (R23): CLAMP and MARK claims are released, GATE and LAMP claims stand, NEST_FAULT is set. -/
def Device.enterFault (d : Device) (n : NestId) : Device :=
  (d.modNest n fun x => { x with state := .fault, record := none, markClaim := false, settling := none }).raise
    (nestFaultSource n)

/-- Leave FAULT (R23): LOADED in loopback or with PRESENT active, EMPTY otherwise. -/
def Device.leaveFault (d : Device) (n : NestId) : Device :=
  if (d.nest n).loopback || d.taken n .present then d.enterLoaded n else d.enterEmpty n

/-- Where a unit's end takes a nest: RELEASING, or LOADED in loopback (R29). -/
def Device.exitTest (d : Device) (n : NestId) : Device :=
  if (d.nest n).loopback then
    (d.modNest n fun x => { x with record := none, markClaim := false, settling := none }).enterLoaded n
  else d.enterReleasing n

/-! ## Labels (R95 to R101) -/

/-- Whether a Result Ring entry is free (R100). -/
def LabelUnit.hasFree (u : LabelUnit) : Bool := decide (u.posted < 64)

/-- Fill the entry at the post pointer (R101); the label number counter rises by one, wrapping (R99). -/
def LabelUnit.put (u : LabelUnit) (e : RingEntry) : LabelUnit :=
  { u with ring := u.ring.set u.post (some e), post := u.post + 1, posted := u.posted + 1, counter := u.counter + 1 }

/-- The label of a final verdict (R96, R97). -/
def verdictLabel (number : Word32) (n : NestId) (r : UnitRecord) (v : Verdict) : Label where
  number := number
  nest := n
  role := r.role
  plan := r.plan
  generation := r.generation
  serial := r.serial
  lot := r.lot
  cls := v.cls
  bin := if v.cls = .void then none else v.bin
  failures := r.failures
  tries := r.tries
  worst := if r.role = .golden then none else r.worst
  actions := v.actions
  captureStatus := if r.chainKept then r.chain.status else .none
  captureBlocks := if r.chainKept then r.chain.blocks.length else 0
  calAtStart := r.calAtStart
  calStale := r.calStale

/-- The label of an early end (R98). -/
def earlyEndLabel (number : Word32) (n : NestId) (r : UnitRecord) : Label where
  number := number
  nest := n
  role := r.role
  plan := r.plan
  generation := r.generation
  serial := r.serial
  lot := r.lot
  cls := .void
  bin := none
  failures := r.failures
  tries := r.tries
  worst := none
  actions := 0
  captureStatus := .none
  captureBlocks := 0
  calAtStart := r.calAtStart
  calStale := false

/-- Count a label (R113): LABELLED, one counter by role and class, and MARGINAL for a PRODUCTION label that carries
it. A PRODUCTION label has a bin exactly when its class is PASS or FAIL (R96). -/
def Counters.countLabel (c : Counters) (l : Label) : Counters :=
  let c := { c with labelled := c.labelled + 1 }
  match l.role with
  | .engineering => { c with engineering := c.engineering + 1 }
  | .golden => { c with golden := c.golden + 1 }
  | .production =>
    let c := if hasFailure l.failures .marginal then { c with marginal := c.marginal + 1 } else c
    match l.bin with
    | some b => { c with bins := c.bins.set b (c.bins[b] + 1) }
    | none => { c with voided := c.voided + 1 }

/-- Count a posting toward LABELS coalescing (R192). -/
def NoticeArbiter.countPosting (a : NoticeArbiter) : NoticeArbiter :=
  let posted := if a.labelsPosted = 0xFFFFFFFF then Config.labelsPostedAfterMax else a.labelsPosted + 1
  let counted := { a with labelsPosted := posted, timer := if a.labelsPosted = 0 then some 0 else a.timer }
  if a.coalescingCount ≤ posted.toNat then counted.raise labelsSource else counted

/-- Demote the OK records of a nest whose plan is reference-valid in the ACTIVE bank (R121). -/
def Device.demoteRecords (d : Device) (n : NestId) : Device :=
  let demoted := fun p : PlanId =>
    decide ((d.calibration.record n p).state = .ok) && d.activeReferenceValid p
  let cal := (List.finRange 8).foldl (fun (c : CalibrationStore) p =>
    if demoted p then c.setRecord n p { c.record n p with state := .due } else c) d.calibration
  let e := { d with calibration := cal }
  if (List.finRange 8).any demoted then e.raiseCal n .drift none else e

/-- A PRODUCTION label enters the nest's drift window (R120); a window that reaches W is judged and restarts (R121). -/
def Device.enterDrift (d : Device) (n : NestId) (marginal : Bool) : Device :=
  let w := d.calibration.drift[n]
  let labels := w.labels + 1
  let marginals := if marginal then w.marginals + 1 else w.marginals
  let put := fun (e : Device) (x : DriftWindow) =>
    { e with calibration := { e.calibration with drift := e.calibration.drift.set n x } }
  if labels < w.length then put d { w with labels := labels, marginals := marginals }
  else
    let e := put d { w with labels := 0, marginals := 0 }
    if w.limit ≤ marginals then e.demoteRecords n else e

/-- Post a label (R101): the ring entry, the counters, the drift window of a PRODUCTION label, LABELS coalescing, and
LABELLED in the history set. -/
def Device.postLabel (d : Device) (n : NestId) (l : Label) (chain : Option Chain) : Device :=
  let d := { d with labels := d.labels.put { label := l, chain := chain } }
  let d := d.count n fun c => c.countLabel l
  let d := if l.role = .production then d.enterDrift n (hasFailure l.failures .marginal) else d
  let d := { d with notices := d.notices.countPosting }
  d.addHistory n .labelled

/-- The effects of a unit's end on its bank and its arbiter (R6). -/
def Device.endInTest (d : Device) (n : NestId) (r : UnitRecord) : Device := (d.unpin r.bank).leaveArbiter n

/-- Post the label of a final verdict: a kept chain is attached where it holds a block, a chain decided freed is freed
(R101, R145). From here the unit is a labelled unit (R2). R145 takes the chain from the unit and gives the record's
chain field no value; that it is then empty with STATUS NONE, whatever its STATUS was, is the model's choice (log 38).
-/
def Device.postVerdict (d : Device) (n : NestId) (r : UnitRecord) (v : Verdict) : Device :=
  let attached := if r.chainKept && !r.chain.blocks.isEmpty then some r.chain else none
  let d := d.postLabel n (verdictLabel d.labels.counter n r v) attached
  let d := if r.chainKept then d else d.freeChain r.chain
  (d.endInTest n r).modRecord n fun r => { r with chain := .empty }

/-- Discard a unit in test (R25): no label, no number; the chain is freed, the nest leaves the Ring Wait Queue, and
DISCARDED is counted. -/
def Device.discardUnit (d : Device) (n : NestId) (r : UnitRecord) : Device :=
  let d := { d with labels := { d.labels with waitQueue := d.labels.waitQueue.filter fun m => decide (m ≠ n) } }
  let d := d.freeChain r.chain
  (d.endInTest n r).count n fun c => { c with discarded := c.discarded + 1 }

/-! ## MARKING (R21, R108) -/

/-- MARKING ends: MARK is released, the record removed, and the nest enters RELEASING or LOADED (R21). -/
def Device.endMarking (d : Device) (n : NestId) : Device := d.exitTest n

/-- Enter MARKING with the verdict's claims (R108); without MARK it ends in this step (R21). -/
def Device.enterMarking (d : Device) (n : NestId) (v : Verdict) : Device :=
  let d := d.modNest n fun x =>
    { x with
      state := .marking
      markClaim := actMark v.actions
      gateClaim := x.gateClaim || actGate v.actions
      lampClaim := x.lampClaim || actLamp v.actions
      markTimer := 0 }
  if actMark v.actions then d else d.endMarking n

/-! ## Final verdict, label wait, grants (R17, R20, R94, R105, R106) -/

/-- The capture decision (Table 5-2). -/
def captureKept (override : CaptureOverride) (policy : CapturePolicy) (cls : LabelClass) : Bool :=
  match override, policy with
  | _, .none => false
  | .suppress, _ => false
  | .force, _ => true
  | .inherit, .always => true
  | .inherit, .onFail => decide (cls ≠ .pass)

/-- A final verdict is written and posted, or the nest joins the Ring Wait Queue (R17, R93, R105). -/
def Device.finalVerdict (d : Device) (n : NestId) (v : Verdict) (stale : Bool) : Device :=
  match (d.nest n).record with
  | none => d
  | some r =>
    let kept := captureKept v.override (d.planOf r).header.capturePolicy v.cls
    let r := { r with verdict := some v, chainKept := kept, calStale := stale }
    let d := d.modRecord n fun _ => r
    if d.labels.hasFree then (d.postVerdict n r v).enterMarking n v
    else
      let e := { d with labels := { d.labels with waitQueue := d.labels.waitQueue ++ [n] } }.setState n .labelWait
      if d.labels.waitQueue.isEmpty then e.raise ringFullSource else e

/-- The posting claim of a nest that leaves the Ring Wait Queue is taken (R106), and the nest goes on as R20 gives. -/
def Device.grantClaim (d : Device) (n : NestId) : Device :=
  match (d.nest n).record with
  | none => d
  | some r =>
    match r.verdict with
    | none => d
    | some v => if r.partLost then (d.postVerdict n r v).exitTest n else (d.postVerdict n r v).enterMarking n v

/-- Grant a free entry to the head of the Ring Wait Queue (R106). -/
def Device.grantEntry (d : Device) : Device :=
  match d.labels.waitQueue with
  | [] => d
  | n :: rest =>
    if d.labels.hasFree then { d with labels := { d.labels with waitQueue := rest } }.grantClaim n else d

/-- One grant for each entry freed (R106). -/
def Device.grantEntries : Nat → Device → Device
  | 0, d => d
  | k + 1, d => Device.grantEntries k d.grantEntry

/-! ## Early end and fixture loss (R24, R26) -/

/-- Where an early end takes a nest (R24): FAULT when the cause is LINK, otherwise RELEASING or LOADED. -/
def Device.afterEnd (d : Device) (n : NestId) (cause : FailureClass) : Device :=
  if cause = .link then d.enterFault n else d.exitTest n

/-- A unit in test ends early (R24): the cause joins the failure set, the drive goes silent, and an early-end label is
posted when an entry is free; otherwise the unit is discarded. -/
def Device.earlyEnd (d : Device) (n : NestId) (cause : FailureClass) : Device :=
  match (d.nest n).record with
  | none => d
  | some r =>
    let r := { r with failures := addFailure r.failures cause }
    let d := if cause = .fixture then d.addHistory n .fixtureFail else d
    let d := d.silence n
    let d :=
      if d.labels.hasFree then
        ((d.postLabel n (earlyEndLabel d.labels.counter n r) none).freeChain r.chain).endInTest n r
      else d.discardUnit n r
    d.afterEnd n cause

/-- Fixture loss (Table 1-6). -/
def Device.fixtureLoss (d : Device) (n : NestId) : Device :=
  match (d.nest n).state with
  | .clamping | .levelLock | .quietCheck | .sweeping | .judging => d.earlyEnd n .fixture
  | .labelWait => d.modRecord n fun r => { r with partLost := true }
  | .marking => d.endMarking n
  | .empty | .loaded | .releasing | .done | .fault => d

/-- A change of PRESENT (R3, R26). -/
def Device.presentChange (d : Device) (n : NestId) (level : Bool) : Device :=
  match (d.nest n).state, level with
  | .empty, true => d.enterLoaded n
  | .loaded, false => d.enterEmpty n
  | .done, false => d.enterEmpty n
  | _, true => d
  | _, false => d.fixtureLoss n

/-- A change of CLAMPED (R14, R22, R26): before and during the settle a loss only returns to waiting. -/
def Device.clampedChange (d : Device) (n : NestId) (level : Bool) : Device :=
  match (d.nest n).state, level with
  | .clamping, true => if (d.nest n).settling.isNone then d.clampedTaken n else d
  | .clamping, false => d.modNest n fun x => { x with settling := none }
  | .releasing, false => d.enterDone n
  | _, true => d
  | _, false => d.fixtureLoss n

/-- A taken change reaches the Nest Sequencer (R168); a nest in loopback consults none of the inputs (R29), and LID is
watched only while its detector is enabled (R26). -/
def Device.sequencerChange (d : Device) (n : NestId) (l : InputLine) (level : Bool) : Device :=
  if (d.nest n).loopback then d
  else
    match l with
    | .present => d.presentChange n level
    | .clamped => d.clampedChange n level
    | .lid => if d.detects n .lid && !level then d.fixtureLoss n else d
    | .aux => d

/-! ## Taking an input change (R168, R170) -/

/-- Change the fixture lines of a nest. -/
def Device.modLines (d : Device) (n : NestId) (f : FixtureLines → FixtureLines) : Device :=
  { d with fixture := d.fixture.set n (f d.fixture[n]) }

/-- The new level is taken: the debounce count returns to 0, and the change goes to the change detector and to the Nest
Sequencer. -/
def Device.takeLevel (d : Device) (n : NestId) (l : InputLine) : Device :=
  let level := !d.taken n l
  let detected := d.detects n l
  let d := d.modLines n fun x =>
    { x with
      taken := x.taken.set (inputIndex l) level
      count := x.count.set (inputIndex l) 0
      changed := if detected then x.changed.set (inputIndex l) true else x.changed }
  let d := if detected then d.raise (fixtureSource n) else d
  d.sequencerChange n l level

/-- Whether a differing level has held for the debounce time (R168): with DEBOUNCE 0 one differing frame is enough. -/
def Device.inputDue (d : Device) (n : NestId) (l : InputLine) : Bool :=
  let count := d.fixture[n].count[inputIndex l]
  decide (1 ≤ count) && decide (msFrames (d.map n).debounce[inputIndex l] ≤ count)

end Sys2Proof.Machine
end

