-- ==== Sys2Proof/Machine/Analysis.lean ====
section
/-! DEFINITION. The Analysis Engine and the Judge (Chapter 4) and the golden result (Chapter 7): window layout, the
frequency of a chirp sub-window, held values, folding, band tests, worst band, verdict selection. -/

namespace Sys2Proof.Machine

/-! ## Segment and window layout (R43, R69 to R73) -/

/-- A segment's duration in frames, with the dwell in force (R43). -/
def durationFrames (s : Segment) (dwell : Nat) : Nat := msFrames s.duration * dwell

/-- A segment's settle in frames, with the dwell in force (R43). -/
def settleFrames (s : Segment) (dwell : Nat) : Nat := msFrames s.settle * dwell

/-- Frames of a whole chirp sub-window (R72). -/
def subWindowFrames (dwell : Nat) : Nat := 960 * dwell

/-- How many windows a segment forms (Table 4-1, R72). -/
def windowCount (s : Segment) (dwell : Nat) : Nat :=
  match s.kind with
  | .chirp => max 1 ((durationFrames s dwell - settleFrames s dwell) / subWindowFrames dwell)
  | .pilot | .step | .silence => 1

/-- The spans of a window in segment-timer frames, half open (R69). -/
structure WindowSpan where
  driveStart : Nat
  driveEnd : Nat
  micStart : Nat
  micEnd : Nat
deriving DecidableEq, Repr

/-- The spans of window `k` (R69, R72): the last one runs to the segment's end, and its microphone span ends there. -/
def windowSpan (s : Segment) (dwell delay k : Nat) : WindowSpan :=
  let start := settleFrames s dwell + k * subWindowFrames dwell
  if k + 1 = windowCount s dwell then
    { driveStart := start, driveEnd := durationFrames s dwell, micStart := start + delay,
      micEnd := durationFrames s dwell }
  else
    { driveStart := start, driveEnd := start + subWindowFrames dwell, micStart := start + delay,
      micEnd := start + subWindowFrames dwell + delay }

/-- An empty window: fewer than 96 samples in its microphone span (R69). -/
def WindowSpan.isEmpty (w : WindowSpan) : Bool := decide (w.micEnd - w.micStart < 96)

/-- The frequency `f0 * (f1 / f0) ^ (p / q)` rounded to the nearest hertz (R46, R82), in whole numbers: the largest h
with `(2h - 1) ^ q` at most `2 ^ q * f0 ^ (q - p) * f1 ^ p`. -/
def chirpFrequency (f0 f1 p q : Nat) : Nat :=
  largestWith (fun h => decide ((2 * h - 1) ^ q ≤ 2 ^ q * (f0 ^ (q - p) * f1 ^ p))) 15 0

/-- The start and length in ms of the drive span of chirp sub-window `k` in the measured portion, with dwell 1: a
sub-window of 10 ms, the last one to the portion's end (R72). A dwell in force drops out of every frequency. -/
def subWindowTimes (s : Segment) (k : Nat) : Nat × Nat :=
  (10 * k, if k + 1 = windowCount s 1 then s.duration - s.settle - 10 * k else 10)

/-- The frequency at the centre of chirp sub-window `k` (R72): at the midpoint of its drive span (log 28). -/
def subWindowFrequency (s : Segment) (k : Nat) : Nat :=
  let (start, length) := subWindowTimes s k
  chirpFrequency s.startFrequency s.endFrequency (2 * start + length) (2 * (s.duration - s.settle))

/-- The drive frequency of window `k` of a PILOT, STEP or CHIRP segment (Table 4-1). -/
def windowFrequency (h : PlanHeader) (s : Segment) (k : Nat) : Nat :=
  match s.kind with
  | .pilot => h.pilotFrequency
  | .step => s.startFrequency
  | .chirp => subWindowFrequency s k
  | .silence => 0

/-- A frequency lies in a band's range [lower, upper) (R82). -/
def Band.contains (b : Band) (f : Nat) : Bool := decide (b.lower ≤ f) && decide (f < b.upper)

/-- A band's range overlaps the closed range between two frequencies (R73). -/
def Band.overlaps (b : Band) (f g : Nat) : Bool := decide (b.lower ≤ max f g) && decide (min f g < b.upper)

/-- The plan's bands with their indices: rows 0 to BAND COUNT − 1. -/
def Plan.bandIds (p : Plan) : List BandId := (List.finRange 32).filter fun i => decide (i.val < p.header.bandCount)

/-- The band a frequency is mapped to (R82). -/
def Plan.bandAt (p : Plan) (f : Nat) : Option BandId := p.bandIds.find? fun i => p.bands[i].contains f

/-- The residue above ten times a frequency is empty (R78). For a CHIRP sub-window the frequency is the held one,
rounded to 1 Hz: DESIGN CHOICE, log 40. -/
def residueEmpty (f : Nat) : Bool := decide (4800 ≤ f)

/-- The reference frequency of a SILENCE window and the bands it reaches (R73), from the segment before it. -/
def silenceFeeds (p : Plan) (before : Option Segment) : Option Nat × List BandId :=
  match before with
  | none => (none, [])
  | some s =>
    match s.kind with
    | .silence => (none, [])
    | .step => (some s.startFrequency, (p.bandAt s.startFrequency).toList)
    | .pilot => (some p.header.pilotFrequency, (p.bandAt p.header.pilotFrequency).toList)
    | .chirp => (some s.endFrequency, p.bandIds.filter fun i => p.bands[i].overlaps s.startFrequency s.endFrequency)

/-- The bands a SILENCE window feeds: none where its residue is empty (R73, R78). -/
def silenceBands (p : Plan) (before : Option Segment) : List BandId :=
  match silenceFeeds p before with
  | (some f, bands) => if residueEmpty f then [] else bands
  | (none, _) => []

/-- The segment before a cursor, if any. -/
def Plan.segmentBefore (p : Plan) (c : Fin 24) : Option Segment :=
  if c.val = 0 then none else p.segments[c.val - 1]?

/-- The range of the bands a window feeds, from the lowest lower end to the highest upper end (R68). -/
def Plan.fedRange (p : Plan) (bands : List BandId) : WindowFrequency :=
  match bands with
  | [] => .none
  | b :: bs =>
    .range (bs.foldl (fun x i => min x p.bands[i].lower) p.bands[b].lower)
      (bs.foldl (fun x i => max x p.bands[i].upper) p.bands[b].upper)

/-- The frequency an open window carries (R68): that of Table 4-1, or for a SILENCE window the range of its fed bands,
none where it feeds no band (log 35). -/
def Plan.openFrequency (p : Plan) (c : Fin 24) (s : Segment) (k : Nat) : WindowFrequency :=
  match s.kind with
  | .pilot | .step | .chirp => .single (windowFrequency p.header s k)
  | .silence => p.fedRange (silenceBands p (p.segmentBefore c))

/-! ## Held values (R76 to R79) -/

/-- A value held within its range (R79). -/
def held (lo hi v : Int) : Int := max lo (min hi v)

/-- The values a driven window folds (R76 to R79). Buzz ratio and crest are absent with an empty residue. -/
structure DrivenValues where
  response : Int
  uncorrected : Int
  distortion : Nat
  buzz : Option Int
  crest : Option Int
deriving DecidableEq, Repr

/-- The held distortion (R77, R79) in 0.01 %. At the fundamental's floor it is held at 100 %, at every frequency (log
21); otherwise, at 24,000 Hz, no harmonic is in the sum. A CHIRP sub-window counts by its frequency rounded to 1 Hz:
DESIGN CHOICE, log 40. -/
def heldDistortion (f : Nat) (fundamental : Int) (measured : Nat) : Nat :=
  if fundamental = -1200 then 10000 else if f = 24000 then 1 else max 1 (min 10000 measured)

/-- What the samples of a window carry: the nest's own drive in loopback, no signal where every sample is 0, or a sound
whose measured values are operands of the row (section 4.2, R79; log 5). -/
inductive WindowSignal | drive | none | sound
deriving DecidableEq, Repr

/-- The held fundamental level (R76, R79): in loopback the level of the drive itself (section 4.2; log 7), its floor
where the microphone carries no signal, and otherwise the measured one. Section 4.2 gives a loopback window 0.0 dB "less
any drive limiting", and R35 and R76 subtract the level that is driven, so that a limited drive gives 0.0 dB too: the
model follows the two rules. DESIGN CHOICE, log 7. -/
def heldFundamental (signal : WindowSignal) (applied : Int) (m : Measures) : Int :=
  match signal with
  | .drive => held (-1200) 0 applied
  | .none => -1200
  | .sound => held (-1200) 0 m.fundamental

/-- The held values of a driven window at frequency `f` with applied drive level and correction (R76 to R79). The
frequency of a CHIRP sub-window is rounded to 1 Hz also where it decides the empty residue: DESIGN CHOICE, log 40. -/
def drivenValues (signal : WindowSignal) (f : Nat) (applied correction : Int) (m : Measures) : DrivenValues :=
  let fundamental := heldFundamental signal applied m
  { response := held (-1000) 400 (fundamental - applied + correction)
    uncorrected := held (-1000) 400 (fundamental - applied)
    distortion := heldDistortion f fundamental m.distortion
    buzz := if residueEmpty f then none else some (held (-1200) 400 m.buzz)
    crest := if residueEmpty f then none else some (held 0 600 m.crest) }

/-- The buzz ratio of a SILENCE window: residue level minus the applied level of the segment before (R78). In loopback
the drive is zero throughout (R47), so that there, as where the microphone carries no signal, there is no residue, and
the ratio is held at the bound it passes (R79). -/
def silenceBuzz (signal : WindowSignal) (applied : Int) (m : Measures) : Int :=
  match signal with
  | .drive | .none => -1200
  | .sound => held (-1200) 400 (m.residueLevel - applied)

/-! ## Folding (R83) -/

/-- The smaller extreme; an absent one is replaced. -/
def foldMin (e : Option Int) (v : Int) : Option Int := some (match e with | none => v | some x => min x v)

/-- The larger extreme; an absent one is replaced. -/
def foldMax (e : Option Int) (v : Int) : Option Int := some (match e with | none => v | some x => max x v)

/-- The larger extreme with a value that may be lacking. -/
def foldMaxOpt (e : Option Int) (v : Option Int) : Option Int :=
  match v with
  | none => e
  | some x => foldMax e x

/-- The larger distortion. -/
def foldMaxNat (e : Option Nat) (v : Nat) : Option Nat := some (match e with | none => v | some x => max x v)

/-- Fold a driven window: a full window count changes neither count nor sum (R83). -/
def Accumulator.fold (a : Accumulator) (v : DrivenValues) : Accumulator :=
  { minResponse := foldMin a.minResponse v.response
    maxResponse := foldMax a.maxResponse v.response
    maxDistortion := foldMaxNat a.maxDistortion v.distortion
    maxBuzz := foldMaxOpt a.maxBuzz v.buzz
    maxCrest := foldMaxOpt a.maxCrest v.crest
    windowCount := if a.windowCount < 65535 then a.windowCount + 1 else a.windowCount
    uncorrectedSum := if a.windowCount < 65535 then a.uncorrectedSum + v.uncorrected else a.uncorrectedSum }

/-- Fold a SILENCE window: buzz and crest only (Table 4-4). -/
def Accumulator.foldSilence (a : Accumulator) (buzz crest : Int) : Accumulator :=
  { a with maxBuzz := foldMax a.maxBuzz buzz, maxCrest := foldMax a.maxCrest crest }

/-- Fold a SILENCE window into one of the bands it feeds (R83). -/
def foldSilenceInto (buzz crest : Int) (a : Vector Accumulator 32) (i : BandId) : Vector Accumulator 32 :=
  a.set i (a[i].foldSilence buzz crest)

/-- Count an unmapped window, stopping at 65,535 (R82). -/
def UnitRecord.countUnmapped (r : UnitRecord) : UnitRecord := { r with unmapped := min 65535 (r.unmapped + 1) }

/-- Fold an accepted window of segment `s`, number `k` (R74 step 4, R82, R83). -/
def UnitRecord.foldWindow (r : UnitRecord) (p : Plan) (s : Segment) (k : Nat) (signal : WindowSignal)
    (m : Measures) : UnitRecord :=
  match s.kind with
  | .silence =>
    let before := p.segmentBefore r.cursor
    match silenceBands p before with
    | [] => r.countUnmapped
    | b :: bs =>
      let applied := (before.map (segmentLevel r)).getD 0
      let buzz := silenceBuzz signal applied m
      let crest := held 0 600 m.crest
      { r with accumulators := (b :: bs).foldl (foldSilenceInto buzz crest) r.accumulators }
  | .pilot | .step | .chirp =>
    let f := windowFrequency p.header s k
    match p.bandAt f with
    | none => r.countUnmapped
    | some b =>
      let v := drivenValues signal f (segmentLevel r s) r.corrections[b] m
      { r with accumulators := r.accumulators.set b (r.accumulators[b].fold v) }

/-- The polarity result of an accepted PILOT window (R80): a negative one adds POLARITY. In loopback every result is
positive, and so it is where the microphone carries no signal, whose in-phase part is zero; a pilot response below the
no-signal floor gives none. -/
def UnitRecord.takePolarity (r : UnitRecord) (p : Plan) (s : Segment) (signal : WindowSignal) (m : Measures) :
    UnitRecord :=
  let response := heldFundamental signal (segmentLevel r s) m - segmentLevel r s
  if s.kind = .pilot ∧ signal = .sound ∧ p.header.noSignalFloor ≤ response ∧ !m.inPhase then
    { r with failures := addFailure r.failures .polarity }
  else r

/-! ## The Judge (R84 to R90) -/

/-- One band test that was made (Table 4-5). -/
structure BandTest where
  cls : FailureClass
  failed : Bool
  margin : Int
deriving DecidableEq, Repr

/-- `20 log10 (limit / measured)` dB rounded to the nearest 0.1 dB (R85), in whole numbers: the largest m with
`10 ^ (2 m - 1) * measured ^ 400` at most `limit ^ 400`, searched as m + 1000. -/
def distortionDecibels (limit measured : Nat) : Int :=
  let ok := fun m : Nat =>
    decide (10 ^ (2 * m) * measured ^ 400 ≤ limit ^ 400 * 10 ^ 2001)
  (largestWith ok 11 0 : Int) - 1000

/-- The distortion margin (R85): 0.0 dB for a failed test is taken as −0.1 dB. -/
def distortionMargin (limit measured : Nat) : Int :=
  let m := distortionDecibels limit measured
  if limit < measured ∧ m = 0 then -1 else m

/-- The band tests made for a band (R85): a test whose extreme is absent is not made. -/
def bandTests (b : Band) (a : Accumulator) : List BandTest :=
  (a.minResponse.map fun v =>
      { cls := .respLow, failed := decide (v < b.responseLower), margin := v - b.responseLower }).toList
  ++ (a.maxResponse.map fun v =>
      { cls := .respHigh, failed := decide (b.responseUpper < v), margin := b.responseUpper - v }).toList
  ++ (a.maxDistortion.map fun v =>
      { cls := .distortion, failed := decide (b.distortionLimit < v),
        margin := distortionMargin b.distortionLimit v }).toList
  ++ (a.maxBuzz.map fun v =>
      { cls := .buzz, failed := decide (b.buzzLimit < v), margin := b.buzzLimit - v }).toList
  ++ (a.maxCrest.map fun v =>
      { cls := .crest, failed := decide (b.crestLimit < v), margin := b.crestLimit - v }).toList

/-- The bands that were measured: WINDOW COUNT 1 or more (R85). -/
def measuredBands (p : Plan) (r : UnitRecord) : List BandId :=
  p.bandIds.filter fun i => decide (1 ≤ r.accumulators[i].windowCount)

/-- The tests of one measured band. -/
def testsOf (p : Plan) (r : UnitRecord) (i : BandId) : List BandTest := bandTests p.bands[i] r.accumulators[i]

/-- The failed classes join the failure set (R86). -/
def addFailed (f : FailureSet) (tests : List BandTest) : FailureSet :=
  tests.foldl (fun f t => if t.failed then addFailure f t.cls else f) f

/-- A test within the guard margin of its band (R87). -/
def withinGuard (b : Band) (t : BandTest) : Bool := decide (0 ≤ t.margin) && decide (t.margin < b.guardMargin)

/-- The unmeasured-band test (R88): NO_SIGNAL unless the set already names NOISE or LEVEL_LOCK. -/
def addUnmeasured (p : Plan) (r : UnitRecord) (f : FailureSet) : FailureSet :=
  if (p.bandIds.any fun i => decide (r.accumulators[i].windowCount = 0)) && !hasFailure f .noise
      && !hasFailure f .levelLock then addFailure f .noSignal
  else f

/-- The failure set of a judged PRODUCTION or ENGINEERING unit (R86, R87, R88). -/
def judgedFailures (p : Plan) (r : UnitRecord) : FailureSet :=
  let bands := measuredBands p r
  let tests := bands.flatMap (testsOf p r)
  let failed := addFailed r.failures tests
  let marginal := !(tests.any fun t => t.failed)
    && bands.any fun i => (testsOf p r i).any (withinGuard p.bands[i])
  addUnmeasured p r (if marginal then addFailure failed .marginal else failed)

/-- The smallest margin of a band's tests (R89). -/
def bandMargin (tests : List BandTest) : Option Int :=
  tests.foldl (fun m t => some (match m with | none => t.margin | some x => min x t.margin)) none

/-- The worst band and its margin (R89): the lowest-numbered of the bands with the smallest margin. -/
def worstBand (p : Plan) (r : UnitRecord) : Option (BandId × Int) :=
  ((measuredBands p r).foldl (fun (best : Option (BandId × Int)) i =>
      match bandMargin (testsOf p r i), best with
      | none, _ => best
      | some m, none => some (i, m)
      | some m, some (j, n) => if m < n then some (i, m) else some (j, n)) none).map
    fun w => (w.1, held (-999) 999 w.2)

/-- An entry matches a failure set (R92). -/
def VerdictEntry.accepts (e : VerdictEntry) (f : FailureSet) : Bool :=
  decide (e.require &&& f = e.require) && decide (e.exclude &&& f = 0)

/-- The lowest-numbered entry that matches (R92). -/
def selectEntry (rows : BankRows) (f : FailureSet) : Option (Fin 16) :=
  (List.finRange 16).find? fun i => rows.verdicts[i].accepts f

/-- The verdict of a selected entry (R93). -/
def verdictOfEntry (i : Fin 16) (e : VerdictEntry) : Verdict where
  cls := e.cls
  bin := some e.bin
  entry := some i
  actions := e.actions
  markPulse := e.markPulse
  override := e.override

/-! ## Golden units (R90, R128 to R131) -/

/-- The mean uncorrected response of a band in 0.1 dB steps (R90): the exact mean, or one of the two steps around it
(log 18). Absent for an unmeasured band. -/
def Accumulator.mean (a : Accumulator) : Option Int :=
  if a.windowCount = 0 then none
  else
    let q := a.uncorrectedSum / (a.windowCount : Int)
    if a.uncorrectedSum % (a.windowCount : Int) = 0 then some q
    else some (if Config.meanRoundsUp a.uncorrectedSum a.windowCount then q + 1 else q)

/-- The deviation of a band from its reference response (R128). -/
def deviation (p : Plan) (r : UnitRecord) (i : BandId) : Int :=
  (r.accumulators[i].mean).getD 0 - p.references[i].response

/-- The class of a golden result (R128). -/
def goldenClass (p : Plan) (r : UnitRecord) (f : FailureSet) : LabelClass :=
  if hasFailure f .noise || hasFailure f .levelLock || hasFailure f .noSignal || hasFailure f .fixture then .void
  else if p.bandIds.all fun i => decide ((deviation p r i).natAbs ≤ p.header.adjustLimit) then .pass
  else .fail

/-- The corrections of a golden PASS (R129). -/
def goldenCorrections (p : Plan) (r : UnitRecord) : Vector Int 32 :=
  Vector.ofFn fun i => if i.val < p.header.bandCount then -(deviation p r i) else 0

/-- An applied golden result (R129). -/
def applyGolden (c : CalRecord) (p : Plan) (r : UnitRecord) (cls : LabelClass) : CalRecord :=
  match cls with
  | .pass => { c with state := .ok, corrections := goldenCorrections p r }
  | .fail => { c with state := .out }
  | .void => c

/-- The verdict field of a golden unit (R97): LAMP alone on PASS, no bin, no entry, no mark pulse (log 22). -/
def goldenVerdict (cls : LabelClass) : Verdict where
  cls := cls
  bin := none
  entry := none
  actions := if cls = .pass then lampOnly else 0
  markPulse := 0
  override := .inherit

end Sys2Proof.Machine
end

