-- ==== Sys2Proof/Machine/Due.lean ====
section
/-! DEFINITION. What is due. A timed event happens at the end of the frame in which its count completes (R1), and a
judging, a copy and a verification complete within a stated number of frames (R84, R157, R160): the next frame period
waits for what is due (log 4). Here stand the conditions under which each timed event is due. -/

namespace Sys2Proof.Machine

/-! ## Clamping, releasing, marking (R14, R15, R21, R22) -/

/-- The settle after clamp has run out. -/
def Nest.settleOver (x : Nest) : Bool :=
  decide (x.state = .clamping) && x.settling.any fun t => decide (t.2 ≤ t.1)

/-- The clamp timer has reached the clamp timeout while the nest waits for CLAMPED (R14, R15). Where CLAMPED was taken
first in a tie and the settle is then abandoned, the timer resumes at the timeout, and the timeout is due at once. A
CLAMP TIMEOUT lowered to or below the stopped timer while a settle runs lets the settle run on, and the timeout is due
only when the settle is abandoned, then at once (R176): DESIGN CHOICE, log 41. -/
def Device.clampExpired (d : Device) (n : NestId) : Bool :=
  decide ((d.nest n).state = .clamping) && (d.nest n).settling.isNone
  && decide (msFrames (d.map n).clampTimeout ≤ (d.nest n).clampTimer)

/-- The release timer has reached the release timeout (R22). -/
def Device.releaseExpired (d : Device) (n : NestId) : Bool :=
  decide ((d.nest n).state = .releasing) && decide (msFrames (d.map n).releaseTimeout ≤ (d.nest n).releaseTimer)

/-- The mark pulse has run out. -/
def Nest.markOver (x : Nest) : Bool :=
  decide (x.state = .marking) && x.markClaim
  && (x.record.bind UnitRecord.verdict).any fun v => decide (msFrames v.markPulse ≤ x.markTimer)

/-! ## The level lock (R38, R40) -/

/-- Frames of a lock interval (R38). -/
def lockIntervalFrames : Nat := 1920

/-- The lock timeout in frames, with the dwell in force (R40). -/
def lockLimit (h : PlanHeader) (dwell : Nat) : Nat := msFrames h.lockTimeout * dwell

/-- The frame at which the interval in progress ends. -/
def ToneGenerator.intervalEnd (t : ToneGenerator) : Nat := lockIntervalFrames * (t.intervals + 1)

/-- The interval in progress has ended, no later than the timeout. -/
def ToneGenerator.intervalDue (t : ToneGenerator) (limit : Nat) : Bool :=
  decide (t.intervalEnd ≤ t.timer) && decide (t.intervalEnd ≤ limit)

/-- The lock timer has reached its limit, and the interval in progress ends beyond it. -/
def ToneGenerator.timeoutDue (t : ToneGenerator) (limit : Nat) : Bool :=
  decide (limit ≤ t.timer) && decide (limit < t.intervalEnd)

/-- The header and the dwell in force of the unit whose lock pilot runs on a nest. -/
def Device.locking (d : Device) (n : NestId) : Option (PlanHeader × Nat) :=
  match (d.nest n).state, (d.nest n).tone.mode, (d.nest n).record with
  | .levelLock, .lock, some r => some ((d.planOf r).header, r.dwell)
  | _, _, _ => none

/-- A lock interval or the lock timeout is due. -/
def Device.lockDue (d : Device) (n : NestId) : Bool :=
  (d.locking n).any fun l =>
    (d.nest n).tone.intervalDue (lockLimit l.1 l.2) || (d.nest n).tone.timeoutDue (lockLimit l.1 l.2)

/-! ## The quiet check (R61, R62) -/

/-- Frames of the quiet check window (R61). -/
def quietWindowFrames (dwell : Nat) : Nat := 4800 * dwell

/-- Frames of the retry wait (R62). -/
def retryWaitFrames : Nat := 9600

/-- The unit whose nest is in QUIET_CHECK with this sub-state. -/
def Device.quietUnit (d : Device) (n : NestId) (sub : SubStage) : Option UnitRecord :=
  match (d.nest n).state, (d.nest n).record with
  | .quietCheck, some r => if r.sub = sub then some r else none
  | _, _ => none

/-- The quiet check window has run its length. -/
def Nest.quietWindowOver (x : Nest) (r : UnitRecord) : Bool := decide (quietWindowFrames r.dwell ≤ x.stageTimer)

/-- The retry wait has run its length. -/
def Nest.retryWaitOver (x : Nest) : Bool := decide (retryWaitFrames ≤ x.stageTimer)

/-- The end of the quiet check window or of the retry wait is due. -/
def Device.quietDue (d : Device) (n : NestId) : Bool :=
  (d.quietUnit n .measuring).any (d.nest n).quietWindowOver
  || (d.quietUnit n .retryWait).any fun _ => (d.nest n).retryWaitOver

/-! ## The sweep (R48, R74) -/

/-- The unit whose segment runs on a nest. -/
def Device.sweepingUnit (d : Device) (n : NestId) : Option UnitRecord :=
  match (d.nest n).state, (d.nest n).tone.mode, (d.nest n).record with
  | .sweeping, .segment, some r => some r
  | _, _, _ => none

/-- The span of the window of a unit's segment that closes next. -/
def Device.nextSpan (d : Device) (n : NestId) (r : UnitRecord) : WindowSpan :=
  windowSpan (d.segmentOf r) r.dwell (d.planOf r).header.acousticDelay (d.nest n).engine.closed

/-- A window of a unit's segment is due to close (R74). -/
def Device.windowDue (d : Device) (n : NestId) (r : UnitRecord) : Bool :=
  decide ((d.nest n).engine.closed < windowCount (d.segmentOf r) r.dwell)
  && decide ((d.nextSpan n r).micEnd ≤ (d.nest n).tone.timer)

/-- The segment's timer has reached its duration and its last window has closed. -/
def Device.segmentOver (d : Device) (n : NestId) (r : UnitRecord) : Bool :=
  decide (durationFrames (d.segmentOf r) r.dwell ≤ (d.nest n).tone.timer)
  && decide (windowCount (d.segmentOf r) r.dwell ≤ (d.nest n).engine.closed)

/-- A window or the segment is due to end. -/
def Device.sweepDue (d : Device) (n : NestId) : Bool :=
  (d.sweepingUnit n).any fun r => d.windowDue n r || d.segmentOver n r

/-! ## Bounds within which a completion falls (R84, R157, R160) -/

/-- An evaluation has used its 1 ms: 96 frames (R84). -/
def Nest.judgeOverdue (x : Nest) : Bool := decide (x.state = .judging) && x.record.isSome && decide (96 ≤ x.judgeTimer)

/-- A copy or a verification has used its 20 ms: 1,920 frames (R157, R160). -/
def TableStore.operationOverdue (t : TableStore) : Bool :=
  decide (t.operation ≠ .none) && decide (1920 ≤ t.operationTimer)

/-! ## Inputs, coalescing, sync (R168, R179, R180, R192) -/

/-- A change of some input of a nest is due to be taken (R168); none is taken while the nest link is LOST (R169). -/
def Device.someInputDue (d : Device) (n : NestId) : Bool :=
  d.nestPort.locked && [InputLine.present, .clamped, .lid, .aux].any (d.inputDue n)

/-- The running coalescing timer has reached the coalescing time. -/
def NoticeArbiter.timerOver (a : NoticeArbiter) : Bool :=
  a.timer.any fun t => decide (msFrames a.coalescingTime ≤ t)

/-- The frames that turn LOST or HOLDOVER into LOCKED, and LOCKED into LOST or HOLDOVER, have been counted. -/
def syncChangeDue (locked : Bool) (received missed : Nat) : Bool :=
  if locked then decide (8 ≤ missed) else decide (16 ≤ received)

/-! ## What holds the next frame period (R1; log 4) -/

/-- Something of a nest is due. -/
def Device.nestDue (d : Device) (n : NestId) : Bool :=
  (d.nest n).settleOver || d.clampExpired n || d.releaseExpired n || (d.nest n).markOver || d.lockDue n || d.quietDue n
  || d.sweepDue n || (d.nest n).judgeOverdue || d.someInputDue n

/-- Something is due before the next nest link frame. -/
def Device.frameDue (d : Device) : Bool :=
  (List.finRange 4).any d.nestDue || d.notices.timerOver || d.tables.operationOverdue
  || syncChangeDue d.nestPort.locked d.nestPort.received d.nestPort.missed

/-- The sync change is due before the next controller link frame. -/
def ControllerPort.frameDue (p : ControllerPort) : Bool := syncChangeDue p.locked p.received p.missed

end Sys2Proof.Machine
end

