-- ==== Sys2Proof/Machine/Reset.lean ====
section
/-! DEFINITION. The two resets and what follows LINK RESET: POWER_ON_RESET (R31), LINK_RESET (R186) and
AUTO_START_AFTER_RESET (R30). -/

namespace Sys2Proof.Machine

/-- POWER_ON_RESET: every block takes its power-on values; the queue of rows is the model's own and stays. -/
def execPowerOnReset (s : State) : Host.Outcome State Fault Refusal := .next { State.reset with pending := s.pending }

/-- An order of the four nests: the given one, each nest once, then the nests it leaves out (log 11). -/
def addNest (acc : List NestId) (n : NestId) : List NestId := if acc.contains n then acc else acc ++ [n]

/-- Every nest once, in the order given. -/
def nestOrder (order : List NestId) : List NestId := (order ++ List.finRange 4).foldl addNest []

/-- The part of a nest in LINK RESET (R30, R34, R109): the loopback flag clears and pass-through ends first; then a unit
in test is discarded, MARKING ends, and FAULT is left by PRESENT's taken level. The auto-start test of a nest that
enters LOADED is owed until after the reset. -/
def Device.linkResetNest (d : Device) (n : NestId) : Device :=
  let d := (d.silence n).modNest n fun x =>
    { x with loopback := false, gateClaim := false, lampClaim := false, tone := { x.tone with gain := 0 } }
  match (d.nest n).state with
  | .clamping | .levelLock | .quietCheck | .sweeping | .judging | .labelWait =>
    match (d.nest n).record with
    | some r => (d.discardUnit n r).enterReleasing n
    | none => d.enterReleasing n
  | .marking => d.enterReleasing n
  | .fault =>
    if d.taken n .present then d.modNest n fun x => { x with state := .loaded, autoTestOwed := true }
    else d.enterEmpty n
  | .empty | .loaded | .releasing | .done => d

/-- The part of the Table Store (R166): an operation in flight is abandoned, a VERIFYING bank returns to OPEN, and the
load status is cleared. -/
def TableStore.linkReset (t : TableStore) : TableStore :=
  let open' := fun b : Bank => if b.state = .verifying then { b with state := .opened } else b
  { t with
    bankA := open' t.bankA, bankB := open' t.bankB, operation := .none, loadError := false, sequenceError := false,
    detail := none }

/-- The part of the fixture lines (R170, R177): changed sets empty, manual levels de-asserted. -/
def FixtureLines.linkReset (x : FixtureLines) : FixtureLines :=
  { x with changed := Vector.replicate 4 false, manual := Vector.replicate 4 false }

/-- The part of the Notice Arbiter, made last (R189, R192). -/
def NoticeArbiter.linkReset (a : NoticeArbiter) : NoticeArbiter :=
  { a with
    pending := Vector.replicate 18 false, labelsPosted := 0, timer := none, refusal := Vector.replicate 4 none,
    calCause := Vector.replicate 4 none }

/-- The part of a group: its guard carries nothing on (R63). The arbiter was emptied by the discards (R54). -/
def Group.linkReset (g : Group) : Group := { g with ambientLevel := none, windowVoid := false }

/-- The blocks' parts of LINK RESET (R186). -/
def Device.linkReset (d : Device) (order : List NestId) : Device :=
  let d := (nestOrder order).foldl Device.linkResetNest d
  { d with
    tables := d.tables.linkReset
    fixture := Vector.ofFn fun n => d.fixture[n].linkReset
    groups := Vector.ofFn fun g => d.groups[g].linkReset
    notices := d.notices.linkReset }

/-- The Management Interface's part (R186): the commands behind the LINK RESET, the waiting replies and a held reply go
with their credit; a partly received message is discarded and counted; the reply OK joins the empty Reply Queue. -/
def State.linkReset (s : State) (tag : Byte) (order : List NestId) : State :=
  let lost := s.mgmt.queue.tail.length + s.mgmt.replies.length + (if s.mgmt.held.isSome then 1 else 0)
  let s := s.dropPartMessage
  { s with
    mgmt := { s.mgmt with
      queue := []
      replies := [{ tag := tag, type := 0x1D, status := .ok, data := .none }]
      held := none
      credit := s.mgmt.credit - lost
      consecutive := 0 }
    dev := s.dev.linkReset order }

/-- LINK_RESET: with confirm code D5h the reset is carried out; a missing or other code is answered BAD_FIELD (R186). -/
def execLinkReset (tag : Byte) (confirm : Option Byte) (order : List NestId) (s : State) :
    Host.Outcome State Fault Refusal :=
  .next (
    match s.mgmt.queue with
    | [] => s
    | c :: _ =>
      if c.type = 0x1D ∧ c.tag = tag ∧ confirmOf c.body = some confirm ∧ confirm = some 0xD5 then
        s.linkReset tag order
      else
        s.runCommand 0x1D tag (fun body => decide (confirmOf body = some confirm)) fun d =>
          .refuse d .badField)

/-- The test owed to a nest that entered LOADED in the reset; a nest that has left LOADED since is not tested. -/
def Device.autoStartOwed (d : Device) (n : NestId) : Device :=
  if (d.nest n).autoTestOwed then
    let e := d.modNest n fun x => { x with autoTestOwed := false }
    if (d.nest n).state = .loaded then e.autoStartTest n else e
  else d

/-- AUTO_START_AFTER_RESET: the auto-start tests of R12 for the nests that entered LOADED in the reset (R30). -/
def execAutoStartAfterReset (s : State) : Host.Outcome State Fault Refusal :=
  .next { s with dev := (List.finRange 4).foldl Device.autoStartOwed s.dev }

end Sys2Proof.Machine
end

