-- ==== Sys2Proof/Machine/Tone.lean ====
section
/-! DEFINITION. The tones of a generator, in whole numbers: the phase, the sine of a phase, the amplitude of a level, the
drive sample, and the frequency of a chirp at a time (R33, R35, R36, R44 to R46, R178; log 8). Fixed-point numbers count
2^-96. -/

namespace Sys2Proof.Machine

/-! ## Phase (R34, R36) -/

/-- One turn of the oscillator phase: the phase of f Hz over one frame is `f * 2 ^ 32`, of which 96,000 make a turn. -/
def phaseTurn : Nat := 96000 * 2 ^ 32

/-- The phase advance of one frame at a frequency in Hz. -/
def toneAdvance (f : Nat) : Nat := f * 2 ^ 32

/-! ## The sine of a phase -/

/-- One, in fixed point. -/
def fixedOne : Nat := 2 ^ 96

/-- 2 π, in fixed point. -/
def fixedTwoPi : Nat := 497805226624462170461043889244

/-- The sum `1 - q / (n (n + 1)) * (1 - q / ((n + 2) (n + 3)) * ...)` to a number of terms. -/
def sineSeries (q : Nat) : Nat → Nat → Nat
  | 0, _ => fixedOne
  | terms + 1, n => fixedOne - q * sineSeries q terms (n + 2) / (fixedOne * (n * (n + 1)))

/-- The sine of a phase of at most a quarter turn, in fixed point: exact at 0 and at a quarter turn. -/
def quarterSine (r : Nat) : Nat :=
  if r = phaseTurn / 4 then fixedOne
  else
    let x := fixedTwoPi * r / phaseTurn
    min fixedOne (x * sineSeries (x * x / fixedOne) 16 2 / fixedOne)

/-- The magnitude of the sine of a phase: the half turns differ in sign alone, and a half turn is symmetric. -/
def sineMagnitude (phase : Nat) : Nat :=
  let q := phase % (phaseTurn / 2)
  quarterSine (min q (phaseTurn / 2 - q))

/-! ## The drive sample of a tone (R35, R178) -/

/-- The peak of a tone at an applied level in 0.1 dB, in 2^-64 of a sample step: the largest number not above
`32767 * 2 ^ 64 * 10 ^ (level / 200)`. Full scale, 0.0 dBFS, is a peak of 32,767. -/
def toneAmplitude (level : Int) : Nat :=
  largestWith (fun a => decide (a ^ 200 * 10 ^ (-level).toNat ≤ (32767 * 2 ^ 64) ^ 200)) 79 0

/-- The magnitude of a drive sample: the exact value where it is whole, otherwise one of the two steps around it. -/
def toneMagnitude (level : Int) (phase : Nat) : Nat :=
  let v := toneAmplitude level * sineMagnitude phase
  let step := 2 ^ 64 * fixedOne
  if v % step = 0 then v / step else v / step + if Config.toneRoundsUp level phase then 1 else 0

/-- The drive sample of a tone: a sine of the applied level, phase 0 its rising zero crossing (R36). -/
def toneSample (level : Int) (phase : Nat) : Sample :=
  let x := BitVec.ofNat 16 (toneMagnitude level phase)
  if phase % phaseTurn < phaseTurn / 2 then x else -x

/-! ## The frequency of a chirp (R46) -/

/-- Newton's descent to the square root of `v`, from a value not below it. -/
def newtonRoot (v : Nat) : Nat → Nat → Nat
  | 0, x => x
  | k + 1, x => newtonRoot v k (min x ((x + v / x) / 2))

/-- The square root of a fixed-point number. -/
def fixedRoot (a : Nat) : Nat := newtonRoot (a * fixedOne) 10 (2 ^ ((a * fixedOne).log2 / 2 + 1))

/-- `a ^ (p / q)` in fixed point, for p below q: the product of the roots that the binary digits of p / q name. -/
def fixedPower : Nat → Nat → Nat → Nat → Nat
  | 0, _, _, _ => fixedOne
  | k + 1, a, p, q =>
    if q ≤ 2 * p then fixedRoot a * fixedPower k (fixedRoot a) (2 * p - q) q / fixedOne
    else fixedPower k (fixedRoot a) (2 * p) q

/-- The phase advance that stands for the instantaneous frequency `f0 * (f1 / f0) ^ (t / portion)` (R46). -/
def chirpAdvanceAt (f0 f1 portion t : Nat) : Nat :=
  if portion ≤ t then toneAdvance f1
  else toneAdvance f0 * fixedPower 64 (f1 * fixedOne / f0) t portion / fixedOne

/-- The phase advance of frame `t` of a chirp's measured portion: it lies between the frequencies at the frame's two
ends (log 8). Equal frequencies leave one value, a constant tone; a lower END FREQUENCY sweeps downward (R33, NOTE 1).
-/
def chirpAdvance (f0 f1 portion t : Nat) : Nat :=
  let a := chirpAdvanceAt f0 f1 portion t
  let b := chirpAdvanceAt f0 f1 portion (t + 1)
  max (min a b) (min (max a b) (Config.chirpAdvance f0 f1 portion t))

end Sys2Proof.Machine
end

