-- ==== Sys2Proof/Machine/Links.lean ====
section
/-! DEFINITION. The two links: a frame of each, the changes of sync state, the drive and fixture words sent, the monitor
slots, and the inbound parser (Chapter 11; R34 to R36, R51, R168, R169, R172). One nest link frame, received or not, is
one frame period of the part: every count of frames advances there (log 3). A frame waits for what is due (log 4). -/

namespace Sys2Proof.Machine

/-! ## What the part drives and sends -/

/-- The drive sample of a nest in this frame (Table 2-3). -/
def Device.driveSample (d : Device) (n : NestId) : Sample :=
  let t := (d.nest n).tone
  match t.mode, (d.nest n).record with
  | .silent, _ => 0
  | .pass slot, _ => d.controllerPort.slots[slot]
  | .lock, some r => toneSample (appliedLevel (d.planOf r).header.pilotLevel t.gain) t.phase
  | .segment, some r =>
    if (d.segmentOf r).kind = .silence then 0
    else toneSample (segmentLevel r (d.segmentOf r)) t.phase
  | .lock, none | .segment, none => 0

/-- The phase advance of this frame: the frequency of the tone (R36, R44 to R46). -/
def Device.phaseAdvance (d : Device) (n : NestId) : Nat :=
  let t := (d.nest n).tone
  match t.mode, (d.nest n).record with
  | .lock, some r => toneAdvance (d.planOf r).header.pilotFrequency
  | .segment, some r =>
    let s := d.segmentOf r
    match s.kind with
    | .pilot => toneAdvance (d.planOf r).header.pilotFrequency
    | .step => toneAdvance s.startFrequency
    | .silence => 0
    | .chirp =>
      let settle := settleFrames s r.dwell
      if t.timer < settle then toneAdvance s.startFrequency
      else chirpAdvance s.startFrequency s.endFrequency (durationFrames s r.dwell - settle) (t.timer - settle)
  | _, _ => 0

/-- The sequencer's claim on an output (R4, R108, R109). -/
def Nest.claim (x : Nest) (k : Fin 4) : Bool :=
  if k = clampOut then x.state.testStage
  else if k = markOut then x.markClaim
  else if k = gateOut then x.gateClaim
  else x.lampClaim

/-- The line state of an output (R171). -/
def Device.lineState (d : Device) (n : NestId) (k : Fin 4) : Bool :=
  match (d.map n).mode[k] with
  | .sequencer => (d.nest n).claim k
  | .manual => d.fixture[n].manual[k]

/-- The word with bit 4n + k for line k of nest n (Table 11-4). -/
def lineWord (f : NestId → Fin 4 → Bool) : Word16 :=
  BitVec.ofFnLE fun i : Fin 16 => f ⟨i.val / 4, by omega⟩ ⟨i.val % 4, by omega⟩

/-- The fixture output word: the inverse of every line state (R172). -/
def Device.outputWord (d : Device) : Word16 := lineWord fun n k => !d.lineState n k

/-! ## One frame of a nest -/

/-- The square of a sample. -/
def sampleSquare (x : Sample) : Nat := x.toInt.natAbs ^ 2

/-- A window that opens: nothing taken yet (R68). -/
def Plan.openWindow (p : Plan) (c : Fin 24) (s : Segment) (k : Nat) (w : WindowSpan) : OpenWindow where
  cursor := c
  index := k
  driveStart := w.driveStart
  driveEnd := w.driveEnd
  micStart := w.micStart
  micEnd := w.micEnd
  frequency := p.openFrequency c s k
  samples := []
  ambient := []
  micSquares := 0
  micPeak := 0
  ambientSquares := 0

/-- The window with one more frame's samples (R68; log 35). -/
def OpenWindow.take (o : OpenWindow) (mic ambient : Sample) : OpenWindow :=
  { o with
    samples := o.samples ++ [mic]
    ambient := o.ambient ++ [ambient]
    micSquares := o.micSquares + sampleSquare mic
    micPeak := max o.micPeak mic.toInt.natAbs
    ambientSquares := o.ambientSquares + sampleSquare ambient }

/-- The open window takes the samples of this frame when the frame lies in its microphone span (R68, R69); the window
opens with the first of them. -/
def Device.sampleWindow (d : Device) (n : NestId) (r : UnitRecord) (mic ambient : Sample) : AnalysisEngine :=
  let x := d.nest n
  let s := d.segmentOf r
  let k := x.engine.closed
  let w := windowSpan s r.dwell (d.planOf r).header.acousticDelay k
  if k < windowCount s r.dwell ∧ w.micStart ≤ x.tone.timer ∧ x.tone.timer < w.micEnd then
    let o := match x.engine.window with
      | some o => o
      | none => (d.planOf r).openWindow r.cursor s k w
    { x.engine with window := some (o.take mic ambient) }
  else x.engine

/-- The acoustic delay of the plan of a nest's unit; none without a unit. -/
def Device.acousticDelay (d : Device) (n : NestId) : Nat :=
  ((d.nest n).record.map fun r => (d.planOf r).header.acousticDelay).getD 0

/-- The microphone sample of a nest delayed by a number of frames: with 0 that of this frame, otherwise the one that
arrived so many frames before it. A frame before power-on reset carries 0 (log 9). -/
def NestPort.delayedMic (p : NestPort) (n : NestId) (mic : Sample) (delay : Nat) : Sample :=
  ((mic :: p.past[n])[delay]?).getD 0

/-- The tone generator after a frame: its timer and phase run while it drives a lock pilot or a segment, and in a lock
pilot the interval in progress takes the drive-sense sample, without delay, and the microphone sample delayed by the
plan's acoustic delay (R38, R39; log 26). -/
def Device.toneAfterFrame (d : Device) (n : NestId) (sense mic : Sample) : ToneGenerator :=
  let t := (d.nest n).tone
  match t.mode with
  | .lock =>
    { t with
      timer := t.timer + 1
      phase := (t.phase + d.phaseAdvance n) % phaseTurn
      sense := t.sense ++ [sense]
      pilot := t.pilot ++ [d.nestPort.delayedMic n mic (d.acousticDelay n)] }
  | .segment => { t with timer := t.timer + 1, phase := (t.phase + d.phaseAdvance n) % phaseTurn }
  | .silent | .pass _ => t

/-- The quiet check after a frame: its window or its retry wait runs on, and every frame of the window takes one sample,
the delayed one (R61, R62). -/
def Nest.quietAfterFrame (x : Nest) (r : UnitRecord) (delayed : Sample) : Nest :=
  match r.sub with
  | .measuring =>
    { x with
      stageTimer := x.stageTimer + 1
      quietCount := x.quietCount + 1
      quietSquares := x.quietSquares + sampleSquare delayed }
  | .retryWait => { x with stageTimer := x.stageTimer + 1 }
  | .none | .held | .locking | .waitPermit | .running => x

/-- The nest after a frame: the timers of its state advance (R14, R22, R61, R62, R84, R108), its generator and its
engine take the samples. -/
def Device.nestAfterFrame (d : Device) (n : NestId) (mic sense ambient : Sample) : Nest :=
  let x := d.nest n
  let x' := { x with tone := d.toneAfterFrame n sense mic }
  match x.state, x.record with
  | .clamping, _ =>
    match x.settling with
    | some (run, total) => { x' with settling := some (run + 1, total) }
    | none => { x' with clampTimer := x.clampTimer + 1 }
  | .releasing, _ => { x' with releaseTimer := x.releaseTimer + 1 }
  | .marking, _ => { x' with markTimer := x.markTimer + 1 }
  | .judging, _ => { x' with judgeTimer := x.judgeTimer + 1 }
  | .quietCheck, some r => x'.quietAfterFrame r (d.nestPort.delayedMic n mic (d.acousticDelay n))
  | .sweeping, some r =>
    if x.tone.mode = .segment then { x' with engine := d.sampleWindow n r mic ambient } else x'
  | _, _ => x'

/-- The level an input reads (R168). -/
def readLevel (p : Polarity) (raw : Bool) : Bool :=
  match p with
  | .activeHigh => raw
  | .activeLow => !raw

/-- The debounce counts after a received frame (R168). -/
def FixtureLines.debounceFrame (x : FixtureLines) (raw : Fin 4 → Bool) : FixtureLines :=
  { x with count := Vector.ofFn fun k =>
      if readLevel x.map.polarity[k] (raw k) = x.taken[k] then 0 else x.count[k] + 1 }

/-- The samples that count in this frame: zero while LOST and for a frame not received (R179). -/
def NestPort.taken (p : NestPort) (frame : Option NestFrame) : NestFrame :=
  match p.locked, frame with
  | true, some f => f
  | _, _ =>
    { mic := Vector.replicate 4 0, sense := Vector.replicate 4 0, ambient := Vector.replicate 2 0, fixture := 0 }

/-- The Table Store after a frame: the operation in flight runs on (R157, R160). -/
def TableStore.afterFrame (t : TableStore) : TableStore :=
  if t.operation = .none then t else { t with operationTimer := t.operationTimer + 1 }

/-- One frame period of the part (R178, R179). The microphone sample of a nest in loopback is its own drive sample of
the same frame. -/
def Device.nestFrame (d : Device) (frame : Option NestFrame) : Device :=
  let f := d.nestPort.taken frame
  let drive : Vector Sample 4 := Vector.ofFn d.driveSample
  let mic : Vector Sample 4 := Vector.ofFn fun n => if (d.nest n).loopback then drive[n] else f.mic[n]
  let fixture := if d.nestPort.locked && frame.isSome then
      Vector.ofFn fun n : NestId => d.fixture[n].debounceFrame fun k => f.fixture.getLsbD (4 * n.val + k.val)
    else d.fixture
  { d with
    nestPort :=
      { locked := d.nestPort.locked
        received := if frame.isSome then d.nestPort.received + 1 else 0
        missed := if frame.isSome then 0 else d.nestPort.missed + 1
        mic := mic, sense := f.sense, ambient := f.ambient, drive := drive, outFixture := d.outputWord
        past := Vector.ofFn fun n => (mic[n] :: d.nestPort.past[n]).take 480 }
    nests := Vector.ofFn fun n => d.nestAfterFrame n mic[n] f.sense[n] f.ambient[d.groupOf n]
    fixture := fixture
    notices := { d.notices with timer := d.notices.timer.map (· + 1) }
    tables := d.tables.afterFrame }

/-- NEST_LINK_FRAME: one frame period, with the frame that was received in it, if any. While an event of the period
before is due, that period has not ended, and the row changes nothing (R1; log 4). -/
def execNestLinkFrame (frame : Option NestFrame) (s : State) : Host.Outcome State Fault Refusal :=
  .next (if s.dev.frameDue then s else { s with dev := s.dev.nestFrame frame })

/-! ## Sync of the nest link (R179, R169, R27) -/

/-- Every debounce count returns to 0 (R169). -/
def Device.clearCounts (d : Device) : Device :=
  { d with fixture := Vector.ofFn fun n => { d.fixture[n] with count := Vector.replicate 4 0 } }

/-- NEST_LINK_LOCKED: after 16 consecutive received frames LOST becomes LOCKED and the LINK flag is set; the inputs are
debounced afresh (R179, R169). No nest state changes (R27). -/
def execNestLinkLocked (s : State) : Host.Outcome State Fault Refusal :=
  .next (
    if !s.dev.nestPort.locked ∧ 16 ≤ s.dev.nestPort.received then
      { s with dev := ({ s.dev with nestPort := { s.dev.nestPort with locked := true } }.clearCounts).raise linkSource }
    else s)

/-- What a nest does at nest link loss (R27). -/
def Device.linkLossNest (d : Device) (n : NestId) : Device :=
  match (d.nest n).state with
  | .clamping | .levelLock | .quietCheck | .sweeping | .judging => d.earlyEnd n .link
  | .labelWait =>
    match (d.nest n).record with
    | some r => (d.discardUnit n r).enterFault n
    | none => d.enterFault n
  | .marking | .releasing => d.enterFault n
  | .empty | .loaded | .done | .fault => d

/-- NEST_LINK_LOSS: after 8 consecutive frames not received LOCKED becomes LOST and the LINK flag is set; debounce
counts go to 0, and every nest acts by its state, in the order in which the claims are taken (R179, R169, R27). -/
def execNestLinkLoss (order : List NestId) (s : State) : Host.Outcome State Fault Refusal :=
  .next (
    if s.dev.nestPort.locked ∧ 8 ≤ s.dev.nestPort.missed then
      let d := ({ s.dev with nestPort := { s.dev.nestPort with locked := false, received := 0 } }.clearCounts).raise
        linkSource
      { s with dev := (nestOrder order).foldl Device.linkLossNest d }
    else s)

/-! ## The inbound parser (R181, R182) -/

/-- One byte position reaches the parser: `none` is an idle byte. -/
def State.feedByte (s : State) (b : Option Byte) : State :=
  match s.mgmt.parser, b with
  | .hunt, none => { s with mgmt := { s.mgmt with parser := .ready } }
  | .hunt, some _ => s
  | .ready, none => s
  | .ready, some x => { s with mgmt := { s.mgmt with parser := .receiving, partBytes := [x] } }
  | .receiving, none =>
    let t := s.discardMessage
    { t with mgmt := { t.mgmt with parser := .ready, partBytes := [] } }
  | .receiving, some x =>
    let bytes := s.mgmt.partBytes ++ [x]
    if bytes.length = 3 ∧ 240 < x.toNat then s.dropPartMessage
    else if 3 ≤ bytes.length ∧ bytes.length = (bytes.getD 2 0).toNat + 4 then
      { s with mgmt := { s.mgmt with
          parser := .hunt, partBytes := [], completed := s.mgmt.completed ++ [bytes] } }
    else { s with mgmt := { s.mgmt with partBytes := bytes } }

/-! ## A controller link frame (R180, R181, R51) -/

/-- The sample a monitor slot carries (R51), from the samples of the nest link frame of the same period. -/
def Device.monitorSample (d : Device) (m : MonitorSel) : Sample :=
  match m with
  | .silence => 0
  | .mic n => d.nestPort.mic[n]
  | .drive n => d.nestPort.drive[n]
  | .sense n => d.nestPort.sense[n]
  | .ambient g => d.nestPort.ambient[g]

/-- The bytes the part sends in this frame: in LOCKED the next bytes of the message being sent, from position 0 on;
idle otherwise (R180, R181; log 15). -/
def State.outBytes (s : State) : List Byte :=
  match s.dev.controllerPort.locked, s.mgmt.sending with
  | true, some x => x.left.take 4
  | _, _ => []

/-- The outbound half of the frame: monitor samples and management bytes; the bytes sent leave the message. -/
def State.sendFrame (s : State) : State :=
  let out := s.outBytes
  { s with
    mgmt := { s.mgmt with
      sending := s.mgmt.sending.map fun x => { x with left := x.left.drop out.length }
      idlePassed := decide (out.length < 4) }
    dev := { s.dev with controllerPort := { s.dev.controllerPort with
      outMonitor := Vector.ofFn fun i => s.dev.monitorSample s.dev.controllerPort.monitor[i]
      outBytes := Vector.ofFn fun i : Fin 4 => out[i.val]? } } }

/-- The inbound half: sync counts, slots (zero in HOLDOVER and for a frame not received), and in LOCKED the four bytes
to the parser in positions 0 to 3. -/
def State.receiveFrame (s : State) (frame : Option ControllerFrame) : State :=
  let p := s.dev.controllerPort
  let slots := match p.locked, frame with
    | true, some f => f.slots
    | _, _ => Vector.replicate 2 0
  let t := { s with dev := { s.dev with controllerPort := { p with
    received := if frame.isSome then p.received + 1 else 0
    missed := if frame.isSome then 0 else p.missed + 1
    slots := slots } } }
  match p.locked, frame with
  | true, some f => f.bytes.toList.foldl State.feedByte t
  | true, none => if Config.missedControllerFrameIdle then (List.replicate 4 none).foldl State.feedByte t else t
  | false, _ => t

/-- CONTROLLER_LINK_FRAME: one controller link frame of the frame period, received or not. While the sync change of the
frames before is due, the row changes nothing (log 4). -/
def execControllerLinkFrame (frame : Option ControllerFrame) (s : State) : Host.Outcome State Fault Refusal :=
  .next (if s.dev.controllerPort.frameDue then s else (s.receiveFrame frame).sendFrame)

/-- CONTROLLER_LINK_LOCKED: after 16 consecutive received frames HOLDOVER becomes LOCKED; the parser waits for an idle
byte and the LINK flag is set (R180). -/
def execControllerLinkLocked (s : State) : Host.Outcome State Fault Refusal :=
  .next (
    if !s.dev.controllerPort.locked ∧ 16 ≤ s.dev.controllerPort.received then
      { s with
        mgmt := { s.mgmt with parser := .hunt, partBytes := [] }
        dev := { s.dev with controllerPort := { s.dev.controllerPort with locked := true } }.raise linkSource }
    else s)

/-- Pass-through on a nest ends (R50). -/
def Nest.endPass (x : Nest) : Nest :=
  match x.tone.mode with
  | .pass _ => { x with tone := { x.tone with mode := .silent } }
  | .silent | .lock | .segment => x

/-- CONTROLLER_LINK_HOLDOVER: after 8 consecutive frames not received LOCKED becomes HOLDOVER; a partly received message
is discarded and counted, pass-through ends, the LINK flag is set, and a message not yet sent to its end will be sent
again whole (R180, R50). -/
def execControllerLinkHoldover (s : State) : Host.Outcome State Fault Refusal :=
  .next (
    if s.dev.controllerPort.locked ∧ 8 ≤ s.dev.controllerPort.missed then
      let t := s.dropPartMessage
      { t with
        mgmt := { t.mgmt with
          sending := t.mgmt.sending.map fun x => if x.left.isEmpty then x else { x with left := x.bytes } }
        dev := { t.dev with
          controllerPort := { t.dev.controllerPort with
            locked := false, received := 0, slots := Vector.replicate 2 0 }
          nests := Vector.ofFn fun n => (t.dev.nest n).endPass }.raise linkSource }
    else s)

end Sys2Proof.Machine
end

