-- ==== Sys2Proof/Machine/Messages.lean ====
section
/-! DEFINITION. Messages: taking a complete inbound message, choosing and ending an outbound one, the notices and their
bodies (Chapter 12), and the commands of the Management Interface itself: an unknown type, VERSION READ and STATUS
READ. -/

namespace Sys2Proof.Machine

/-! ## Taking a message (R182, R183) -/

/-- The command of a complete message: type, tag, and the body between the length byte and the check byte (R181). -/
def commandOf (bytes : List Byte) : Command where
  type := bytes.getD 0 0
  tag := bytes.getD 1 0
  body := (bytes.drop 3).dropLast

/-- A complete message in the order of R182: a wrong sum or a used-up credit discards it, otherwise it is taken. -/
def State.takeMessage (s : State) (bytes : List Byte) : State :=
  if sumBytes bytes ≠ 0 then s.discardMessage
  else if 8 ≤ s.mgmt.credit then s.discardMessage
  else
    { s with mgmt := { s.mgmt with
        credit := s.mgmt.credit + 1
        queue := s.mgmt.queue ++ [commandOf bytes] } }

/-- MESSAGE_RECEIVED: the oldest complete message is handled (log 23). -/
def execMessageReceived (s : State) : Host.Outcome State Fault Refusal :=
  .next (
    match s.mgmt.completed with
    | [] => s
    | bytes :: rest => { s with mgmt := { s.mgmt with completed := rest } }.takeMessage bytes)

/-! ## Bids (R190) -/

/-- The bid of a source: its class priority times 32 plus its index; none when its flag is clear or its priority 0. -/
def NoticeArbiter.bid (a : NoticeArbiter) (i : SourceId) : Option Nat :=
  if a.pending[i] && decide (0 < a.priorities[sourceClass i]) then some (a.priorities[sourceClass i] * 32 + i.val)
  else none

/-- Of two candidates, the one with the higher bid. -/
def NoticeArbiter.better (a : NoticeArbiter) (best : Option SourceId) (i : SourceId) : Option SourceId :=
  match a.bid i, best with
  | none, _ => best
  | some _, none => some i
  | some b, some j => if (a.bid j).getD 0 < b then some i else some j

/-- The source that is selected, while at least one bids. -/
def NoticeArbiter.offered (a : NoticeArbiter) : Option SourceId := (List.finRange 18).foldl a.better none

/-! ## Notice bodies (Table 11-7, R191) -/

/-- Bits with the first at bit 0. -/
def packBits (l : List Bool) : Nat := l.foldr (fun b n => (if b then 1 else 0) + 2 * n) 0

/-- A byte of bits 0 to 3, one for each of four lines or nests. Bits 4 to 7 are sent as 0: DESIGN CHOICE, log 44. -/
def byteOf4 (f : Fin 4 → Bool) : Byte := BitVec.ofNat 8 (packBits ((List.finRange 4).map f))

/-- The link states as status byte 35 (Table 11-8). Bits 2 to 7 are sent as 0: DESIGN CHOICE, log 44. -/
def Device.linkByte (d : Device) : Byte :=
  BitVec.ofNat 8 (packBits [d.controllerPort.locked, d.nestPort.locked])

/-- The number of the newest posted label; the label number counter less one when the ring is empty (R191). -/
def LabelUnit.newest (u : LabelUnit) : Word32 :=
  if u.posted = 0 then u.counter - 1
  else
    match u.ring[u.post - 1] with
    | some e => e.label.number
    | none => u.counter - 1

/-- The four bytes of the Ring Wait Queue, head first, FFh unused (Table 11-7). -/
def queueBytes (q : List NestId) : List Byte :=
  (q.map (fun n => BitVec.ofNat 8 n.val) ++ List.replicate 4 absentByte).take 4

/-- The cause and plan of a CAL notice; an absent plan is FFh (Table 11-7). A flag set with no cause recorded does not
arise; its cause byte is then that of an absent value. -/
def causeBytes (c : Option (CalCause × Option PlanId)) : List Byte :=
  match c with
  | some (cause, p) => [cause.code, (p.map fun p => BitVec.ofNat 8 p.val).getD absentByte]
  | none => [absentByte, absentByte]

/-- The generation of the ACTIVE bank, 0 with none (Table 11-7, R136). -/
def TableStore.activeGeneration (t : TableStore) : Word32 :=
  match t.activeBank with
  | some b => (t.bank b).generation
  | none => 0

/-- The bytes a NEST_FAULT notice adds. -/
def Device.nestFaultBytes (d : Device) (n : NestId) : List Byte :=
  [(d.nest n).state.code, (d.notices.refusal[n].map Status.code).getD absentByte]

/-- The bytes a FIXTURE notice adds: changed set and taken levels. -/
def Device.fixtureBytes (d : Device) (n : NestId) : List Byte :=
  [byteOf4 fun k => d.fixture[n].changed[k], byteOf4 fun k => d.fixture[n].taken[k]]

/-- The bytes a CAL notice adds: cause, plan, states of plans 0 to 7. -/
def Device.calBytes (d : Device) (n : NestId) : List Byte :=
  causeBytes d.notices.calCause[n] ++ (List.finRange 8).map fun p => (d.calibration.record n p).state.code

/-- The bytes a LABELS notice adds: the count held at 65,535, the newest number, the posted count. -/
def Device.labelsBytes (d : Device) : List Byte :=
  bytes16 (BitVec.ofNat 16 (min 65535 d.notices.labelsPosted.toNat)) ++ bytes32 d.labels.newest
  ++ [BitVec.ofNat 8 d.labels.posted]

/-- The bytes after the source index of a notice body, as the state stands (Table 11-7). -/
def Device.noticeBytesOf (d : Device) (discards : Byte) (i : SourceId) : List Byte :=
  if h : i.val < 4 then d.nestFaultBytes ⟨i.val, h⟩
  else if h : i.val - 4 < 4 then d.fixtureBytes ⟨i.val - 4, h⟩
  else if h : i.val - 8 < 4 then d.calBytes ⟨i.val - 8, h⟩
  else if i = labelsSource then d.labelsBytes
  else if i = ringFullSource then BitVec.ofNat 8 d.labels.waitQueue.length :: queueBytes d.labels.waitQueue
  else if i = captureLowSource then [BitVec.ofNat 8 d.pool.free.length, BitVec.ofNat 8 d.pool.lowThreshold]
  else if i = bankSource then
    [d.tables.bankA.state.code, d.tables.bankB.state.code] ++ bytes32 d.tables.activeGeneration
  else if i = linkSource then [d.linkByte]
  else [discards]

/-- The notice body: source index, then the source's bytes. -/
def Device.noticeBody (d : Device) (discards : Byte) (i : SourceId) : List Byte :=
  BitVec.ofNat 8 i.val :: d.noticeBytesOf discards i

/-- The detail a source's notice consumes (R191, R170, R192). -/
def Device.consumeDetail (d : Device) (i : SourceId) : Device :=
  if h : i.val < 4 then
    { d with notices := { d.notices with refusal := d.notices.refusal.set i.val none } }
  else if h : i.val - 4 < 4 then
    d.modLines ⟨i.val - 4, h⟩ fun x => { x with changed := Vector.replicate 4 false }
  else if h : i.val - 8 < 4 then
    { d with notices := { d.notices with calCause := d.notices.calCause.set (i.val - 8) none } }
  else if i = labelsSource then { d with notices := { d.notices with labelsPosted := 0, timer := none } }
  else d

/-- The flag of the selected source is cleared and its detail consumed (R190, R191). -/
def Device.selectNotice (d : Device) (i : SourceId) : Device :=
  { d with notices := { d.notices with pending := d.notices.pending.set i false } }.consumeDetail i

/-! ## Choosing and ending an outbound message (R185, R183) -/

/-- The choice may be made: LOCKED, nothing being sent, an idle position passed. -/
def State.mayChoose (s : State) : Bool :=
  s.dev.controllerPort.locked && s.mgmt.sending.isNone && s.mgmt.idlePassed

/-- A message whose bytes are all still to send. -/
def Sending.whole (isReply : Bool) (bytes : List Byte) : Sending where
  isReply := isReply
  bytes := bytes
  left := bytes

/-- The notice of a source goes next: its body is frozen, and the consecutive-reply count becomes 0. -/
def State.sendNotice (s : State) (i : SourceId) : State :=
  { s with
    mgmt := { s.mgmt with
      sending := some (.whole false (noticeBytes (s.dev.noticeBody s.mgmt.discards i)))
      consecutive := 0 }
    dev := s.dev.selectNotice i }

/-- A reply goes next, and the consecutive-reply count rises, to at most 3. -/
def State.sendReply (s : State) (r : Reply) (rest : List Reply) : State :=
  { s with mgmt := { s.mgmt with
      replies := rest
      sending := some (.whole true r.bytes)
      consecutive := min 3 (s.mgmt.consecutive + 1) } }

/-- MESSAGE_CHOICE (R185). -/
def execMessageChoice (s : State) : Host.Outcome State Fault Refusal :=
  .next (
    if s.mayChoose then
      match s.dev.notices.offered, s.mgmt.replies with
      | some i, [] => s.sendNotice i
      | some i, r :: rest => if 3 ≤ s.mgmt.consecutive then s.sendNotice i else s.sendReply r rest
      | none, r :: rest => s.sendReply r rest
      | none, [] => s
    else s)

/-- MESSAGE_SENT: the check byte has gone; the command of a reply is answered and its credit released (R183). The check
byte leaves in a CONTROLLER_LINK_FRAME row and the credit falls in this one, so that a MESSAGE_RECEIVED row between the
two still finds the credit used: DESIGN CHOICE, log 23. -/
def execMessageSent (s : State) : Host.Outcome State Fault Refusal :=
  .next (
    match s.mgmt.sending with
    | none => s
    | some x =>
      if x.left.isEmpty then
        { s with mgmt := { s.mgmt with
            sending := none
            credit := if x.isReply then s.mgmt.credit - 1 else s.mgmt.credit } }
      else s)

/-! ## Commands of the Management Interface -/

/-- UNKNOWN_TYPE: a queued message whose type is not a command type is answered UNKNOWN_TYPE (R184). -/
def execUnknownType (tag type : Byte) (s : State) : Host.Outcome State Fault Refusal :=
  .next (
    match s.mgmt.queue with
    | [] => s
    | c :: _ =>
      if c.type = type ∧ c.tag = tag ∧ !isCommandType type then s.answered tag type (.refuse s.dev .unknownType)
      else s)

/-- VERSION_READ (R187). -/
def execVersionRead (tag : Byte) (s : State) : Host.Outcome State Fault Refusal :=
  .next (s.runCommand 0x02 tag (fun _ => true) fun d => .ok d (.version versionBytes))

/-- Bytes 26 to 31 of the status body: the error detail (Table 11-8). -/
def detailBytes (e : Option ErrorDetail) : List Byte :=
  match e with
  | none => [0, absentByte, absentByte, absentByte, 0, 0]
  | some x =>
    [x.reason.code, (x.kind.map TableKind.code).getD absentByte,
     (x.plan.map fun p => BitVec.ofNat 8 p.val).getD absentByte,
     (x.row.map fun r => BitVec.ofNat 8 r.val).getD absentByte] ++ bytes16 (x.computed.getD 0)

/-- The pending notice set in three bytes, bit i for source i, most significant byte first (Table 11-8, R181). Bits 18
to 23 are sent as 0: DESIGN CHOICE, log 44. -/
def NoticeArbiter.pendingBytes (a : NoticeArbiter) : List Byte :=
  let w := BitVec.ofNat 24 (packBits a.pending.toList)
  [w.extractLsb' 16 8, w.extractLsb' 8 8, w.extractLsb' 0 8]

/-- The status body of 40 bytes (Table 11-8). The bits that the table does not name, of bytes 4, 25 and 35 and of the
pending notice set, are sent as 0: DESIGN CHOICE, log 44. -/
def Device.statusBody (d : Device) (discards : Byte) : List Byte :=
  (List.finRange 4).map (fun n => (d.nest n).state.code)
  ++ [byteOf4 fun n => (d.nest n).gateOpen]
  ++ (List.finRange 4).flatMap (fun n => bytes16 (d.nest n).history)
  ++ [d.tables.bankA.state.code, d.tables.bankB.state.code]
  ++ bytes32 d.tables.bankA.generation ++ bytes32 d.tables.bankB.generation
  ++ [BitVec.ofNat 8 d.tables.bankA.pins, BitVec.ofNat 8 d.tables.bankB.pins,
      BitVec.ofNat 8 (packBits [d.tables.loadError, d.tables.sequenceError])]
  ++ detailBytes d.tables.detail
  ++ [BitVec.ofNat 8 d.labels.post.val, BitVec.ofNat 8 d.labels.ret.val, BitVec.ofNat 8 d.pool.free.length, d.linkByte]
  ++ d.notices.pendingBytes ++ [discards]

/-- All four history sets are cleared (R8). -/
def Device.clearHistories (d : Device) : Device :=
  { d with nests := Vector.ofFn fun n => { d.nests[n] with history := 0 } }

/-- STATUS_READ (R194): the body as it stands, then with history-clear YES the four history sets are cleared. -/
def execStatusRead (tag : Byte) (historyClear : Option Bool) (s : State) : Host.Outcome State Fault Refusal :=
  .next (s.runCommand 0x01 tag (fun _ => true) fun d =>
    match historyClear with
    | none => .refuse d .badField
    | some clear => .ok (if clear then d.clearHistories else d) (.status (d.statusBody s.mgmt.discards)))

end Sys2Proof.Machine
end

