-- ==== Sys2Proof/Machine/NestCommands.lean ====
section
/-! DEFINITION. The commands that act on a nest: NEST START, NEST ABORT, NEST GATE, UNIT READ, LOOPBACK, PASS-THROUGH,
MONITOR SELECT and GROUP MAP WRITE (Chapters 1, 2, 3 and 12). -/

namespace Sys2Proof.Machine

/-! ## NEST START (R9, R10) -/

/-- A printable serial character (R9, check 1). -/
def isPrintable (b : Byte) : Bool := decide (0x20 ≤ b.toNat) && decide (b.toNat ≤ 0x7E)

/-- The serial of a body: the characters beyond the serial length are ignored (Table 11-5). -/
def serialCharsOf (f : StartFields) : List Byte := f.serial.toList.take f.serialLength.toNat

/-- The serial part of check 1 (Table 1-4). -/
def serialFits (f : StartFields) : Bool :=
  decide (f.serialLength.toNat ≤ 16) && (serialCharsOf f).all isPrintable

/-- The role a start runs with (R9). -/
def Device.effectiveRole (d : Device) (n : NestId) (role : Role) : Role :=
  if (d.nest n).loopback then .engineering else role

/-- NEST START on a nest whose fields pass check 1 (Table 1-4). -/
def Device.startCommand (d : Device) (n : NestId) (role : Role) (p : PlanId) (serial : List Byte) (lot : Word32) :
    Answer :=
  match d.startCheck n (d.effectiveRole n role) p with
  | .ok b => .ok (d.startUnit n (d.effectiveRole n role) p serial lot b) .none
  | .error st => .refuse d st

/-- NEST START with its fields as sent. -/
def Device.nestStart (f : StartFields) (d : Device) : Answer :=
  match nestOf f.nest, roleOf f.role, Machine.planOf f.plan with
  | some n, some role, some p =>
    if serialFits f then d.startCommand n role p (serialCharsOf f) f.lot else .refuse d .badField
  | _, _, _ => .refuse d .badField

/-- NEST_START. -/
def execNestStart (tag : Byte) (fields : StartFields) (s : State) : Host.Outcome State Fault Refusal :=
  .next (s.runCommand 0x03 tag (fun body => decide (startFieldsOf body = some fields)) (Device.nestStart fields))

/-! ## NEST ABORT (R28) -/

/-- What NEST ABORT does to a nest (Table 1-7). -/
def Device.abortNest (d : Device) (n : NestId) : Device :=
  match (d.nest n).state with
  | .clamping | .levelLock | .quietCheck | .sweeping | .judging => d.earlyEnd n .aborted
  | .labelWait =>
    match (d.nest n).record with
    | some r => (d.discardUnit n r).exitTest n
    | none => d.exitTest n
  | .marking => d.endMarking n
  | .fault => d.leaveFault n
  | .empty | .loaded | .releasing | .done => d

/-- NEST_ABORT: answered OK in every nest state. The manual gives the body's one field and its length of one byte, and
no encoding; that the byte is the nest number is the model's choice (log 13). -/
def execNestAbort (tag nest : Byte) (s : State) : Host.Outcome State Fault Refusal :=
  .next (s.runCommand 0x04 tag (fun body => decide (body = [nest])) fun d =>
    match nestOf nest with
    | none => .refuse d .badField
    | some n => .ok (d.abortNest n) .none)

/-! ## NEST GATE (R11) -/

/-- The gate setting after a command. -/
def applyGate : GateArg → Bool → Bool
  | .opened, _ => true
  | .closed, _ => false
  | .unchanged, x => x

/-- The auto-start setting after a command. -/
def applyAuto : AutoArg → Option PlanId → Option PlanId
  | .off, _ => none
  | .plan p, _ => some p
  | .unchanged, x => x

/-- The settings are stored, and a nest that stands in LOADED makes the auto-start test (R11, R12). -/
def Device.setGate (d : Device) (n : NestId) (gate : GateArg) (auto : AutoArg) : Device :=
  let e := d.modNest n fun x => { x with gateOpen := applyGate gate x.gateOpen, autoStart := applyAuto auto x.autoStart }
  if (d.nest n).state = .loaded then e.autoStartTest n else e

/-- NEST_GATE. -/
def execNestGate (tag nest : Byte) (gate : Option GateArg) (auto : Option AutoArg) (s : State) :
    Host.Outcome State Fault Refusal :=
  .next (s.runCommand 0x05 tag (fun _ => true) fun d =>
    match nestOf nest, gate, auto with
    | some n, some g, some a => .ok (d.setGate n g a) .none
    | _, _, _ => .refuse d .badField)

/-! ## UNIT READ (R195) -/

/-- An accumulator as reported: its mean uncorrected response in place of its sum. -/
def Accumulator.report (a : Accumulator) : AccumulatorReport where
  minResponse := a.minResponse
  maxResponse := a.maxResponse
  maxDistortion := a.maxDistortion
  maxBuzz := a.maxBuzz
  maxCrest := a.maxCrest
  windowCount := a.windowCount
  mean := a.mean

/-- The record fields of Table 1-2 as reported; the Unit Record is that of the nest that holds it. -/
def UnitRecord.report (r : UnitRecord) (n : NestId) (stage : NestState) : RecordReport where
  nest := n
  role := r.role
  plan := r.plan
  bank := r.bank
  generation := r.generation
  serial := r.serial
  lot := r.lot
  tries := r.tries
  dwell := r.dwell
  stage := stage
  sub := r.sub
  quietAttempts := r.quietAttempts
  lockedGain := r.lockedGain
  cursor := r.cursor
  resweeps := r.resweeps
  unmapped := r.unmapped
  failures := r.failures
  worst := r.worst
  chainHead := r.chain.blocks.head?
  chainBlocks := r.chain.blocks.length
  chainStatus := r.chain.status
  calAtStart := r.calAtStart
  verdict := r.verdict
  partLost := r.partLost

/-- The accumulators of a page: bands 8 × page to 8 × page + 7; those at or above the BAND COUNT are absent. -/
def UnitRecord.page (r : UnitRecord) (bandCount : Nat) (page : Nat) : List (Option AccumulatorReport) :=
  (List.finRange 32).filterMap fun i =>
    if i.val / 8 = page then some (if i.val < bandCount then some r.accumulators[i].report else none) else none

/-- The data of a UNIT READ reply. The bands that are absent are those at or above the BAND COUNT of the unit's plan in
its bank as the bank stands. While a unit is in test its bank is pinned and no row of it changes; a labelled unit holds
no pin, and that its bank is read all the same is the model's choice (log 38). -/
def Device.unitData (d : Device) (n : NestId) (page : Nat) : ReplyData :=
  let x := d.nest n
  .unit x.state x.history (x.record.map fun r => r.report n x.state)
    (match x.record with
      | none => []
      | some r => r.page (d.planOf r).header.bandCount page)

/-- The history set of one nest is cleared (R8). -/
def Device.clearHistory (d : Device) (n : NestId) : Device := d.modNest n fun x => { x with history := 0 }

/-- UNIT_READ. -/
def execUnitRead (tag nest : Byte) (clear : Option Bool) (page : Byte) (s : State) :
    Host.Outcome State Fault Refusal :=
  .next (s.runCommand 0x06 tag (fun _ => true) fun d =>
    match nestOf nest, clear with
    | some n, some c =>
      if page.toNat ≤ 3 then .ok (if c then d.clearHistory n else d) (d.unitData n page.toNat)
      else .refuse d .badField
    | _, _ => .refuse d .badField)

/-! ## LOOPBACK (R29) -/

/-- LOOPBACK ON: the flag is set, and an EMPTY nest enters LOADED. -/
def Device.loopbackOn (d : Device) (n : NestId) : Device :=
  d.modNest n fun x => { x with loopback := true, state := .loaded }

/-- LOOPBACK OFF: the flag is cleared, and the nest enters LOADED or EMPTY by PRESENT's taken level. -/
def Device.loopbackOff (d : Device) (n : NestId) : Device :=
  let e := d.modNest n fun x => { x with loopback := false }
  if d.taken n .present then e.enterLoaded n else e.enterEmpty n

/-- LOOPBACK: refused outside EMPTY and LOADED. A value other than ON and OFF is answered BAD_FIELD (log 33). -/
def execLoopback (tag nest : Byte) (on : Option Bool) (s : State) : Host.Outcome State Fault Refusal :=
  .next (s.runCommand 0x07 tag (fun _ => true) fun d =>
    match nestOf nest, on with
    | some n, some b =>
      if (d.nest n).state = .empty ∨ (d.nest n).state = .loaded then
        .ok (if b then d.loopbackOn n else d.loopbackOff n) .none
      else .refuse d .refusedState
    | _, _ => .refuse d .badField)

/-! ## PASS-THROUGH (R49, R50) -/

/-- A nest takes pass-through in EMPTY, LOADED and DONE. -/
def NestState.takesPass : NestState → Bool
  | .empty | .loaded | .done => true
  | .clamping | .levelLock | .quietCheck | .sweeping | .judging | .labelWait | .marking | .releasing | .fault => false

/-- PASS_THROUGH. -/
def execPassThrough (tag nest : Byte) (source : Option PassArg) (s : State) : Host.Outcome State Fault Refusal :=
  .next (s.runCommand 0x08 tag (fun _ => true) fun d =>
    match nestOf nest, source with
    | some n, some (.slot i) =>
      if (d.nest n).state.takesPass && d.controllerPort.locked then
        .ok (d.modNest n fun x => { x with tone := { x.tone with mode := .pass i } }) .none
      else .refuse d .refusedState
    | some n, some .off => .ok (d.modNest n Nest.endPass) .none
    | _, _ => .refuse d .badField)

/-! ## MONITOR SELECT (R51) -/

/-- MONITOR_SELECT: both slots are set, or neither. -/
def execMonitorSelect (tag : Byte) (first second : Option MonitorSel) (s : State) : Host.Outcome State Fault Refusal :=
  .next (s.runCommand 0x09 tag (fun _ => true) fun d =>
    match first, second with
    | some a, some b => .ok { d with controllerPort := { d.controllerPort with monitor := #v[a, b] } } .none
    | _, _ => .refuse d .badField)

/-! ## GROUP MAP WRITE (R67) -/

/-- A loud threshold within its range and step: −60.0 to 0.0 dBFS in 0.5 dB steps. -/
def isThreshold (t : Int) : Bool := decide (-600 ≤ t) && decide (t ≤ 0) && decide (t % 5 = 0)

/-- The group a field names; the check has been made that it is 0 or 1. -/
def groupField (b : Byte) : GroupId := if b = 0 then 0 else 1

/-- Some nest has a unit in test. -/
def Device.anyInTest (d : Device) : Bool := (List.finRange 4).any fun n => (d.nest n).state.inTest

/-- The memberships and thresholds are replaced in one step. -/
def Device.setGroups (d : Device) (groups : Vector Byte 4) (thresholds : Vector Int 2) : Device :=
  { d with
    groupMap := Vector.ofFn fun n => groupField groups[n]
    groups := Vector.ofFn fun g => { d.groups[g] with threshold := thresholds[g] } }

/-- GROUP_MAP_WRITE. -/
def execGroupMapWrite (tag : Byte) (groups : Vector Byte 4) (thresholds : Vector Int 2) (s : State) :
    Host.Outcome State Fault Refusal :=
  .next (s.runCommand 0x1A tag (fun _ => true) fun d =>
    if !(groups.toList.all fun b => decide (b.toNat ≤ 1)) || !(thresholds.toList.all isThreshold) then
      .refuse d .badField
    else if d.anyInTest then .refuse d .refusedState
    else .ok (d.setGroups groups thresholds) .none)

end Sys2Proof.Machine
end

