-- ==== Sys2Proof/Machine/Results.lean ====
section
/-! DEFINITION. The commands that read and settle results: the Result Ring, capture chains, yield counters, calibration
records, drift windows and the notice settings (Chapters 5, 6, 7, 8 and 12). -/

namespace Sys2Proof.Machine

/-! ## RING READ and RING RETURN (R102, R103) -/

/-- The entries asked for, in order and wrapping from 63 to 0; none when one of them is free. -/
def LabelUnit.readFrom (u : LabelUnit) (start : EntryId) : Nat → Option (List (EntryId × Label))
  | 0 => some []
  | k + 1 =>
    match u.ring[start], u.readFrom (start + 1) k with
    | some e, some rest => some ((start, e.label) :: rest)
    | _, _ => none

/-- RING_READ. -/
def execRingRead (tag start count : Byte) (s : State) : Host.Outcome State Fault Refusal :=
  .next (s.runCommand 0x0A tag (fun _ => true) fun d =>
    match entryOf start with
    | none => .refuse d .badField
    | some i =>
      if 1 ≤ count.toNat ∧ count.toNat ≤ 4 then
        match d.labels.readFrom i count.toNat with
        | some entries => .ok d (.records entries)
        | none => .refuse d .badField
      else .refuse d .badField)

/-- The entry at the return pointer goes back to PART: its record is removed, a chain still attached is freed (R103,
R146), and the return pointer moves on. -/
def Device.returnEntry (d : Device) : Device :=
  let u := d.labels
  let e := { d with labels := { u with ring := u.ring.set u.ret none, ret := u.ret + 1, posted := u.posted - 1 } }
  match u.ring[u.ret].bind RingEntry.chain with
  | some c => e.freeChain c
  | none => e

/-- The next `k` entries are returned in ring order. -/
def Device.returnEntries : Nat → Device → Device
  | 0, d => d
  | k + 1, d => Device.returnEntries k d.returnEntry

/-- How many entries run from the return pointer through an index, wrapping from 63 to 0. -/
def LabelUnit.spanTo (u : LabelUnit) (i : EntryId) : Nat := (i - u.ret).val + 1

/-- RING_RETURN: the entries are returned, then the freed entries granted to waiting nests (R103, R106). The body
is the index (log 13). -/
def execRingReturn (tag index : Byte) (s : State) : Host.Outcome State Fault Refusal :=
  .next (s.runCommand 0x0B tag (fun body => decide (body = [index])) fun d =>
    match entryOf index with
    | none => .refuse d .badField
    | some i =>
      if d.labels.ring[i].isNone then .refuse d .badField
      else
        let k := d.labels.spanTo i
        .ok (Device.grantEntries k (Device.returnEntries k d)) (.returned k))

/-! ## CAPTURE FETCH and CAPTURE RELEASE (R147, R146) -/

/-- An entry holds the label of this number. -/
def entryHolds (number : Word32) (e : Option RingEntry) : Bool := e.any fun x => decide (x.label.number = number)

/-- The posted entry with a label number. -/
def LabelUnit.find (u : LabelUnit) (number : Word32) : Option EntryId :=
  (List.finRange 64).find? fun i => entryHolds number u.ring[i]

/-- The entry and chain of a label, when the ring holds both (R147, check 2). -/
def LabelUnit.chainOf (u : LabelUnit) (number : Word32) : Option (EntryId × Chain) := do
  let i ← u.find number
  let e ← u.ring[i]
  let c ← e.chain
  some (i, c)

/-- The chain's sample at an index: 0 at or above its sample count (R147). -/
def chainSample (m : List Host.Cell) (c : Chain) (index : Nat) : Sample :=
  if index < c.sampleCount then
    match c.blocks[index / 4096]? with
    | some b => readSample m b (index % 4096)
    | none => 0
  else 0

/-- The data of a CAPTURE FETCH reply. -/
def captureData (m : List Host.Cell) (label : Word32) (c : Chain) (block chunk : Nat) : ReplyData :=
  let first := 4096 * block + 64 * chunk
  .capture label block chunk (min 64 (c.sampleCount - first))
    ((List.range 64).map fun i => chainSample m c (first + i))

/-- CAPTURE_FETCH. The body is the label number and the two indices in the order of R147 (R181; log 13). -/
def execCaptureFetch (tag : Byte) (label : Word32) (block chunk : Byte) (s : State) :
    Host.Outcome State Fault Refusal :=
  .next (s.runCommand 0x0C tag (fun body => decide (body = bytes32 label ++ [block, chunk])) fun d =>
    if 63 < chunk.toNat ∨ 31 < block.toNat then .refuse d .badField
    else
      match d.labels.chainOf label with
      | none => .refuse d .badField
      | some (_, c) =>
        if block.toNat < c.blocks.length then .ok d (captureData s.samples label c block.toNat chunk.toNat)
        else .refuse d .badField)

/-- The chain of an entry is freed; its label record stays (R146). -/
def Device.releaseChain (d : Device) (i : EntryId) (c : Chain) : Device :=
  { d with labels := { d.labels with
      ring := d.labels.ring.set i (d.labels.ring[i].map fun e : RingEntry => { e with chain := none }) } }.freeChain c

/-- CAPTURE_RELEASE. The body is the label number (R181; log 13). -/
def execCaptureRelease (tag : Byte) (label : Word32) (s : State) : Host.Outcome State Fault Refusal :=
  .next (s.runCommand 0x0D tag (fun body => decide (body = bytes32 label)) fun d =>
    match d.labels.chainOf label with
    | none => .refuse d .badField
    | some (i, c) => .ok (d.releaseChain i c) (.released label c.blocks.length))

/-! ## Yield Counters (R115, R116, R118) -/

/-- The live set is copied and the snapshot number rises (R115). -/
def YieldCounters.takeSnapshot (y : YieldCounters) : YieldCounters :=
  { y with snapshot := y.live, number := y.number + 1 }

/-- COUNTER_SNAPSHOT: clear flag NO; a flag that is neither YES nor NO is answered BAD_FIELD (R115). -/
def execCounterSnapshot (tag : Byte) (flagIsNo : Bool) (s : State) : Host.Outcome State Fault Refusal :=
  .next (s.runCommand 0x13 tag (fun _ => true) fun d =>
    if flagIsNo then
      .ok { d with yields := d.yields.takeSnapshot } (.snapshot d.yields.takeSnapshot.number)
    else .refuse d .badField)

/-- The live counters of a nest after a clear: a unit in test is carried as STARTED 1 (R116). -/
def Nest.carriedCounters (x : Nest) : Counters :=
  { Counters.zero with started := if x.state.inTest then 1 else 0 }

/-- The live set after a clear. -/
def Device.clearedLive (d : Device) : Vector Counters 4 := Vector.ofFn fun n => (d.nest n).carriedCounters

/-- COUNTER_SNAPSHOT_CLEAR: clear flag YES (R116). -/
def execCounterSnapshotClear (tag : Byte) (s : State) : Host.Outcome State Fault Refusal :=
  .next (s.runCommand 0x13 tag (fun _ => true) fun d =>
    .ok { d with yields := { d.yields.takeSnapshot with live := d.clearedLive } }
      (.snapshot d.yields.takeSnapshot.number))

/-- The counters of a page in their order (R118). -/
def Counters.page (c : Counters) (page : Nat) : List Word32 :=
  if page = 0 then
    [c.started, c.labelled, c.discarded, c.voided, c.golden, c.engineering, c.retests, c.marginal]
  else c.bins.toList

/-- COUNTER_READ: from the snapshot set only. -/
def execCounterRead (tag nest page : Byte) (s : State) : Host.Outcome State Fault Refusal :=
  .next (s.runCommand 0x14 tag (fun _ => true) fun d =>
    match nestOf nest with
    | none => .refuse d .badField
    | some n =>
      if page.toNat ≤ 1 then
        .ok d (.counters d.yields.number nest page (d.yields.snapshot[n].page page.toNat))
      else .refuse d .badField)

/-! ## Calibration records (R135, R136) -/

/-- The plan's BAND COUNT in the ACTIVE bank, or 0 when no bank is ACTIVE or the plan is not defined there (R135). -/
def Device.activeBandCount (d : Device) (p : PlanId) : Nat :=
  match d.activeHeader p with
  | some h => if h.defined then h.bandCount else 0
  | none => 0

/-- The data of a CORRECTION READ reply. -/
def Device.correctionData (d : Device) (n : NestId) (p : PlanId) (nest plan : Byte) : ReplyData :=
  let c := d.calibration.record n p
  .correction nest plan c.state c.stamp (d.activeBandCount p) c.corrections

/-- CORRECTION_READ. -/
def execCorrectionRead (tag nest plan : Byte) (s : State) : Host.Outcome State Fault Refusal :=
  .next (s.runCommand 0x15 tag (fun _ => true) fun d =>
    match nestOf nest, planOf plan with
    | some n, some p => .ok d (d.correctionData n p nest plan)
    | _, _ => .refuse d .badField)

/-- A unit in test on the nest uses the plan (R136). -/
def Device.usesPlan (d : Device) (n : NestId) (p : PlanId) : Bool :=
  (d.nest n).state.inTest && (d.nest n).record.any fun r => decide (r.plan = p)

/-- A calibration record is replaced; a changed STATE sets the CAL flag of the nest with its cause (R137). -/
def Device.replaceCal (d : Device) (n : NestId) (p : PlanId) (c : CalRecord) (cause : CalCause) : Device :=
  let e := { d with calibration := d.calibration.setRecord n p c }
  if c.state = (d.calibration.record n p).state then e else e.raiseCal n cause (some p)

/-- The record is set as a changed plan is set, against the ACTIVE bank (R136, R133). -/
def Device.clearCorrection (d : Device) (n : NestId) (p : PlanId) : Device :=
  d.replaceCal n p (clearedRecord (d.activeReferenceValid p) d.tables.activeGeneration) .clear

/-- CORRECTION_CLEAR. -/
def execCorrectionClear (tag nest plan : Byte) (s : State) : Host.Outcome State Fault Refusal :=
  .next (s.runCommand 0x16 tag (fun _ => true) fun d =>
    match nestOf nest, planOf plan with
    | some n, some p =>
      if d.usesPlan n p then .refuse d .refusedState
      else .ok (d.clearCorrection n p) ((d.clearCorrection n p).correctionData n p nest plan)
    | _, _ => .refuse d .badField)

/-! ## DRIFT SETTINGS WRITE (R123) -/

/-- The nests a selection names, in increasing order. -/
def selectedNests : DriftSel → List NestId
  | .one n => [n]
  | .all => List.finRange 4

/-- A drift window with the values given; a value given restarts it. -/
def DriftWindow.set (w : DriftWindow) (length limit : Option Nat) : DriftWindow where
  labels := if length.isSome || limit.isSome then 0 else w.labels
  marginals := if length.isSome || limit.isSome then 0 else w.marginals
  length := length.getD w.length
  limit := limit.getD w.limit

/-- The report of one window: its counts as they stood, and the resulting settings. -/
def Device.driftReport (d : Device) (length limit : Option Nat) (n : NestId) : DriftReport where
  nest := n
  labels := d.calibration.drift[n].labels
  marginals := d.calibration.drift[n].marginals
  length := length.getD d.calibration.drift[n].length
  limit := limit.getD d.calibration.drift[n].limit

/-- The settings of the selected nests are replaced. -/
def Device.setDrift (d : Device) (nests : List NestId) (length limit : Option Nat) : Device :=
  { d with calibration := { d.calibration with
      drift := Vector.ofFn fun n =>
        if nests.contains n then d.calibration.drift[n].set length limit else d.calibration.drift[n] } }

/-- The values given lie in their ranges, and no selected nest gets an M above its W. -/
def Device.driftFits (d : Device) (nests : List NestId) (length limit : Option Nat) : Bool :=
  length.all (fun w => decide (10 ≤ w) && decide (w ≤ 1000)) && limit.all (fun m => decide (1 ≤ m) && decide (m ≤ 1000))
  && nests.all fun n => decide (limit.getD d.calibration.drift[n].limit ≤ length.getD d.calibration.drift[n].length)

/-- DRIFT_SETTINGS_WRITE. -/
def execDriftSettingsWrite (tag : Byte) (nests : Option DriftSel) (length limit : Option Nat) (s : State) :
    Host.Outcome State Fault Refusal :=
  .next (s.runCommand 0x1B tag (fun _ => true) fun d =>
    match nests with
    | none => .refuse d .badField
    | some sel =>
      if d.driftFits (selectedNests sel) length limit then
        .ok (d.setDrift (selectedNests sel) length limit)
          (.drift ((selectedNests sel).map (d.driftReport length limit)))
      else .refuse d .badField)

/-! ## NOTICE CONFIG (R193) -/

/-- A one-byte field that may be UNCHANGED. -/
def byteField (b : Byte) : Option Byte := if b = 0xFF then none else some b

/-- The fields of a NOTICE CONFIG body: nine priorities, count, time, threshold, FFh and FFFFh for UNCHANGED. -/
def noticeFieldsOf (body : List Byte) : Option (Vector (Option Byte) 9 × Option Byte × Option Word16 × Option Byte) :=
  match body with
  | [p0, p1, p2, p3, p4, p5, p6, p7, p8, c, h, l, t] =>
    some (#v[byteField p0, byteField p1, byteField p2, byteField p3, byteField p4, byteField p5, byteField p6,
             byteField p7, byteField p8],
          byteField c, if word16 h l = 0xFFFF then none else some (word16 h l), byteField t)
  | _ => none

/-- The settings of NOTICE CONFIG lie in their ranges. -/
def noticeConfigFits (priorities : Vector (Option Byte) 9) (count : Option Byte) (time : Option Word16)
    (threshold : Option Byte) : Bool :=
  priorities.toList.all (fun p => p.all fun b => decide (b.toNat ≤ 15))
  && count.all (fun c => decide (1 ≤ c.toNat) && decide (c.toNat ≤ 32))
  && time.all (fun t => decide (1 ≤ t.toNat) && decide (t.toNat ≤ 1000))
  && threshold.all (fun t => decide (t.toNat ≤ 63))

/-- The given settings replace the old ones. -/
def NoticeArbiter.configure (a : NoticeArbiter) (priorities : Vector (Option Byte) 9) (count : Option Byte)
    (time : Option Word16) : NoticeArbiter :=
  { a with
    priorities := Vector.ofFn fun i => (priorities[i].map BitVec.toNat).getD a.priorities[i]
    coalescingCount := (count.map BitVec.toNat).getD a.coalescingCount
    coalescingTime := (time.map BitVec.toNat).getD a.coalescingTime }

/-- A new count at or below a non-zero labels-posted count, or a running timer at or above a new time (R193). -/
def NoticeArbiter.configReaches (a : NoticeArbiter) (count : Option Byte) (time : Option Word16) : Bool :=
  count.any (fun c => decide (a.labelsPosted ≠ 0) && decide (c.toNat ≤ a.labelsPosted.toNat))
  || time.any (fun t => a.timer.any fun x => decide (msFrames t.toNat ≤ x))

/-- NOTICE CONFIG on the blocks. -/
def Device.noticeConfig (d : Device) (priorities : Vector (Option Byte) 9) (count : Option Byte)
    (time : Option Word16) (threshold : Option Byte) : Device :=
  let e := { d with
    notices := d.notices.configure priorities count time
    pool := { d.pool with lowThreshold := (threshold.map BitVec.toNat).getD d.pool.lowThreshold } }
  if d.notices.configReaches count time then e.raise labelsSource else e

/-- The twelve settings as they stand. -/
def Device.noticeSettingsData (d : Device) : ReplyData :=
  .noticeSettings d.notices.priorities d.notices.coalescingCount d.notices.coalescingTime d.pool.lowThreshold

/-- NOTICE_CONFIG. -/
def execNoticeConfig (tag : Byte) (priorities : Vector (Option Byte) 9) (count : Option Byte) (time : Option Word16)
    (threshold : Option Byte) (s : State) : Host.Outcome State Fault Refusal :=
  .next (s.runCommand 0x1C tag
    (fun body => decide (noticeFieldsOf body = some (priorities, count, time, threshold))) fun d =>
    if noticeConfigFits priorities count time threshold then
      .ok (d.noticeConfig priorities count time threshold)
        (d.noticeConfig priorities count time threshold).noticeSettingsData
    else .refuse d .badField)

end Sys2Proof.Machine
end

