-- ==== Sys2Proof/Machine/Tables.lean ====
section
/-! DEFINITION. Loading the table banks: TABLE WRITE, BANK COPY, TABLE COMMIT and their completions, BANK SWITCH with the
calibration restamp, LOAD STATUS CLEAR (Chapter 9; R132 to R134). -/

namespace Sys2Proof.Machine

/-- LOAD_ERROR or SEQUENCE_ERROR is set: loading commands are answered LOAD_BLOCKED (R161). -/
def TableStore.blocked (t : TableStore) : Bool := t.loadError || t.sequenceError

/-- Change a bank of the part. -/
def Device.modBank (d : Device) (b : BankId) (f : Bank → Bank) : Device := { d with tables := d.tables.modBank b f }

/-! ## TABLE WRITE (R155, R156) -/

/-- Change one plan of the rows. -/
def BankRows.modPlan (r : BankRows) (p : PlanId) (f : Plan → Plan) : BankRows :=
  { r with plans := r.plans.set p (f r.plans[p]) }

/-- The change a TABLE WRITE makes to the rows: none when check 2 or check 3 of Table 9-3 fails. -/
def rowChange (kind plan row : Byte) (codes : List Nat) : Option (BankRows → BankRows) := do
  let k ← tableKindOf kind
  let p ← planOf plan
  match k with
  | .planHeader =>
    if row = 0 then
      let h ← planHeaderOf codes
      some fun r => r.modPlan p fun x => { x with header := h }
    else none
  | .segment =>
    if h : row.toNat < 24 then
      let s ← segmentOf codes
      some fun r => r.modPlan p fun x => { x with segments := x.segments.set row.toNat s }
    else none
  | .band =>
    if h : row.toNat < 32 then
      let b ← bandOf codes
      some fun r => r.modPlan p fun x => { x with bands := x.bands.set row.toNat b }
    else none
  | .reference =>
    if h : row.toNat < 32 then
      let v ← referenceOf codes
      some fun r => r.modPlan p fun x => { x with references := x.references.set row.toNat v }
    else none
  | .verdict =>
    if h : row.toNat < 16 then
      if p = 0 then
        let v ← verdictOf codes
        some fun r => { r with verdicts := r.verdicts.set row.toNat v }
      else none
    else none

/-- A bank that is being written: EMPTY and READY become OPEN (R156, R157). -/
def openedState : BankState → BankState
  | .empty | .ready => .opened
  | .opened => .opened
  | .verifying => .verifying
  | .active => .active
  | .retiring => .retiring

/-- A row is replaced; the bank's fingerprints are discarded (R152, R156). -/
def Bank.write (b : Bank) (f : BankRows → BankRows) : Bank :=
  { b with rows := f b.rows, state := openedState b.state, fingerprints := none }

/-- TABLE WRITE: the checks of Table 9-3 in order. -/
def Device.tableWrite (kind plan row : Byte) (codes : List Nat) (d : Device) : Answer :=
  if d.tables.blocked then .refuse d .loadBlocked
  else
    match rowChange kind plan row codes with
    | none => .refuse d .badField
    | some f =>
      match d.tables.standby with
      | none => .refuse d .refusedState
      | some b =>
        if d.tables.operation = .none then .ok (d.modBank b fun x => x.write f) (.row kind plan row)
        else .refuse d .busy

/-- The body of a TABLE WRITE carries these fields (R188). -/
def tableBodyIs (kind plan row : Byte) (codes : List Word16) (body : List Byte) : Bool :=
  match body with
  | k :: p :: r :: rest => decide (k = kind ∧ p = plan ∧ r = row ∧ codesOf rest = codes)
  | _ => false

/-- TABLE_WRITE. -/
def execTableWrite (tag kind plan row : Byte) (codes : List Word16) (s : State) : Host.Outcome State Fault Refusal :=
  .next (s.runCommand 0x0E tag (tableBodyIs kind plan row codes)
    (Device.tableWrite kind plan row (codes.map BitVec.toNat)))

/-! ## BANK COPY (R157) -/

/-- BANK COPY at its execution: taken with its reply held. A standby that was EMPTY or READY becomes OPEN. -/
def Device.bankCopy (d : Device) : Answer :=
  if d.tables.blocked then .refuse d .loadBlocked
  else if d.tables.operation ≠ .none then .refuse d .busy
  else
    match d.tables.activeBank, d.tables.standby with
    | some _, some b =>
      { dev := { d with tables :=
          { d.tables.modBank b fun x =>
              { x with
                state := openedState x.state
                fingerprints := if x.state = .ready then none else x.fingerprints } with
            operation := .copy
            operationTimer := 0 } }
        reply := none }
    | _, _ => .refuse d .refusedState

/-- BANK_COPY. -/
def execBankCopy (tag : Byte) (s : State) : Host.Outcome State Fault Refusal :=
  .next (s.runCommand 0x10 tag (fun _ => true) Device.bankCopy)

/-- The copy's completion: the standby bank takes the ACTIVE bank's rows and no fingerprints. -/
def Device.finishCopy (d : Device) (source target : BankId) : Device :=
  { d with tables :=
    { d.tables.modBank target fun x => { x with rows := (d.tables.bank source).rows, fingerprints := none } with
      operation := .none } }

/-- BANK_COPY_COMPLETE: due while a copy is in flight. -/
def execBankCopyComplete (s : State) : Host.Outcome State Fault Refusal :=
  .next (
    match s.dev.tables.operation, s.dev.tables.activeBank, s.dev.tables.standby with
    | .copy, some a, some b => { s with dev := s.dev.finishCopy a b }.releaseHeld .ok .none
    | _, _, _ => s)

/-! ## TABLE COMMIT (R158) and the load status (R161) -/

/-- An error detail is written only when it is absent (R161). -/
def TableStore.recordDetail (t : TableStore) (e : ErrorDetail) : TableStore :=
  { t with detail := some (t.detail.getD e) }

/-- A detail with a reason alone. -/
def reasonDetail (r : Reason) : ErrorDetail where
  reason := r
  kind := none
  plan := none
  row := none
  computed := none

/-- A sequence error: the flag and the detail are set; the reply LOAD_BLOCKED carries the detail. -/
def Device.sequenceError (d : Device) (r : Reason) : Answer :=
  let t := { d.tables with sequenceError := true }.recordDetail (reasonDetail r)
  { dev := { d with tables := t }, reply := some (.loadBlocked, .detail t.detail) }

/-- A commit is taken: the bank becomes VERIFYING and the reply is held. -/
def Device.takeCommit (d : Device) (b : BankId) (declared : Word16) : Answer :=
  { dev := { d with tables :=
      { d.tables.modBank b fun x => { x with state := .verifying } with
        operation := .commit declared
        operationTimer := 0 } }
    reply := none }

/-- TABLE COMMIT: the four cases in order. -/
def Device.tableCommit (body : Option (Byte × Word16)) (d : Device) : Answer :=
  if d.tables.blocked then .refuse d .loadBlocked
  else if d.tables.operation = .copy then .refuse d .busy
  else
    match body with
    | none => d.sequenceError .confirm
    | some (code, declared) =>
      if code ≠ 0xD5 then d.sequenceError .confirm
      else
        match d.tables.standby with
        | none => d.sequenceError .notOpen
        | some b =>
          if (d.tables.bank b).state = .opened then d.takeCommit b declared else d.sequenceError .notOpen

/-- TABLE_COMMIT. -/
def execTableCommit (tag : Byte) (body : Option (Byte × Word16)) (s : State) : Host.Outcome State Fault Refusal :=
  .next (s.runCommand 0x0F tag (fun b => decide (commitFieldsOf b = some body)) (Device.tableCommit body))

/-- LOAD_STATUS_CLEAR: the reply carries the detail as it stood (R162). -/
def execLoadStatusClear (tag : Byte) (s : State) : Host.Outcome State Fault Refusal :=
  .next (s.runCommand 0x12 tag (fun _ => true) fun d =>
    .ok { d with tables := { d.tables with loadError := false, sequenceError := false, detail := none } }
      (.detail d.tables.detail))

/-! ## Verification (R159, R160) -/

/-- The plan's segments: rows 0 to SEGMENT COUNT − 1. -/
def Plan.activeSegments (p : Plan) : List Segment := p.segments.toList.take p.header.segmentCount

/-- A band is reached by a segment (Table 9-4, check 5). -/
def Segment.reaches (s : Segment) (b : Band) : Bool :=
  match s.kind with
  | .step => b.contains s.startFrequency
  | .chirp => b.overlaps s.startFrequency s.endFrequency
  | .pilot | .silence => false

/-- Band `i` begins below the end of the band before it (Table 9-4, check 4). -/
def Plan.outOfOrder (p : Plan) (i : BandId) : Bool :=
  decide (0 < i.val) && decide (p.bands[i].lower < (p.bands[i.val - 1]).upper)

/-- A failure found in a row of a plan. -/
def rowDetail (r : Reason) (k : TableKind) (p : PlanId) (row : Option (Fin 32)) : ErrorDetail where
  reason := r
  kind := some k
  plan := some p
  row := row
  computed := none

/-- The first plan, in order, in which a check finds a row. -/
def BankRows.findRow (rows : BankRows) (r : Reason) (k : TableKind) (find : Plan → Option (Fin 32)) :
    Option ErrorDetail :=
  (List.finRange 8).findSome? fun p => (find rows.plans[p]).map fun row => rowDetail r k p (some row)

/-- Check 1: the declared checksum. -/
def BankRows.checkSum (rows : BankRows) (declared : Word16) : Option ErrorDetail :=
  if rows.checksum = declared then none
  else some { reasonDetail .checksum with computed := some rows.checksum }

/-- Check 2: at least one plan is defined. -/
def BankRows.checkPlans (rows : BankRows) : Option ErrorDetail :=
  if rows.plans.toList.any fun p => p.header.defined then none else some (reasonDetail .noPlan)

/-- Check 3: a driven segment in each defined plan. -/
def BankRows.checkSegments (rows : BankRows) : Option ErrorDetail :=
  (List.finRange 8).findSome? fun p =>
    if rows.plans[p].header.defined
        && rows.plans[p].activeSegments.all fun s => decide (s.kind = .silence) then
      some (rowDetail .noDrivenSegment .planHeader p none)
    else none

/-- Check 4: the order of the bands. -/
def BankRows.checkBandOrder (rows : BankRows) : Option ErrorDetail :=
  rows.findRow .bandOrder .band fun p => if p.header.defined then p.bandIds.find? p.outOfOrder else none

/-- Check 5: each band is reached. -/
def BankRows.checkReach (rows : BankRows) : Option ErrorDetail :=
  rows.findRow .bandUnreached .band fun p =>
    if p.header.defined then p.bandIds.find? fun i => !p.activeSegments.any fun s => s.reaches p.bands[i] else none

/-- Check 6: reference rows of reference-valid plans. -/
def BankRows.checkMissing (rows : BankRows) : Option ErrorDetail :=
  rows.findRow .referenceMissing .reference fun p =>
    if p.header.isReferenceValid then p.bandIds.find? fun i => !p.references[i].present else none

/-- Check 7: no reference row of any other plan. -/
def BankRows.checkExtra (rows : BankRows) : Option ErrorDetail :=
  rows.findRow .referenceExtra .reference fun p =>
    if p.header.isReferenceValid then none else (List.finRange 32).find? fun i => p.references[i].present

/-- Check 8: verdict entry 15 matches everything. -/
def BankRows.checkCatchAll (rows : BankRows) : Option ErrorDetail :=
  if rows.verdicts[15].require = 0 ∧ rows.verdicts[15].exclude = 0 then none
  else some { reasonDetail .noCatchAll with kind := some .verdict, row := some 15 }

/-- Verification: the first failure in the order of Table 9-4. -/
def BankRows.verify (rows : BankRows) (declared : Word16) : Option ErrorDetail :=
  (rows.checkSum declared).or (rows.checkPlans.or (rows.checkSegments.or (rows.checkBandOrder.or
    (rows.checkReach.or (rows.checkMissing.or (rows.checkExtra.or rows.checkCatchAll))))))

/-- The eight fingerprints (R132). -/
def BankRows.fingerprints (rows : BankRows) : Vector Word16 8 := Vector.ofFn fun p => rows.plans[p].fingerprint

/-- Success: READY with its fingerprints (R160). -/
def Device.verified (d : Device) (b : BankId) : Device :=
  { d with tables :=
    { d.tables.modBank b fun x => { x with state := .ready, fingerprints := some x.rows.fingerprints } with
      operation := .none } }

/-- Failure: OPEN again, LOAD_ERROR set, the detail recorded when absent (R160, R161). -/
def Device.notVerified (d : Device) (b : BankId) (e : ErrorDetail) : Device :=
  { d with tables :=
    { (d.tables.modBank b fun x => { x with state := .opened }).recordDetail e with
      operation := .none, loadError := true } }

/-- VERIFICATION_COMPLETE: due while a commit is in flight. -/
def execVerificationComplete (s : State) : Host.Outcome State Fault Refusal :=
  .next (
    match s.dev.tables.operation, s.dev.tables.standby with
    | .commit declared, some b =>
      let rows := (s.dev.tables.bank b).rows
      match rows.verify declared with
      | none => { s with dev := s.dev.verified b }.releaseHeld .ok (.checksum rows.checksum)
      | some e => { s with dev := s.dev.notVerified b e }.releaseHeld .loadBlocked (.detail (some e))
    | _, _ => s)

/-! ## BANK SWITCH (R163, R133, R134) -/

/-- The next generation: 0 is never given (R163). -/
def nextGeneration (g : Word32) : Word32 := if g = 0xFFFFFFFF then 1 else g + 1

/-- A plan counts as changed: at a switch with no ACTIVE bank before it, or when the fingerprints differ (R133). A bank
without fingerprints, which no switch meets, counts as changed (log 30). -/
def planChanged (old : Option Bank) (new : Bank) (p : PlanId) : Bool :=
  match old with
  | none => true
  | some o =>
    match o.fingerprints, new.fingerprints with
    | some f, some g => decide (f[p] ≠ g[p])
    | _, _ => true

/-- A record at a switch: reset when its plan changed, restamped otherwise. -/
def switchedRecord (old : Option Bank) (new : Bank) (p : PlanId) (c : CalRecord) : CalRecord :=
  if planChanged old new p then clearedRecord new.rows.plans[p].header.isReferenceValid new.generation
  else { c with stamp := new.generation }

/-- All records at a switch. -/
def CalibrationStore.switched (c : CalibrationStore) (old : Option Bank) (new : Bank) : CalibrationStore :=
  { c with records := Vector.ofFn fun n => Vector.ofFn fun p => switchedRecord old new p (c.record n p) }

/-- Some record of a nest changed its STATE between two stores. -/
def stateChanged (before after : CalibrationStore) (n : NestId) : Bool :=
  (List.finRange 8).any fun p => decide ((before.record n p).state ≠ (after.record n p).state)

/-- The records are reset or restamped, and the CAL flag of each nest with a changed STATE is set. -/
def Device.restamp (d : Device) (old : Option Bank) (new : Bank) : Device :=
  let after := d.calibration.switched old new
  (List.finRange 4).foldl
    (fun (e : Device) n => if stateChanged d.calibration after n then e.raiseCal n .switched none else e)
    { d with calibration := after }

/-- The bank that was ACTIVE: RETIRING while pinned, otherwise OPEN (R163). -/
def Bank.retire (b : Bank) : Bank := { b with state := if 0 < b.pins then .retiring else .opened }

/-- The standby bank that comes in. -/
def Bank.activate (b : Bank) (g : Word32) : Bank := { b with state := .active, generation := g, pins := 0 }

/-- The tables after a switch to bank `b`. -/
def TableStore.switchTo (t : TableStore) (b : BankId) : TableStore :=
  let g := nextGeneration t.generationCounter
  let u := match t.activeBank with
    | some a => t.modBank a Bank.retire
    | none => t
  { u.modBank b fun x => x.activate g with generationCounter := g }

/-- BANK SWITCH at its execution. -/
def Device.bankSwitch (d : Device) : Answer :=
  if d.tables.blocked then .refuse d .loadBlocked
  else
    match d.tables.standby with
    | none => .refuse d .refusedState
    | some b =>
      if (d.tables.bank b).state = .ready then
        let t := d.tables.switchTo b
        .ok ({ d with tables := t }.restamp (d.tables.activeBank.map d.tables.bank) (t.bank b))
          (.generation t.generationCounter)
      else .refuse d .refusedState

/-- BANK_SWITCH. -/
def execBankSwitch (tag : Byte) (s : State) : Host.Outcome State Fault Refusal :=
  .next (s.runCommand 0x11 tag (fun _ => true) Device.bankSwitch)

end Sys2Proof.Machine
end

