-- ==== Sys2Proof/Machine/FixtureCommands.lean ====
section
/-! DEFINITION. The Fixture Interface's commands and input changes (Chapter 10): FIXTURE SET, FIXTURE CLEAR, FIXTURE MAP
WRITE and INPUT_CHANGE_TAKEN. -/

namespace Sys2Proof.Machine

/-! ## FIXTURE SET and FIXTURE CLEAR (R174) -/

/-- The bit of an output in an output set: bit 4n + k (Table 11-4). -/
def inOutputSet (outs : Word16) (n : NestId) (k : Fin 4) : Bool := outs.getLsbD (4 * n.val + k.val)

/-- The outputs of the set that are in SEQUENCER mode. -/
def Device.refusedOutputs (d : Device) (outs : Word16) : Word16 :=
  lineWord fun n k => inOutputSet outs n k && decide ((d.map n).mode[k] = .sequencer)

/-- The line states of all sixteen outputs. -/
def Device.lines (d : Device) : Word16 := lineWord fun n k => d.lineState n k

/-- The manual level of each MANUAL output of the set becomes `level`; SEQUENCER outputs are left unchanged. -/
def FixtureLines.drive (x : FixtureLines) (named : Fin 4 → Bool) (level : Bool) : FixtureLines :=
  { x with manual := Vector.ofFn fun k =>
      if named k && decide (x.map.mode[k] = .manual) then level else x.manual[k] }

/-- The manual levels of all nests after FIXTURE SET or FIXTURE CLEAR. -/
def Device.driveManual (d : Device) (outs : Word16) (level : Bool) : Device :=
  { d with fixture := Vector.ofFn fun n => d.fixture[n].drive (inOutputSet outs n) level }

/-- FIXTURE SET or FIXTURE CLEAR: answered OK with the refused set and the line states after it. -/
def Device.fixtureDrive (outs : Word16) (level : Bool) (d : Device) : Answer :=
  .ok (d.driveManual outs level) (.outputs (d.refusedOutputs outs) (d.driveManual outs level).lines)

/-- FIXTURE_SET. -/
def execFixtureSet (tag : Byte) (outputs : Word16) (s : State) : Host.Outcome State Fault Refusal :=
  .next (s.runCommand 0x17 tag (fun b => decide (outputSetOf b = some outputs)) (Device.fixtureDrive outputs true))

/-- FIXTURE_CLEAR. -/
def execFixtureClear (tag : Byte) (outputs : Word16) (s : State) : Host.Outcome State Fault Refusal :=
  .next (s.runCommand 0x18 tag (fun b => decide (outputSetOf b = some outputs)) (Device.fixtureDrive outputs false))

/-! ## FIXTURE MAP WRITE (R173, R175, R176) -/

/-- The value of a field after the write. -/
def argValue {α : Type} (a : Arg α) (old : α) : α :=
  match a with
  | .given x => x
  | .unchanged | .outside => old

/-- A field is given a value of its list, or is UNCHANGED. -/
def argFits {α : Type} (a : Arg α) : Bool :=
  match a with
  | .outside => false
  | .unchanged | .given _ => true

/-- A field is given a value that differs from the one it holds (R175, check 2). -/
def argDiffers {α : Type} [DecidableEq α] (a : Arg α) (old : α) : Bool := decide (argValue a old ≠ old)

/-- Every given field lies in its range (R175, check 1). -/
def mapFits (f : MapFields) : Bool :=
  f.polarity.toList.all argFits && f.debounce.toList.all (fun x => x.all fun ms => decide (ms ≤ 50))
  && f.detector.toList.all argFits && f.mode.toList.all argFits
  && f.clampTimeout.all (fun t => decide (100 ≤ t) && decide (t ≤ 10000))
  && f.settle.all (fun t => decide (t ≤ 2000))
  && f.releaseTimeout.all fun t => decide (100 ≤ t) && decide (t ≤ 10000)

/-- A MODE or a POLARITY is given a value that differs (R175, check 2). -/
def mapTurns (f : MapFields) (m : FixtureMap) : Bool :=
  (List.finRange 4).any fun k => argDiffers f.polarity[k] m.polarity[k] || argDiffers f.mode[k] m.mode[k]

/-- The map after the write. -/
def FixtureMap.write (m : FixtureMap) (f : MapFields) : FixtureMap where
  polarity := Vector.ofFn fun k => argValue f.polarity[k] m.polarity[k]
  debounce := Vector.ofFn fun k => (f.debounce[k]).getD m.debounce[k]
  detector := Vector.ofFn fun k => argValue f.detector[k] m.detector[k]
  mode := Vector.ofFn fun k => argValue f.mode[k] m.mode[k]
  clampTimeout := f.clampTimeout.getD m.clampTimeout
  settle := f.settle.getD m.settle
  releaseTimeout := f.releaseTimeout.getD m.releaseTimeout

/-- The lines after the write: a changed POLARITY sets the debounce count to 0 (R175; log 43); an output that goes from
SEQUENCER to MANUAL takes its line state as its manual level (R173). -/
def FixtureLines.write (x : FixtureLines) (f : MapFields) (line : Fin 4 → Bool) : FixtureLines :=
  { x with
    map := x.map.write f
    count := Vector.ofFn fun k => if argDiffers f.polarity[k] x.map.polarity[k] then 0 else x.count[k]
    manual := Vector.ofFn fun k =>
      if x.map.mode[k] = .sequencer ∧ argValue f.mode[k] x.map.mode[k] = .manual then line k else x.manual[k] }

/-- The clamp timeout: the unit ends early with cause FIXTURE (R15). -/
def Device.clampTimeout (d : Device) (n : NestId) : Device := d.earlyEnd n .fixture

/-- The release timeout: FIXTURE_FAIL joins the history set and the nest enters FAULT (R22). -/
def Device.releaseTimeout (d : Device) (n : NestId) : Device := (d.addHistory n .fixtureFail).enterFault n

/-- The items a write can make due: an input whose DEBOUNCE it changed, a timeout it changed (R175, R176). -/
def changedItem (f : MapFields) (m : FixtureMap) : DueItem → Bool
  | .input l => decide ((f.debounce[inputIndex l]).getD m.debounce[inputIndex l] ≠ m.debounce[inputIndex l])
  | .clampTimeout => decide (f.clampTimeout.getD m.clampTimeout ≠ m.clampTimeout)
  | .releaseTimeout => decide (f.releaseTimeout.getD m.releaseTimeout ≠ m.releaseTimeout)

/-- An item that is due happens. -/
def Device.takeItem (d : Device) (n : NestId) : DueItem → Device
  | .input l => if d.inputDue n l then d.takeLevel n l else d
  | .clampTimeout => if d.clampExpired n then d.clampTimeout n else d
  | .releaseTimeout => if d.releaseExpired n then d.releaseTimeout n else d

/-- The items a write can make due. -/
def dueItems : List DueItem :=
  [.input .present, .input .clamped, .input .lid, .input .aux, .clampTimeout, .releaseTimeout]

/-- An order of the items, with one more at its end unless it is there. -/
def addItem (acc : List DueItem) (i : DueItem) : List DueItem := if acc.contains i then acc else acc ++ [i]

/-- Every item once: in the order given, then those it leaves out (log 12). -/
def itemOrder (order : List DueItem) : List DueItem := (order ++ dueItems).foldl addItem []

/-- A taken FIXTURE MAP WRITE: the fields are replaced, then what the write makes due happens in its step. Where it
changes both POLARITY and DEBOUNCE of an input, the count is set to 0 first, so that no change of that input is taken in
the step (R175): DESIGN CHOICE, log 43. -/
def Device.mapWrite (d : Device) (n : NestId) (f : MapFields) (order : List DueItem) : Device :=
  let old := d.map n
  let line := fun k => d.lineState n k
  ((itemOrder order).filter (changedItem f old)).foldl (fun e i => Device.takeItem e n i)
    (d.modLines n fun x => x.write f line)

/-- FIXTURE_MAP_WRITE. -/
def execFixtureMapWrite (tag nest : Byte) (fields : MapFields) (order : List DueItem) (s : State) :
    Host.Outcome State Fault Refusal :=
  .next (s.runCommand 0x19 tag (fun _ => true) fun d =>
    match nestOf nest with
    | none => .refuse d .badField
    | some n =>
      if !mapFits fields then .refuse d .badField
      else if (d.nest n).state.testStage && mapTurns fields (d.map n) then .refuse d .refusedState
      else .ok (d.mapWrite n fields order) (.map n ((d.map n).write fields)))

/-! ## INPUT_CHANGE_TAKEN (R168, R169) -/

/-- INPUT_CHANGE_TAKEN: due when the debounce count has reached its limit; no change is taken while the nest link is
LOST. -/
def execInputChangeTaken (nest : NestId) (line : InputLine) (s : State) : Host.Outcome State Fault Refusal :=
  .next (
    if s.dev.nestPort.locked ∧ s.dev.inputDue nest line then { s with dev := s.dev.takeLevel nest line } else s)

end Sys2Proof.Machine
end

