-- ==== Sys2Proof/Machine/Fit.lean ====
section
/-! DEFINITION. The component of samples at a frequency, in exact fractions: waves of a tone, the mixture of waves that
fits a row of values best, and levels of powers against full scale (R35, R38, R39, R63; logs 26, 39). -/

namespace Sys2Proof.Machine

/-! ## Rows of values -/

/-- The inner product of two rows of values. -/
def innerProduct : List ℚ → List ℚ → ℚ
  | a :: v, b :: w => a * b + innerProduct v w
  | _, _ => 0

/-- The sum of the squares of a row of values. -/
def energy (v : List ℚ) : ℚ := innerProduct v v

/-- A row of values less a multiple of another. -/
def lessMultiple (v : List ℚ) (c : ℚ) (w : List ℚ) : List ℚ := List.zipWith (fun a b => a - c * b) v w

/-- A row of values less the multiple of another that fits it best. -/
def stripOne (v w : List ℚ) : List ℚ := lessMultiple v (innerProduct v w / energy w) w

/-- A row of values stripped of several, one after the other. -/
def stripAll (v : List ℚ) (ws : List (List ℚ)) : List ℚ := ws.foldl stripOne v

/-- The same waves, each stripped of those before it. -/
def orthogonalWaves (ws : List (List ℚ)) : List (List ℚ) := ws.foldl (fun os w => os ++ [stripAll w os]) []

/-- What is left of a row of values when the mixture of these waves that fits it best is taken away. -/
def leftOver (v : List ℚ) (ws : List (List ℚ)) : List ℚ := stripAll v (orthogonalWaves ws)

/-- The multiples of two waves whose mixture fits a row of values best. -/
def fitTwo (v s c : List ℚ) : ℚ × ℚ :=
  let o := stripOne c s
  let b := innerProduct v o / energy o
  (innerProduct (lessMultiple v b c) s / energy s, b)

/-- Samples as a row of values. -/
def sampleRow (samples : List Sample) : List ℚ := samples.map fun x => (x.toInt : ℚ)

/-! ## The waves of a tone -/

/-- A frequency, as a number of turns in a number of frames. -/
structure ToneRate where
  turns : Nat
  frames : Nat
deriving DecidableEq, Repr

/-- The sine of a phase in fixed point, with its sign. -/
def signedSine (phase : Nat) : Int :=
  if phase % phaseTurn < phaseTurn / 2 then sineMagnitude phase else -(sineMagnitude phase : Int)

/-- The sine of a tone over a number of frames, from a phase on. -/
def ToneRate.wave (r : ToneRate) (start count : Nat) : List ℚ :=
  (List.range count).map fun j => (signedSine (r.turns * j * phaseTurn / r.frames + start) : ℚ)

/-- The square of the peak of the component of samples at `f` Hz: of the sine, of any phase, that fits them best. -/
def componentPower (f : Nat) (samples : List Sample) : ℚ :=
  let r : ToneRate := ⟨f, 96000⟩
  let p := fitTwo (sampleRow samples) (r.wave 0 samples.length) (r.wave (phaseTurn / 4) samples.length)
  (p.1 ^ 2 + p.2 ^ 2) * (fixedOne : ℚ) ^ 2

/-! ## Levels (R35) -/

/-- The level of a sine with this square of its peak is at or below a limit in 0.1 dB. A peak of 32,767 is at 0.0 dBFS
(R35), so the level is `10 log10 (power / 32767 ^ 2)` dB. -/
def levelAtMost (limit : Int) (power : ℚ) : Bool :=
  decide (power ^ 100 * 10 ^ (-limit).toNat ≤ (32767 ^ 2) ^ 100 * 10 ^ limit.toNat)

/-- The level of a sine with this square of its peak is at or above a limit in 0.1 dB. -/
def levelAtLeast (limit : Int) (power : ℚ) : Bool :=
  decide ((32767 ^ 2) ^ 100 * 10 ^ limit.toNat ≤ power ^ 100 * 10 ^ (-limit).toNat)

end Sys2Proof.Machine
end

