-- ==== Sys2Proof/Machine/Guard.lean ====
section
/-! DEFINITION. The Ambient Guard's measurement (R63): the tones it leaves out of a window's ambient samples, and what is
left of the samples without them (log 39). -/

namespace Sys2Proof.Machine

/-- The number of steps in which the tones of a range `width` Hz wide stand over `count` samples: with B for the range
in multiples of the window's own frequency, 96,000 Hz over `count`, one more than B and a quarter of B and three. With
so many, a tone anywhere in the range leaves less than a millionth of its energy (log 39). -/
def rangeSteps (width count : Nat) : Nat :=
  let b := (width * count + 95999) / 96000
  b + (b + 3) / 4 + 3

/-- The tones that stand for the frequencies from `h * lo` to `h * hi` Hz over `count` samples: one frequency, or tones
equally spaced from one end of the range to the other. -/
def rangeRates (lo hi count h : Nat) : List ToneRate :=
  if lo = hi then [⟨h * lo, 96000⟩]
  else
    let n := rangeSteps (h * (hi - lo)) count
    (List.range (n + 1)).map fun i => ⟨h * (lo * n + (hi - lo) * i), 96000 * n⟩

/-- The tones the guard leaves out: the drive and its harmonics 2 to 5, below the 48,000 Hz that samples carry (R63). -/
def excludedRates (lo hi count : Nat) : List ToneRate :=
  ([1, 2, 3, 4, 5].flatMap (rangeRates lo hi count)).filter fun r => decide (2 * r.turns < r.frames)

/-- Both waves of every tone left out, a quarter turn apart, so that a mixture has every amplitude and phase. -/
def excludedWaves (lo hi count : Nat) : List (List ℚ) :=
  (excludedRates lo hi count).flatMap fun r => [r.wave 0 count, r.wave (phaseTurn / 4) count]

/-- The lowest and highest frequency driven within window `k` of a PILOT, STEP or CHIRP segment, in Hz (R46, R63): one
frequency, or those at the two ends of a sub-window's drive span, rounded to 1 Hz (log 39). -/
def driveRange (h : PlanHeader) (s : Segment) (k : Nat) : Nat × Nat :=
  match s.kind with
  | .chirp =>
    let (start, length) := subWindowTimes s k
    let a := chirpFrequency s.startFrequency s.endFrequency start (s.duration - s.settle)
    let b := chirpFrequency s.startFrequency s.endFrequency (start + length) (s.duration - s.settle)
    (min a b, max a b)
  | .pilot | .step | .silence => (windowFrequency h s k, windowFrequency h s k)

/-- The sum of squares of samples without the frequencies from `lo` to `hi` Hz and their harmonics 2 to 5, down to a
whole number. -/
def excludedSquares (lo hi : Nat) (samples : List Sample) : Nat :=
  (energy (leftOver (sampleRow samples) (excludedWaves lo hi samples.length))).floor.toNat

end Sys2Proof.Machine
end

