-- ==== Sys2Proof/Machine/Stages.lean ====
section
/-! DEFINITION. The timed events of a unit, stage by stage: settle, clamp and release timeouts, level lock, quiet check,
sweep, judging, marking; and the coalescing timer (Chapters 1 to 5, 7, 8 and 12). A row for an event that is not due
changes nothing (log 2); until a due one has happened the next frame period waits (log 4). -/

namespace Sys2Proof.Machine

/-! ## Clamping and releasing (R14, R15, R22) -/

/-- SETTLE_END (R14). -/
def execSettleEnd (nest : NestId) (s : State) : Host.Outcome State Fault Refusal :=
  .next (
    if (s.dev.nest nest).settleOver then
      { s with dev := (s.dev.modNest nest fun x => { x with settling := none }).enterLevelLock nest }
    else s)

/-- CLAMP_TIMEOUT (R15). -/
def execClampTimeout (nest : NestId) (s : State) : Host.Outcome State Fault Refusal :=
  .next (if s.dev.clampExpired nest then { s with dev := s.dev.clampTimeout nest } else s)

/-- RELEASE_TIMEOUT (R22). -/
def execReleaseTimeout (nest : NestId) (s : State) : Host.Outcome State Fault Refusal :=
  .next (if s.dev.releaseExpired nest then { s with dev := s.dev.releaseTimeout nest } else s)

/-! ## Toward JUDGING (R16) -/

/-- Enter JUDGING: the drive goes silent, the evaluation begins, and the nest leaves its arbiter (R16, R34, R57, R84).
-/
def Device.enterJudging (d : Device) (n : NestId) : Device :=
  ((d.silence n).modNest n fun x => { x with state := .judging, judgeTimer := 0 }).leaveArbiter n

/-- A stage ends toward JUDGING with a failure class and a history event (Table 1-5). -/
def Device.failStage (d : Device) (n : NestId) (c : FailureClass) (e : HistoryEvent) : Device :=
  ((d.addFailureTo n c).addHistory n e).enterJudging n

/-! ## The level lock (R38 to R40) -/

/-- The interval is in tolerance (R38): the sense level of the interval's samples lies no farther than the tolerance
from the target. -/
def withinTolerance (h : PlanHeader) (sense : ℚ) : Bool :=
  levelAtLeast (h.senseTarget - h.lockTolerance) sense && levelAtMost (h.senseTarget + h.lockTolerance) sense

/-- The move of the gain by the difference of target and sense level, in 0.1 dB: truncated toward zero and bounded to
6.0 dB either way (R38). -/
def gainMove (target : Int) (sense : ℚ) : Int :=
  if levelAtMost target sense then min 60 (largestWith (fun m => levelAtMost (target - m) sense) 6 0 : Nat)
  else -min 60 (largestWith (fun m => levelAtLeast (target + m) sense) 6 0 : Nat)

/-- The gain after an interval out of tolerance, bounded to −40.0 to +12.0 dB (R38). -/
def movedGain (gain move : Int) : Int := max (-400) (min 120 (gain + move))

/-- The no-signal test passes (R39): the pilot response, the level of the pilot's component less the applied level, is
at or above the floor. In loopback it passes for every floor. -/
def pilotPresent (h : PlanHeader) (gain : Int) (pilot : ℚ) (loopback : Bool) : Bool :=
  loopback || levelAtLeast (h.noSignalFloor + appliedLevel h.pilotLevel gain) pilot

/-- Enter QUIET_CHECK (R61): the lock pilot's drive leaves the arbiter, the attempt count is cleared, and a quiet start
is presented. -/
def Device.enterQuietCheck (d : Device) (n : NestId) : Device :=
  ((((d.silence n).leaveArbiter n).modRecord n fun r => { r with quietAttempts := 0 }).setState n
    .quietCheck).presentStart n

/-- Lock is reached: the gain is written, LOCKED joins the history set, and the no-signal test decides, from the
microphone samples of the interval (R39). -/
def Device.lockReached (d : Device) (n : NestId) (h : PlanHeader) : Device :=
  let t := (d.nest n).tone
  let e := (d.modRecord n fun r => { r with lockedGain := some t.gain }).addHistory n .locked
  if pilotPresent h t.gain (componentPower h.pilotFrequency t.pilot) (d.nest n).loopback then e.enterQuietCheck n
  else e.failStage n .noSignal .levelFail

/-- The generator after an interval that does not give lock (R38): the next one begins without samples. -/
def ToneGenerator.afterInterval (t : ToneGenerator) (h : PlanHeader) (sense : ℚ) : ToneGenerator :=
  if withinTolerance h sense then
    { t with inTolerance := t.inTolerance + 1, intervals := t.intervals + 1, sense := [], pilot := [] }
  else
    { t with
      inTolerance := 0, intervals := t.intervals + 1, sense := [], pilot := []
      gain := movedGain t.gain (gainMove h.senseTarget sense) }

/-- The end of a lock interval (R38, R39): the sense level is that of the PILOT FREQUENCY component of the interval's
drive-sense samples (log 26). -/
def Device.lockInterval (d : Device) (n : NestId) (h : PlanHeader) : Device :=
  let t := (d.nest n).tone
  let sense := componentPower h.pilotFrequency t.sense
  if withinTolerance h sense && decide (2 ≤ t.inTolerance) then d.lockReached n h
  else d.modNest n fun x => { x with tone := t.afterInterval h sense }

/-- The unit's try and the interval in progress, counted from 0, that a row names (log 2). -/
def Nest.inInterval (x : Nest) (tryNumber interval : Nat) : Bool :=
  x.record.any (fun r => decide (r.tries = tryNumber)) && decide (x.tone.intervals = interval)

/-- LOCK_INTERVAL_END, of the interval of the try that the row names (log 2): due at the end of an interval that ends no
later than the timeout (R38, R40). -/
def execLockIntervalEnd (nest : NestId) (tryNumber interval : Nat) (s : State) : Host.Outcome State Fault Refusal :=
  .next (
    match s.dev.locking nest with
    | none => s
    | some (h, dwell) =>
      if (s.dev.nest nest).inInterval tryNumber interval ∧ (s.dev.nest nest).tone.intervalDue (lockLimit h dwell) then
        { s with dev := s.dev.lockInterval nest h }
      else s)

/-- LOCK_TIMEOUT: due when the lock timer has reached its limit and the interval in progress ends beyond it (R40). -/
def execLockTimeout (nest : NestId) (s : State) : Host.Outcome State Fault Refusal :=
  .next (
    match s.dev.locking nest with
    | none => s
    | some (h, dwell) =>
      if (s.dev.nest nest).tone.timeoutDue (lockLimit h dwell) then
        { s with dev := s.dev.failStage nest .levelLock .levelFail }
      else s)

/-! ## The quiet check (R61, R62) -/

/-- Enter SWEEPING: the segment at the cursor is presented (R42, R62). -/
def Device.enterSweeping (d : Device) (n : NestId) : Device := (d.setState n .sweeping).presentStart n

/-- The RMS level of a number of samples with this sum of squares is at or below a limit in 0.1 dB (R61, R62). A sine of
peak 32,767 is at 0.0 dBFS (R35), so the level is `10 log10 (2 squares / (count * 32767 ^ 2))` dB (log 34). -/
def levelWithin (limit : Int) (count squares : Nat) : Bool :=
  decide ((2 * squares) ^ 100 * 10 ^ (-limit).toNat ≤ (count * 32767 ^ 2) ^ 100)

/-- The quiet level of the samples taken in the window is at or below the plan's QUIET LIMIT; in loopback it lies below
every limit of the range (R61). -/
def Nest.isQuiet (x : Nest) (h : PlanHeader) : Bool := x.loopback || levelWithin h.quietLimit x.quietCount x.quietSquares

/-- The quiet check window closes: quiet, retry or exhausted (R62). -/
def Device.quietClose (d : Device) (n : NestId) (r : UnitRecord) : Device :=
  let h := (d.planOf r).header
  if (d.nest n).isQuiet h then ((d.addHistory n .quiet).leaveArbiter n).enterSweeping n
  else if r.quietAttempts < h.quietRetries then
    ((d.leaveArbiter n).modRecord n fun r => { r with quietAttempts := r.quietAttempts + 1, sub := .retryWait }).modNest
      n fun x => { x with stageTimer := 0 }
  else d.failStage n .noise .noiseFail

/-- QUIET_WINDOW_CLOSE: the window of this attempt, counted from 0 by the quiet attempt count (R61; log 2). -/
def execQuietWindowClose (nest : NestId) (attempt : Nat) (s : State) : Host.Outcome State Fault Refusal :=
  .next (
    match s.dev.quietUnit nest .measuring with
    | none => s
    | some r =>
      if r.quietAttempts = attempt ∧ (s.dev.nest nest).quietWindowOver r then { s with dev := s.dev.quietClose nest r }
      else s)

/-- QUIET_RETRY_WAIT_END: a new quiet start is presented (R62). -/
def execQuietRetryWaitEnd (nest : NestId) (s : State) : Host.Outcome State Fault Refusal :=
  .next (
    match s.dev.quietUnit nest .retryWait with
    | none => s
    | some _ =>
      if (s.dev.nest nest).retryWaitOver then { s with dev := s.dev.presentStart nest } else s)

/-! ## Analysis windows (R63 to R66, R74) -/

/-- The open window is done with: the engine keeps nothing of it (R68). -/
def Nest.closeWindow (x : Nest) : Nest := { x with engine := { window := none, closed := x.engine.closed + 1 } }

/-- The group's ambient samples that the open window has taken, in arrival order. -/
def Nest.ambientSamples (x : Nest) : List Sample := (x.engine.window.map OpenWindow.ambient).getD []

/-- The ambient level of the window of segment `s` that closes (R63): that of the ambient samples it holds, nothing
excluded from a SILENCE window, and from any other the drive and its harmonics 2 to 5 (log 39). -/
def Nest.ambientLevel (x : Nest) (h : PlanHeader) (s : Segment) : AmbientLevel where
  count := x.ambientSamples.length
  squares :=
    match s.kind with
    | .silence => (x.engine.window.map OpenWindow.ambientSquares).getD 0
    | .pilot | .step | .chirp =>
      let range := driveRange h s x.engine.closed
      excludedSquares range.1 range.2 x.ambientSamples

/-- An ambient level is above a limit in 0.1 dB (R63). -/
def AmbientLevel.exceeds (a : AmbientLevel) (limit : Int) : Bool := !levelWithin limit a.count a.squares

/-- The Ambient Guard finds the window that closes void (R63); it does not watch a nest in loopback. -/
def Device.windowIsVoid (d : Device) (n : NestId) (r : UnitRecord) : Bool :=
  !(d.nest n).loopback
  && ((d.nest n).ambientLevel (d.planOf r).header (d.segmentOf r)).exceeds (d.planOf r).header.ambientLimit

/-- What the guard of the nest's group last found (log 25); a nest in loopback is not watched. -/
def Device.guardWindow (d : Device) (n : NestId) (level : AmbientLevel) (isVoid : Bool) : Device :=
  if (d.nest n).loopback then d
  else d.modGroup (d.groupOf n) fun g => { g with ambientLevel := some level, windowVoid := isVoid }

/-- The segment restarts from phase 0 with its timer at zero (R48, R64). -/
def Nest.restartSegment (x : Nest) : Nest :=
  { x with tone := { x.tone with phase := 0, timer := 0 }, engine := { window := none, closed := 0 } }

/-- A void window: the resweep count rises, and the segment restarts or the sweep ends with NOISE (R64, R65). -/
def Device.voidWindow (d : Device) (n : NestId) (r : UnitRecord) : Device :=
  let e := d.modRecord n fun r => { r with resweeps := r.resweeps + 1 }
  if r.resweeps + 1 ≤ (d.planOf r).header.resweeps then (e.addHistory n .reswept).modNest n Nest.restartSegment
  else e.failStage n .noise .noiseFail

/-- The samples of the open window, in arrival order. -/
def Nest.windowSamples (x : Nest) : List Sample := (x.engine.window.map OpenWindow.samples).getD []

/-- What the samples of the window that closes carry (section 4.2, R79). -/
def Nest.windowSignal (x : Nest) : WindowSignal :=
  if x.loopback then .drive else if x.windowSamples.all fun v => decide (v = 0) then .none else .sound

/-- An accepted window is folded and gives its polarity result (R74 step 4). -/
def Device.acceptedRecord (d : Device) (n : NestId) (r : UnitRecord) (m : Measures) : UnitRecord :=
  let p := d.planOf r
  let s := d.segmentOf r
  (r.foldWindow p s (d.nest n).engine.closed (d.nest n).windowSignal m).takePolarity p s (d.nest n).windowSignal m

/-- The segment's windows are captured (R141). -/
def Device.captures (d : Device) (r : UnitRecord) : Bool :=
  (d.segmentOf r).capture && decide ((d.planOf r).header.capturePolicy ≠ .none)

/-- The block claim of an accepted window (R141 to R143). -/
def State.claimBlocks (s : State) (n : NestId) (r : UnitRecord) : Recording :=
  recordWindow (s.dev.planOf r).header.captureBlockLimit
    { chain := r.chain, pool := s.dev.pool, samples := s.samples, low := false } (s.dev.nest n).windowSamples

/-- An accepted window (R74): folded, polarity taken, and captured where the segment asks for it. -/
def State.acceptWindow (s : State) (n : NestId) (r : UnitRecord) (m : Measures) : State :=
  let folded := s.dev.acceptedRecord n r m
  if s.dev.captures r then
    let c := s.claimBlocks n r
    let d := { s.dev with pool := c.pool }.modRecord n fun _ => { folded with chain := c.chain }
    let e := d.modNest n Nest.closeWindow
    { s with samples := c.samples, dev := if c.low then e.raise captureLowSource else e }
  else
    { s with dev := (s.dev.modRecord n fun _ => folded).modNest n Nest.closeWindow }

/-- The closing of a window (R69, R74). -/
def State.closeWindow (s : State) (n : NestId) (r : UnitRecord) (m : Measures) : State :=
  if (s.dev.nextSpan n r).isEmpty then
    { s with dev := (s.dev.modRecord n UnitRecord.countUnmapped).modNest n Nest.closeWindow }
  else
    let level := (s.dev.nest n).ambientLevel (s.dev.planOf r).header (s.dev.segmentOf r)
    if s.dev.windowIsVoid n r then
      { s with dev := (((s.dev.guardWindow n level true).modNest n Nest.closeWindow).voidWindow n r) }
    else { s with dev := s.dev.guardWindow n level false }.acceptWindow n r m

/-- WINDOW_CLOSE. -/
def execWindowClose (nest : NestId) (measures : Measures) (s : State) : Host.Outcome State Fault Refusal :=
  .next (
    match s.dev.sweepingUnit nest with
    | none => s
    | some r => if s.dev.windowDue nest r then s.closeWindow nest r measures else s)

/-! ## Segment end (R48, R57) -/

/-- The segment ends: the handover of R57, then the next segment is presented, or the sweep ends (R48, R64). -/
def Device.endSegment (d : Device) (n : NestId) (r : UnitRecord) : Device :=
  if r.cursor.val + 1 < (d.planOf r).header.segmentCount then
    (((d.silence n).leaveArbiter n).modRecord n fun r =>
      { r with cursor := r.cursor + 1, resweeps := 0 }).presentStart n
  else (d.addHistory n .swept).enterJudging n

/-- SEGMENT_END. -/
def execSegmentEnd (nest : NestId) (s : State) : Host.Outcome State Fault Refusal :=
  .next (
    match s.dev.sweepingUnit nest with
    | none => s
    | some r => if s.dev.segmentOver nest r then { s with dev := s.dev.endSegment nest r } else s)

/-! ## Judging (R17, R18, R84 to R93, R128 to R131) -/

/-- The record of a unit at a retest (R18). -/
def UnitRecord.retested (r : UnitRecord) (h : PlanHeader) : UnitRecord :=
  { r with
    accumulators := Vector.replicate 32 .initial
    unmapped := 0
    failures := 0
    worst := none
    chain := .empty
    cursor := 0
    resweeps := 0
    tries := r.tries + 1
    dwell := h.dwellFactor }

/-- A retest (R18): the chain is freed, RETESTS counted, RETESTED added, and the nest returns to LEVEL_LOCK. -/
def Device.retest (d : Device) (n : NestId) (r : UnitRecord) : Device :=
  ((((d.freeChain r.chain).count n fun c => { c with retests := c.retests + 1 }).addHistory n .retested).modRecord n
    fun _ => r.retested (d.planOf r).header).enterLevelLock n

/-- A retest is taken (R17). -/
def takesRetest (e : VerdictEntry) (r : UnitRecord) (h : PlanHeader) : Bool :=
  e.retest && decide (r.tries - 1 < h.retestLimit)

/-- The result of a PRODUCTION or ENGINEERING unit with the selected entry (R17, R93). -/
def Device.actOnEntry (d : Device) (n : NestId) (r : UnitRecord) (i : Fin 16) (e : VerdictEntry) : Device :=
  if takesRetest e r (d.planOf r).header then d.retest n r
  else (d.modRecord n fun _ => r).finalVerdict n (verdictOfEntry i e) false

/-- The record with the Judge's results for a PRODUCTION or ENGINEERING unit (R84 to R89). -/
def Device.judgedRecord (d : Device) (r : UnitRecord) : UnitRecord :=
  { r with failures := judgedFailures (d.planOf r) r, worst := worstBand (d.planOf r) r }

/-- The record with the Judge's results for a GOLDEN unit (R90). -/
def Device.goldenRecord (d : Device) (r : UnitRecord) : UnitRecord :=
  { r with failures := addUnmeasured (d.planOf r) r r.failures }

/-- A golden result is stale (R130). -/
def Device.isStale (d : Device) (n : NestId) (r : UnitRecord) : Bool :=
  decide (r.generation ≠ (d.calibration.record n r.plan).stamp)

/-- A golden result is applied unless it is stale, and becomes the unit's verdict (R128 to R131). -/
def Device.goldenComplete (d : Device) (n : NestId) (r : UnitRecord) : Device :=
  let cls := goldenClass (d.planOf r) r r.failures
  let e := if d.isStale n r then d
    else d.replaceCal n r.plan (applyGolden (d.calibration.record n r.plan) (d.planOf r) r cls) .golden
  (e.modRecord n fun _ => r).finalVerdict n (goldenVerdict cls) (d.isStale n r)

/-- JUDGE_COMPLETE: within 96 frames of the begin, in a step the manual leaves open (R84; log 4). A committed bank
always has a matching entry (R92); without one nothing is stated, and the machine stops (log 20). -/
def execJudgeComplete (nest : NestId) (s : State) : Host.Outcome State Fault Refusal :=
  match (s.dev.nest nest).state, (s.dev.nest nest).record with
  | .judging, some r =>
    let d := s.dev.addHistory nest .judged
    match r.role with
    | .golden => .next { s with dev := d.goldenComplete nest (d.goldenRecord r) }
    | .production | .engineering =>
      let rows := (d.tables.bank r.bank).rows
      match selectEntry rows (d.judgedRecord r).failures with
      | none => .fault .noMatchingVerdict
      | some i => .next { s with dev := d.actOnEntry nest (d.judgedRecord r) i rows.verdicts[i] }
  | _, _ => .next s

/-! ## Marking and coalescing (R21, R108, R192) -/

/-- MARK_PULSE_END. -/
def execMarkPulseEnd (nest : NestId) (s : State) : Host.Outcome State Fault Refusal :=
  .next (if (s.dev.nest nest).markOver then { s with dev := s.dev.endMarking nest } else s)

/-- COALESCING_TIMER_EXPIRY: the timer has run out and the LABELS flag is set (R192; log 29). -/
def execCoalescingTimerExpiry (s : State) : Host.Outcome State Fault Refusal :=
  .next (
    if s.dev.notices.timerOver then
      { s with dev := { s.dev with notices := { s.dev.notices with timer := none } }.raise labelsSource }
    else s)

end Sys2Proof.Machine
end

