-- ==== Sys2Proof/Machine/Dispatch.lean ====
section
/-! DEFINITION. The one place where a row of the table meets its meaning. -/

namespace Sys2Proof.Machine

def exec (i : Instr) (s : State) : Host.Outcome State Fault Refusal :=
  match i with
  | .powerOnReset => Sys2Proof.Machine.execPowerOnReset s
  | .nestLinkFrame frame => Sys2Proof.Machine.execNestLinkFrame frame s
  | .nestLinkLocked => Sys2Proof.Machine.execNestLinkLocked s
  | .nestLinkLoss order => Sys2Proof.Machine.execNestLinkLoss order s
  | .controllerLinkFrame frame => Sys2Proof.Machine.execControllerLinkFrame frame s
  | .controllerLinkLocked => Sys2Proof.Machine.execControllerLinkLocked s
  | .controllerLinkHoldover => Sys2Proof.Machine.execControllerLinkHoldover s
  | .messageReceived => Sys2Proof.Machine.execMessageReceived s
  | .messageChoice => Sys2Proof.Machine.execMessageChoice s
  | .messageSent => Sys2Proof.Machine.execMessageSent s
  | .unknownType tag type => Sys2Proof.Machine.execUnknownType tag type s
  | .statusRead tag historyClear => Sys2Proof.Machine.execStatusRead tag historyClear s
  | .versionRead tag => Sys2Proof.Machine.execVersionRead tag s
  | .nestStart tag fields => Sys2Proof.Machine.execNestStart tag fields s
  | .nestAbort tag nest => Sys2Proof.Machine.execNestAbort tag nest s
  | .nestGate tag nest gate auto => Sys2Proof.Machine.execNestGate tag nest gate auto s
  | .unitRead tag nest clear page => Sys2Proof.Machine.execUnitRead tag nest clear page s
  | .loopback tag nest on => Sys2Proof.Machine.execLoopback tag nest on s
  | .passThrough tag nest source => Sys2Proof.Machine.execPassThrough tag nest source s
  | .monitorSelect tag first second => Sys2Proof.Machine.execMonitorSelect tag first second s
  | .ringRead tag start count => Sys2Proof.Machine.execRingRead tag start count s
  | .ringReturn tag index => Sys2Proof.Machine.execRingReturn tag index s
  | .captureFetch tag label block chunk => Sys2Proof.Machine.execCaptureFetch tag label block chunk s
  | .captureRelease tag label => Sys2Proof.Machine.execCaptureRelease tag label s
  | .tableWrite tag kind plan row codes => Sys2Proof.Machine.execTableWrite tag kind plan row codes s
  | .tableCommit tag body => Sys2Proof.Machine.execTableCommit tag body s
  | .bankCopy tag => Sys2Proof.Machine.execBankCopy tag s
  | .bankSwitch tag => Sys2Proof.Machine.execBankSwitch tag s
  | .loadStatusClear tag => Sys2Proof.Machine.execLoadStatusClear tag s
  | .counterSnapshot tag flagIsNo => Sys2Proof.Machine.execCounterSnapshot tag flagIsNo s
  | .counterSnapshotClear tag => Sys2Proof.Machine.execCounterSnapshotClear tag s
  | .counterRead tag nest page => Sys2Proof.Machine.execCounterRead tag nest page s
  | .correctionRead tag nest plan => Sys2Proof.Machine.execCorrectionRead tag nest plan s
  | .correctionClear tag nest plan => Sys2Proof.Machine.execCorrectionClear tag nest plan s
  | .fixtureSet tag outputs => Sys2Proof.Machine.execFixtureSet tag outputs s
  | .fixtureClear tag outputs => Sys2Proof.Machine.execFixtureClear tag outputs s
  | .fixtureMapWrite tag nest fields order => Sys2Proof.Machine.execFixtureMapWrite tag nest fields order s
  | .groupMapWrite tag groups thresholds => Sys2Proof.Machine.execGroupMapWrite tag groups thresholds s
  | .driftSettingsWrite tag nests length limit => Sys2Proof.Machine.execDriftSettingsWrite tag nests length limit s
  | .noticeConfig tag priorities count time threshold => Sys2Proof.Machine.execNoticeConfig tag priorities count time threshold s
  | .linkReset tag confirm order => Sys2Proof.Machine.execLinkReset tag confirm order s
  | .inputChangeTaken nest line => Sys2Proof.Machine.execInputChangeTaken nest line s
  | .settleEnd nest => Sys2Proof.Machine.execSettleEnd nest s
  | .clampTimeout nest => Sys2Proof.Machine.execClampTimeout nest s
  | .releaseTimeout nest => Sys2Proof.Machine.execReleaseTimeout nest s
  | .lockIntervalEnd nest tryNumber interval => Sys2Proof.Machine.execLockIntervalEnd nest tryNumber interval s
  | .lockTimeout nest => Sys2Proof.Machine.execLockTimeout nest s
  | .quietWindowClose nest attempt => Sys2Proof.Machine.execQuietWindowClose nest attempt s
  | .quietRetryWaitEnd nest => Sys2Proof.Machine.execQuietRetryWaitEnd nest s
  | .windowClose nest measures => Sys2Proof.Machine.execWindowClose nest measures s
  | .segmentEnd nest => Sys2Proof.Machine.execSegmentEnd nest s
  | .judgeComplete nest => Sys2Proof.Machine.execJudgeComplete nest s
  | .markPulseEnd nest => Sys2Proof.Machine.execMarkPulseEnd nest s
  | .bankCopyComplete => Sys2Proof.Machine.execBankCopyComplete s
  | .verificationComplete => Sys2Proof.Machine.execVerificationComplete s
  | .coalescingTimerExpiry => Sys2Proof.Machine.execCoalescingTimerExpiry s
  | .autoStartAfterReset => Sys2Proof.Machine.execAutoStartAfterReset s

end Sys2Proof.Machine
end

