-- ==== Sys2Proof/Safety.lean ====
section
/-! DEFINITION. The words in which claims about the block are stated: queued commands and their answers, a nest as
seen from outside, and the invariants that every step keeps. -/

namespace Sys2Proof.Machine

/-! ## Commands and answers -/

/-- A command with this type, tag and body stands at the head of the Command Queue. -/
def State.Heads (s : State) (type tag : Byte) (body : List Byte) : Prop :=
  s.mgmt.queue.head? = some { type := type, tag := tag, body := body }

/-- `s` after its head command has been removed and answered, with the blocks at `d`: nothing else of the Management
Interface, and no sample, changes. -/
def State.repliedWith (s : State) (type tag : Byte) (status : Status) (data : ReplyData) (d : Device) : State :=
  { s with
    mgmt := { s.mgmt with
      queue := s.mgmt.queue.tail
      replies := s.mgmt.replies ++ [{ tag := tag, type := type, status := status, data := data }] }
    dev := d }

/-- `s` after its head command has been removed and its reply held, with the blocks at `d`. -/
def State.heldWith (s : State) (type tag : Byte) (d : Device) : State :=
  { s with mgmt := { s.mgmt with queue := s.mgmt.queue.tail, held := some (tag, type) }, dev := d }

/-! ## Nests -/

/-- Two states of the part agree on every nest but `n`. -/
def SameOtherNests (d e : Device) (n : NestId) : Prop := ∀ m, m ≠ n → e.nest m = d.nest m

/-- Nothing of a nest has changed but what a start of its own that begins, or waits no more, changes: its generator, its
engine, the timer and sums of its quiet check, and the sub-state of its unit (R55, R58). -/
def SameButStart (x y : Nest) : Prop :=
  y = { x with record := y.record, tone := y.tone, engine := y.engine, stageTimer := y.stageTimer,
               quietCount := y.quietCount, quietSquares := y.quietSquares }
  ∧ y.record.map (fun r => { r with sub := .none }) = x.record.map fun r => { r with sub := .none }

/-- Where a nest comes to stand when it enters RELEASING (R22, R3). -/
def Device.afterRelease (d : Device) (n : NestId) : NestState :=
  if d.taken n .clamped then .releasing else if d.taken n .present then .done else .empty

/-- Where a unit's end takes a nest: LOADED in loopback, otherwise by way of RELEASING (R29). -/
def Device.afterUnit (d : Device) (n : NestId) : NestState :=
  if (d.nest n).loopback then .loaded else d.afterRelease n

/-! ## Command rows (Table 11-1) -/

/-- The type and tag of the message that a command row carries out; none for the other rows. -/
def rowCommand : Instr → Option (Byte × Byte)
  | .statusRead t _ => some (0x01, t) | .versionRead t => some (0x02, t) | .nestStart t _ => some (0x03, t)
  | .nestAbort t _ => some (0x04, t) | .nestGate t _ _ _ => some (0x05, t) | .unitRead t _ _ _ => some (0x06, t)
  | .loopback t _ _ => some (0x07, t) | .passThrough t _ _ => some (0x08, t) | .monitorSelect t _ _ => some (0x09, t)
  | .ringRead t _ _ => some (0x0A, t) | .ringReturn t _ => some (0x0B, t) | .captureFetch t _ _ _ => some (0x0C, t)
  | .captureRelease t _ => some (0x0D, t) | .tableWrite t _ _ _ _ => some (0x0E, t) | .tableCommit t _ => some (0x0F, t)
  | .bankCopy t => some (0x10, t) | .bankSwitch t => some (0x11, t) | .loadStatusClear t => some (0x12, t)
  | .counterSnapshot t _ => some (0x13, t) | .counterSnapshotClear t => some (0x13, t)
  | .counterRead t _ _ => some (0x14, t) | .correctionRead t _ _ => some (0x15, t)
  | .correctionClear t _ _ => some (0x16, t) | .fixtureSet t _ => some (0x17, t) | .fixtureClear t _ => some (0x18, t)
  | .fixtureMapWrite t _ _ _ => some (0x19, t) | .groupMapWrite t _ _ => some (0x1A, t)
  | .driftSettingsWrite t _ _ _ => some (0x1B, t) | .noticeConfig t _ _ _ _ => some (0x1C, t)
  | .linkReset t _ _ => some (0x1D, t)
  | .powerOnReset | .nestLinkFrame _ | .nestLinkLocked | .nestLinkLoss _ | .controllerLinkFrame _
  | .controllerLinkLocked | .controllerLinkHoldover | .messageReceived | .messageChoice | .messageSent
  | .unknownType _ _ | .inputChangeTaken _ _ | .settleEnd _ | .clampTimeout _ | .releaseTimeout _
  | .lockIntervalEnd _ _ _ | .lockTimeout _ | .quietWindowClose _ _ | .quietRetryWaitEnd _ | .windowClose _ _
  | .segmentEnd _ | .judgeComplete _ | .markPulseEnd _ | .bankCopyComplete | .verificationComplete
  | .coalescingTimerExpiry | .autoStartAfterReset => none

/-! ## Table rows within their ranges (Tables 2-1, 2-2, 4-3, 5-1) -/

/-- A value lies in a range and on its steps, counted from the bottom. -/
def OnSteps (bottom step top v : Int) : Prop := bottom ≤ v ∧ v ≤ top ∧ (v - bottom) % step = 0

/-- Table 2-1. -/
def PlanHeader.InRange (h : PlanHeader) : Prop :=
  (1 ≤ h.segmentCount ∧ h.segmentCount ≤ 24) ∧ (1 ≤ h.bandCount ∧ h.bandCount ≤ 32)
  ∧ (10 ≤ h.pilotFrequency ∧ h.pilotFrequency ≤ 24000) ∧ OnSteps (-600) 5 0 h.pilotLevel
  ∧ OnSteps (-600) 5 0 h.senseTarget ∧ OnSteps 1 1 30 h.lockTolerance ∧ (50 ≤ h.lockTimeout ∧ h.lockTimeout ≤ 2000)
  ∧ OnSteps (-600) 5 0 h.noSignalFloor ∧ h.acousticDelay ≤ 480 ∧ OnSteps (-900) 5 0 h.quietLimit
  ∧ h.quietRetries ≤ 7 ∧ OnSteps (-900) 5 0 h.ambientLimit ∧ h.resweeps ≤ 3 ∧ h.retestLimit ≤ 3
  ∧ (1 ≤ h.dwellFactor ∧ h.dwellFactor ≤ 4) ∧ (1 ≤ h.captureBlockLimit ∧ h.captureBlockLimit ≤ 32)
  ∧ OnSteps 1 1 120 h.adjustLimit

/-- Table 2-2. -/
def Segment.InRange (x : Segment) : Prop :=
  (10 ≤ x.startFrequency ∧ x.startFrequency ≤ 24000) ∧ (10 ≤ x.endFrequency ∧ x.endFrequency ≤ 24000)
  ∧ OnSteps (-600) 5 0 x.level ∧ (2 ≤ x.duration ∧ x.duration ≤ 2000) ∧ x.settle ≤ 200 ∧ x.settle < x.duration

/-- Table 4-3 and R81. -/
def Band.InRange (b : Band) : Prop :=
  (10 ≤ b.lower ∧ b.lower ≤ 24000) ∧ (11 ≤ b.upper ∧ b.upper ≤ 24001) ∧ b.lower < b.upper
  ∧ OnSteps (-1000) 1 400 b.responseLower ∧ OnSteps (-1000) 1 400 b.responseUpper
  ∧ b.responseLower ≤ b.responseUpper ∧ (1 ≤ b.distortionLimit ∧ b.distortionLimit ≤ 10000)
  ∧ OnSteps (-1200) 1 400 b.buzzLimit ∧ OnSteps 0 1 600 b.crestLimit ∧ OnSteps 0 1 60 b.guardMargin

/-- Table 5-1 and R91. -/
def VerdictEntry.InRange (v : VerdictEntry) : Prop :=
  v.require.toNat ≤ 0x1FFF ∧ v.exclude.toNat ≤ 0x1FFF ∧ v.require &&& v.exclude = 0 ∧ v.actions.toNat ≤ 7
  ∧ 10 ≤ v.markPulse ∧ v.markPulse ≤ 2000

/-! ## Windows and bands (R72, R83, R85) -/

/-- The frequency `f0 * (f1 / f0) ^ (p / q)` lies within half a hertz of `f`, the half below counted in. -/
def RoundsTo (f0 f1 p q f : Nat) : Prop :=
  (2 * f - 1) ^ q ≤ 2 ^ q * (f0 ^ (q - p) * f1 ^ p) ∧ 2 ^ q * (f0 ^ (q - p) * f1 ^ p) < (2 * f + 1) ^ q

/-- `e` is `a` after a driven window with these held values is folded (R83, Table 4-4); `residue` holds its buzz ratio
and crest, or nothing where its residue is empty. -/
def Folded (a e : Accumulator) (response uncorrected : Int) (distortion : Nat) (residue : Option (Int × Int)) : Prop :=
  e.minResponse = some (min response (a.minResponse.getD response))
  ∧ e.maxResponse = some (max response (a.maxResponse.getD response))
  ∧ e.maxDistortion = some (max distortion (a.maxDistortion.getD distortion))
  ∧ (residue = none → e.maxBuzz = a.maxBuzz ∧ e.maxCrest = a.maxCrest)
  ∧ (∀ buzz crest, residue = some (buzz, crest) →
      e.maxBuzz = some (max buzz (a.maxBuzz.getD buzz)) ∧ e.maxCrest = some (max crest (a.maxCrest.getD crest)))
  ∧ (a.windowCount < 65535 →
      e.windowCount = a.windowCount + 1 ∧ e.uncorrectedSum = a.uncorrectedSum + uncorrected)
  ∧ (65535 ≤ a.windowCount → e.windowCount = a.windowCount ∧ e.uncorrectedSum = a.uncorrectedSum)

/-- A row of values less a mixture of waves, one coefficient for each wave. -/
def lessMixture (v cs : List ℚ) (ws : List (List ℚ)) : List ℚ :=
  (cs.zip ws).foldl (fun u p => lessMultiple u p.1 p.2) v

/-- The least energy that taking a mixture of these waves away leaves of a row of values. -/
def LeastLeft (v : List ℚ) (ws : List (List ℚ)) (e : ℚ) : Prop :=
  IsLeast {x | ∃ cs : List ℚ, cs.length = ws.length ∧ x = energy (lessMixture v cs ws)} e

/-- A component of samples at `f` Hz has this square of its peak: that of a mixture of the sine of `f` Hz and the same a
quarter turn on, from the first sample, that leaves the least energy (R38, R39; log 26). -/
def ComponentSquare (f : Nat) (samples : List Sample) (square : ℚ) : Prop :=
  ∃ (a b : ℚ) (sine quarter : List ℚ),
    sine = (List.range samples.length).map (fun j => (signedSine (f * j * phaseTurn / 96000) : ℚ))
    ∧ quarter = (List.range samples.length).map
        (fun j => (signedSine (f * j * phaseTurn / 96000 + phaseTurn / 4) : ℚ))
    ∧ LeastLeft (samples.map fun x => (x.toInt : ℚ)) [quarter, sine]
        (energy (lessMixture (samples.map fun x => (x.toInt : ℚ)) [b, a] [quarter, sine]))
    ∧ square = (a ^ 2 + b ^ 2) * (fixedOne : ℚ) ^ 2

/-- A sine with this square of its peak lies at or below a level of `limit` 0.1 dBFS: `10 log10 (square / 32767 ^ 2)` dB
is at most the tenth of `limit` (R35). -/
def LevelAtMost (limit : Int) (square : ℚ) : Prop :=
  square ^ 100 * 10 ^ (-limit).toNat ≤ (32767 ^ 2) ^ 100 * 10 ^ limit.toNat

/-- A sine with this square of its peak lies at or above a level of `limit` 0.1 dBFS. -/
def LevelAtLeast (limit : Int) (square : ℚ) : Prop :=
  (32767 ^ 2) ^ 100 * 10 ^ limit.toNat ≤ square ^ 100 * 10 ^ (-limit).toNat

/-- Moving the gain by `m` takes a level toward the target, by the whole steps of 0.1 dB of their difference, at most
sixty of them (R38). -/
def GainMove (target : Int) (square : ℚ) (m : Int) : Prop :=
  (LevelAtMost target square → 0 ≤ m ∧ m ≤ 60 ∧ LevelAtMost (target - m) square
    ∧ (m = 60 ∨ ¬ LevelAtMost (target - m - 1) square))
  ∧ (¬ LevelAtMost target square → -60 ≤ m ∧ m ≤ 0 ∧ LevelAtLeast (target - m) square
    ∧ (m = -60 ∨ ¬ LevelAtLeast (target - m + 1) square))

/-- A band of the plan that was measured (R85). -/
def Measured (p : Plan) (r : UnitRecord) (i : BandId) : Prop :=
  i.val < p.header.bandCount ∧ 1 ≤ (r.accumulators[i]).windowCount

/-- A band test is made, with this class, result and margin (Table 4-5). -/
def TestMade (b : Band) (a : Accumulator) (c : FailureClass) (failed : Bool) (margin : Int) : Prop :=
  (c = .respLow ∧ ∃ v, a.minResponse = some v ∧ failed = decide (v < b.responseLower) ∧ margin = v - b.responseLower)
  ∨ (c = .respHigh
      ∧ ∃ v, a.maxResponse = some v ∧ failed = decide (b.responseUpper < v) ∧ margin = b.responseUpper - v)
  ∨ (c = .distortion ∧ ∃ v, a.maxDistortion = some v ∧ failed = decide (b.distortionLimit < v)
      ∧ margin = distortionMargin b.distortionLimit v)
  ∨ (c = .buzz ∧ ∃ v, a.maxBuzz = some v ∧ failed = decide (b.buzzLimit < v) ∧ margin = b.buzzLimit - v)
  ∨ (c = .crest ∧ ∃ v, a.maxCrest = some v ∧ failed = decide (b.crestLimit < v) ∧ margin = b.crestLimit - v)

/-! ## Capture chains -/

/-- The samples of a chain, in the order in which they were written (R147). -/
def chainSamples (m : List Host.Cell) (c : Chain) : List Sample := (List.range c.sampleCount).map (chainSample m c)

/-- The blocks of the chain of an entry. -/
def entryBlocks (e : Option RingEntry) : List BlockId := ((e.bind RingEntry.chain).map Chain.blocks).getD []

/-! ## Starting a unit -/

/-- Checks 2 to 6 of Table 1-4, with the bank that is ACTIVE. -/
def Device.Startable (d : Device) (n : NestId) (role : Role) (p : PlanId) (b : BankId) : Prop :=
  (d.nest n).state = .loaded ∧ (d.nest n).gateOpen = true ∧ d.nestPort.locked = true
  ∧ ((d.nest n).loopback = false → d.detects n .lid = true → d.taken n .lid = true)
  ∧ d.tables.activeBank = some b
  ∧ (d.tables.bank b).rows.plans[p].header.defined = true
  ∧ (role = .production →
      (d.calibration.record n p).state = .ok ∨ (d.calibration.record n p).state = .notRequired)
  ∧ (role = .golden → (d.tables.bank b).rows.plans[p].header.isReferenceValid = true)

/-- A nest passes check 2 of Table 1-4. -/
def Device.Seated (d : Device) (n : NestId) : Prop :=
  (d.nest n).state = .loaded ∧ (d.nest n).gateOpen = true ∧ d.nestPort.locked = true
  ∧ ((d.nest n).loopback = false → d.detects n .lid = true → d.taken n .lid = true)

/-- The reply of the first of checks 2 to 6 of Table 1-4 that fails (R9). -/
def Device.StartRefused (d : Device) (n : NestId) (role : Role) (p : PlanId) (st : Status) : Prop :=
  (¬ d.Seated n ∧ st = .refusedState)
  ∨ (d.Seated n ∧ d.tables.activeBank = none ∧ st = .noTables)
  ∨ ∃ b, d.Seated n ∧ d.tables.activeBank = some b
    ∧ (((d.tables.bank b).rows.plans[p].header.defined = false ∧ st = .badField)
      ∨ ((d.tables.bank b).rows.plans[p].header.defined = true ∧ role = .production
        ∧ ((d.calibration.record n p).state = .due ∨ (d.calibration.record n p).state = .out) ∧ st = .refusedCal)
      ∨ ((d.tables.bank b).rows.plans[p].header.defined = true ∧ role = .golden
        ∧ (d.tables.bank b).rows.plans[p].header.isReferenceValid = false ∧ st = .badField))

/-- The nest state a start enters (R10, R14, R29). -/
def Device.startState (d : Device) (n : NestId) : NestState :=
  if (d.nest n).loopback then .levelLock
  else if d.taken n .clamped ∧ (d.map n).settle = 0 then .levelLock
  else .clamping

/-- The history set after a start (R8, R14). -/
def Device.startHistory (d : Device) (n : NestId) : HistorySet :=
  if (d.nest n).loopback = false ∧ d.taken n .clamped then addEvent (addEvent 0 .started) .clamped
  else addEvent 0 .started

/-- The Unit Record of a new unit but for its sub-state (Table 1-2). -/
def Device.startRecord (d : Device) (n : NestId) (role : Role) (p : PlanId) (b : BankId) (serial : List Byte)
    (lot : Word32) : UnitRecord :=
  newRecord role p b (d.tables.bank b).generation serial lot (d.calibration.record n p)

/-- The counters after a start is counted. -/
def startCounted (c : Counters) : Counters := { c with started := c.started + 1 }

/-- `e` is `d` after a start of a unit on nest `n` has been taken (R10): record, pin, STARTED, history set, nest state;
no other nest, no label, no calibration record, no fixture line and no notice changes. -/
def UnitStarted (d e : Device) (n : NestId) (role : Role) (p : PlanId) (b : BankId) (serial : List Byte)
    (lot : Word32) : Prop :=
  (e.nest n).state = d.startState n
  ∧ (e.nest n).history = d.startHistory n
  ∧ (∃ sub, (e.nest n).record = some { d.startRecord n role p b serial lot with sub := sub })
  ∧ e.tables = d.tables.modBank b (fun x => { x with pins := x.pins + 1 })
  ∧ e.yields = { d.yields with live := d.yields.live.set n (startCounted d.yields.live[n]) }
  ∧ SameOtherNests d e n
  ∧ e = { d with nests := e.nests, groups := e.groups, tables := e.tables, yields := e.yields }

/-! ## Stages -/

/-- From `d` to `e` only nest `n`, and the starts and arbiters of other nests, have changed (R55 to R58). -/
def StageOnly (d e : Device) (n : NestId) : Prop :=
  e = { d with nests := e.nests, groups := e.groups } ∧ ∀ m, m ≠ n → SameButStart (d.nest m) (e.nest m)

/-- Nest `n`, with unit `r`, has gone to JUDGING with this failure set and history set: its drive is silent, and it is
in no place of its arbiter (R16, R34, R57). -/
def EnteredJudging (d e : Device) (n : NestId) (r : UnitRecord) (f : FailureSet) (h : HistorySet) : Prop :=
  (e.nest n).state = .judging ∧ (e.nest n).tone.mode = .silent ∧ (e.nest n).history = h
  ∧ (e.nest n).record = some { r with failures := f, sub := .none }
  ∧ (e.group (d.groupOf n)).holder ≠ some n ∧ n ∉ (e.group (d.groupOf n)).queue
  ∧ (e.group (d.groupOf n)).loud[n] = false ∧ StageOnly d e n

/-! ## Labels counted, and the claims of MARKING -/

/-- The counters after a label of this role is counted (R113, Table 6-2): LABELLED, and of a PRODUCTION label BIN n
where it has a bin, VOIDED where it has none, and MARGINAL where its failure set carries that class; of a GOLDEN or
ENGINEERING label the counter of its role. -/
def counted (c : Counters) (role : Role) (bin : Option (Fin 16)) (marginal : Bool) : Counters :=
  { c with
    labelled := c.labelled + 1
    voided := if role = .production ∧ bin = none then c.voided + 1 else c.voided
    golden := if role = .golden then c.golden + 1 else c.golden
    engineering := if role = .engineering then c.engineering + 1 else c.engineering
    marginal := if role = .production ∧ marginal = true then c.marginal + 1 else c.marginal
    bins := match role, bin with
      | .production, some i => c.bins.set i (c.bins[i] + 1)
      | _, _ => c.bins }

/-- From `d` to `e` nest `n` has entered MARKING with this action set, and left it again in the same step where the set
does not name MARK (R21, R108, R109): MARK, bit 0, is claimed as the set names it; GATE, bit 1, and LAMP, bit 2, are
claimed where they were or the set names them, unless the nest has come to EMPTY; the mark timer is at 0. -/
def ClaimsMade (d e : Device) (n : NestId) (actions : ActionSet) : Prop :=
  (e.nest n).markClaim = actions.getLsbD 0
  ∧ (e.nest n).gateClaim
      = (decide ((e.nest n).state ≠ .empty) && ((d.nest n).gateClaim || actions.getLsbD 1))
  ∧ (e.nest n).lampClaim
      = (decide ((e.nest n).state ≠ .empty) && ((d.nest n).lampClaim || actions.getLsbD 2))
  ∧ (actions.getLsbD 0 = true → (e.nest n).markTimer = 0)

/-! ## Verification (Table 9-4) -/

/-- One of the plan's STEP or CHIRP segments reaches a band (check 5). -/
def Plan.Reaches (p : Plan) (b : Band) : Prop :=
  ∃ i : Fin 24, i.val < p.header.segmentCount
    ∧ (((p.segments[i]).kind = .step ∧ b.lower ≤ (p.segments[i]).startFrequency
        ∧ (p.segments[i]).startFrequency < b.upper)
      ∨ ((p.segments[i]).kind = .chirp
        ∧ b.lower ≤ max (p.segments[i]).startFrequency (p.segments[i]).endFrequency
        ∧ min (p.segments[i]).startFrequency (p.segments[i]).endFrequency < b.upper))

/-- Row `i` of a plan fails the check that records this reason (checks 4 to 7). -/
def Plan.RowFails (p : Plan) (i : Fin 32) : Reason → Prop
  | .bandOrder => p.header.defined = true ∧ i.val < p.header.bandCount ∧ 0 < i.val
      ∧ (p.bands[i]).lower < (p.bands[i.val - 1]).upper
  | .bandUnreached => p.header.defined = true ∧ i.val < p.header.bandCount ∧ ¬ p.Reaches p.bands[i]
  | .referenceMissing => p.header.defined = true ∧ p.header.referenceValid = true ∧ i.val < p.header.bandCount
      ∧ (p.references[i]).present = false
  | .referenceExtra => (p.header.defined = false ∨ p.header.referenceValid = false)
      ∧ (p.references[i]).present = true
  | _ => False

/-- Check `k` of Table 9-4 fails with this result: its first failure, the plans from 0 to 7 and the rows of each in
increasing order (R159). -/
def BankRows.CheckFails (rows : BankRows) (declared : Word16) (k : Nat) (x : ErrorDetail) : Prop :=
  (k = 1 ∧ rows.checksum ≠ declared
    ∧ x = { reason := .checksum, kind := none, plan := none, row := none, computed := some rows.checksum })
  ∨ (k = 2 ∧ (∀ p : PlanId, (rows.plans[p]).header.defined = false)
    ∧ x = { reason := .noPlan, kind := none, plan := none, row := none, computed := none })
  ∨ (∃ (p : PlanId) (fails : PlanId → Prop), k = 3
    ∧ (∀ q, fails q ↔ (rows.plans[q]).header.defined = true ∧ ∀ i : Fin 24,
        i.val < (rows.plans[q]).header.segmentCount → ((rows.plans[q]).segments[i]).kind = .silence)
    ∧ fails p ∧ (∀ q, q < p → ¬ fails q)
    ∧ x = { reason := .noDrivenSegment, kind := some .planHeader, plan := some p, row := none, computed := none })
  ∨ (∃ (reason : Reason) (kind : TableKind) (p : PlanId) (i : Fin 32),
    (k, reason, kind) ∈ [(4, Reason.bandOrder, TableKind.band), (5, .bandUnreached, .band),
      (6, .referenceMissing, .reference), (7, .referenceExtra, .reference)]
    ∧ (rows.plans[p]).RowFails i reason
    ∧ (∀ (q : PlanId) (j : Fin 32), q < p ∨ (q = p ∧ j < i) → ¬ (rows.plans[q]).RowFails j reason)
    ∧ x = { reason := reason, kind := some kind, plan := some p, row := some i, computed := none })
  ∨ (k = 8 ∧ ((rows.verdicts[15]).require ≠ 0 ∨ (rows.verdicts[15]).exclude ≠ 0)
    ∧ x = { reason := .noCatchAll, kind := some .verdict, plan := none, row := some 15, computed := none })

/-! ## Ending a unit early -/

/-- What no early end and no discard changes: links, calibration but for drift, fixture lines, the group map. -/
def SameOutside (d e : Device) (n : NestId) : Prop :=
  e.nestPort = d.nestPort ∧ e.controllerPort = d.controllerPort ∧ e.fixture = d.fixture ∧ e.groupMap = d.groupMap
  ∧ e.yields.snapshot = d.yields.snapshot ∧ e.yields.number = d.yields.number
  ∧ (∀ m, m ≠ n → e.yields.live[m] = d.yields.live[m])
  ∧ ∀ m, m ≠ n → SameButStart (d.nest m) (e.nest m)

/-- `e` is `d` after the unit `r` of nest `n` has ended early with a free ring entry (R24, R98): a VOID label with the
cause is posted into the entry at the post pointer and numbered, its chain is freed, the pin falls, the label is counted
by its role, without a bin, and the nest holds no unit. -/
def EndedWithLabel (d e : Device) (n : NestId) (r : UnitRecord) (cause : FailureClass) : Prop :=
  e.labels = d.labels.put
      { label := earlyEndLabel d.labels.counter n { r with failures := addFailure r.failures cause }, chain := none }
  ∧ e.pool = { d.pool with free := d.pool.free ++ r.chain.blocks }
  ∧ (e.tables.bank r.bank).pins = (d.tables.bank r.bank).pins - 1
  ∧ e.yields.live[n] = counted d.yields.live[n] r.role none (hasFailure (addFailure r.failures cause) .marginal)
  ∧ (e.nest n).record = none
  ∧ SameOutside d e n

/-- `e` is `d` after the unit `r` of nest `n` has been discarded (R25): no label and no number, the chain freed, the pin
fallen, DISCARDED counted, and the nest out of the Ring Wait Queue and without a unit. -/
def Discarded (d e : Device) (n : NestId) (r : UnitRecord) : Prop :=
  e.labels = { d.labels with waitQueue := d.labels.waitQueue.filter fun m => decide (m ≠ n) }
  ∧ e.pool = { d.pool with free := d.pool.free ++ r.chain.blocks }
  ∧ (e.tables.bank r.bank).pins = (d.tables.bank r.bank).pins - 1
  ∧ e.yields.live[n] = { d.yields.live[n] with discarded := (d.yields.live[n]).discarded + 1 }
  ∧ e.calibration = d.calibration
  ∧ (e.nest n).record = none
  ∧ SameOutside d e n

/-- The number of units in test, as a count of 32 bits (R2). -/
def Device.inTestCount (d : Device) (n : NestId) : Word32 := if (d.nest n).state.inTest then 1 else 0

/-- The units in test pinned to a bank (R152). -/
def Device.pinnedUnits (d : Device) (b : BankId) : Nat :=
  ((List.finRange 4).filter fun n =>
    (d.nest n).state.inTest && (d.nest n).record.any fun r => decide (r.bank = b)).length

/-! ## Invariants -/

/-- The sample store keeps its canonical form. -/
def MemoryCanonical (s : State) : Prop := Memory.wf s.samples = true

/-- Commands taken and not yet answered: waiting, replied but not sent, holding their reply, or being sent (R183). -/
def Management.unanswered (m : Management) : Nat :=
  m.queue.length + m.replies.length + (if m.held.isSome then 1 else 0)
  + (if m.sending.any Sending.isReply then 1 else 0)

/-- The credit count is the number of commands taken and not yet answered, and at most 8; a reply is held exactly
while an operation is in flight, and a commit in flight has the standby bank VERIFYING (R183, R184, R158). -/
def CreditKept (s : State) : Prop :=
  s.mgmt.credit = s.mgmt.unanswered ∧ s.mgmt.credit ≤ 8
  ∧ (s.mgmt.held.isSome = true ↔ s.dev.tables.operation ≠ .none)
  ∧ ∀ w, s.dev.tables.operation = .commit w →
      ∃ b, s.dev.tables.standby = some b ∧ (s.dev.tables.bank b).state = .verifying

/-- The sum of the sixteen BIN counters. -/
def Counters.binSum (c : Counters) : Word32 := c.bins.toList.foldr (· + ·) 0

/-- LABELLED is the sum of the BIN counters, VOIDED, GOLDEN and ENGINEERING (R114). -/
def Counters.Sums (c : Counters) : Prop := c.labelled = c.binSum + c.voided + c.golden + c.engineering

/-- A nest holds a Unit Record exactly in the test stages, and claims MARK in MARKING alone; a nest in the Ring Wait
Queue is in LABEL_WAIT and is there once (R2, R108, R105). -/
def UnitsKept (d : Device) : Prop :=
  (∀ n, (d.nest n).record.isSome = (d.nest n).state.testStage)
  ∧ (∀ n, (d.nest n).markClaim = true → (d.nest n).state = .marking)
  ∧ d.labels.waitQueue.Nodup
  ∧ ∀ n ∈ d.labels.waitQueue, (d.nest n).state = .labelWait

/-- Both relations of R114 in the live set, the second in the snapshot set. -/
def YieldsKept (s : State) : Prop :=
  UnitsKept s.dev
  ∧ ∀ n : NestId,
      (s.dev.yields.live[n]).started
        = (s.dev.yields.live[n]).labelled + (s.dev.yields.live[n]).discarded + s.dev.inTestCount n
      ∧ (s.dev.yields.live[n]).Sums ∧ (s.dev.yields.snapshot[n]).Sums

/-- The ring of R100: the posted entries run from the return pointer for the posted count, the post pointer stands
after them, and they carry consecutive label numbers that end below the counter (R99). -/
def LabelUnit.Contiguous (u : LabelUnit) : Prop :=
  u.posted ≤ 64 ∧ u.post = u.ret + Fin.ofNat 64 u.posted
  ∧ (∀ i : EntryId, u.ring[i].isSome = decide ((i - u.ret).val < u.posted))
  ∧ ∀ (i : EntryId) (e : RingEntry), u.ring[i] = some e →
      e.label.number = u.counter - BitVec.ofNat 32 (u.posted - (i - u.ret).val)

/-- The Result Ring keeps its shape. -/
def RingKept (s : State) : Prop := s.dev.labels.Contiguous

/-- The pin count of a bank is the number of units in test pinned to it, and a pinned bank is ACTIVE or RETIRING
(R152); a commit in flight has the standby bank VERIFYING (R158). -/
def PinsKept (s : State) : Prop :=
  UnitsKept s.dev
  ∧ (∀ b, (s.dev.tables.bank b).pins = s.dev.pinnedUnits b
      ∧ (0 < (s.dev.tables.bank b).pins →
          (s.dev.tables.bank b).state = .active ∨ (s.dev.tables.bank b).state = .retiring))
  ∧ ∀ w, s.dev.tables.operation = .commit w →
      ∃ b, s.dev.tables.standby = some b ∧ (s.dev.tables.bank b).state = .verifying

/-- The sub-state of a unit is one of its nest state (Table 3-1). -/
def SubStage.fits (sub : SubStage) (st : NestState) : Bool :=
  match sub with
  | .none => true
  | .held => decide (st = .levelLock) || decide (st = .sweeping)
  | .locking => decide (st = .levelLock)
  | .waitPermit => decide (st = .quietCheck) || decide (st = .sweeping)
  | .measuring | .retryWait => decide (st = .quietCheck)
  | .running => decide (st = .sweeping)

/-- The unit of a nest stands in this sub-state. -/
def Device.InSub (d : Device) (n : NestId) (sub : SubStage) : Prop := (d.nest n).record.map UnitRecord.sub = some sub

/-- The drive mode of a nest is that of its state and sub-state (Table 2-3). -/
def Device.DriveFits (d : Device) (n : NestId) : Prop :=
  match (d.nest n).tone.mode with
  | .silent => True
  | .lock => (d.nest n).state = .levelLock ∧ d.InSub n .locking
  | .segment => (d.nest n).state = .sweeping ∧ d.InSub n .running
  | .pass _ => (d.nest n).state = .empty ∨ (d.nest n).state = .loaded ∨ (d.nest n).state = .done

/-- R54 and Tables 2-3 and 3-1. Every unit's sub-state and every nest's drive mode fit the nest's state. The holder of a
group measures quiet or runs its segment and is not in the queue; a nest waits for the permit exactly where it stands in
the queue of its group, once; a nest of the loud set runs its lock pilot or its segment; all are members of the group;
and a nest that measures quiet is the holder. -/
def ArbitersKept (s : State) : Prop :=
  UnitsKept s.dev
  ∧ (∀ n r, (s.dev.nest n).record = some r → r.sub.fits (s.dev.nest n).state = true)
  ∧ (∀ n, s.dev.DriveFits n)
  ∧ (∀ g n, (s.dev.group g).holder = some n → s.dev.groupOf n = g
      ∧ (s.dev.InSub n .measuring ∨ s.dev.InSub n .running) ∧ n ∉ (s.dev.group g).queue)
  ∧ (∀ g, (s.dev.group g).queue.Nodup)
  ∧ (∀ g n, n ∈ (s.dev.group g).queue ↔ s.dev.groupOf n = g ∧ s.dev.InSub n .waitPermit)
  ∧ (∀ (g : GroupId) (n : NestId), (s.dev.group g).loud[n] = true → s.dev.groupOf n = g
      ∧ (s.dev.InSub n .locking ∨ s.dev.InSub n .running))
  ∧ ∀ n, s.dev.InSub n .measuring → (s.dev.group (s.dev.groupOf n)).holder = some n

/-- The blocks of the Free List, of the chains of units and of the chains of posted entries. -/
def Device.allBlocks (d : Device) : List BlockId :=
  d.pool.free
  ++ ((List.finRange 4).flatMap fun n => (((d.nest n).record.map fun r => r.chain.blocks).getD []))
  ++ (List.finRange 64).flatMap fun i : EntryId => entryBlocks d.labels.ring[i]

/-- Every capture block stands in the Free List or in one chain, and once (R139); a labelled unit holds none (R145). -/
def PoolKept (s : State) : Prop :=
  UnitsKept s.dev ∧ s.dev.labels.Contiguous
  ∧ (∀ b : BlockId, s.dev.allBlocks.count b = 1)
  ∧ ∀ n r, (s.dev.nest n).state = .marking → (s.dev.nest n).record = some r → r.chain.blocks = []

end Sys2Proof.Machine
end

