-- ==== Sys2Proof/Certificates/Slice0/Obligations.lean ====
section
/-! DEFINITION. The statements about the block, for the provers. Each follows the numbered rules its docstring cites. -/

open Sys2Proof Sys2Proof.Machine

/-! ## The step and its outcomes -/

/-- The step of a state with a row at the front of its queue is the meaning of that row on the state with the rest of
the queue. -/
def Obligations.StepRunsFrontRow : Prop :=
  ∀ (c : Instr) (s : State), step { s with pending := c :: s.pending } = exec c s

/-- The queue of rows is the model's own (log 1): on an empty queue the block idles, no word spells a row or places
one, and no row changes the rows that wait. -/
def Obligations.QueueOfRows : Prop :=
  (∀ s : State, s.pending = [] → step s = .next s) ∧ (∀ (s : State) (nbits w : Nat), s.withFetchWord nbits w = s)
  ∧ ∀ (c : Instr) (s t : State), exec c s = .next t → t.pending = s.pending

/-- Every step keeps what R54 says of the Permit Arbiters and Tables 2-3 and 3-1 of drive modes and sub-states: the
holder, the queue and the loud set of a group are nests of the group that measure quiet or sweep, that wait, and that
drive; every nest that waits stands in the queue, once, and every nest that measures quiet holds the permit. -/
def Obligations.StepKeepsArbiters : Prop := ∀ s t : State, ArbitersKept s → step s = .next t → ArbitersKept t

/-- Every row answers a next state in every state, but for JUDGE_COMPLETE of a PRODUCTION or ENGINEERING unit in
JUDGING whose failure set no verdict entry of the pinned bank matches (R92 rules that out for a committed bank; log
20). -/
def Obligations.OnlyUnmatchedJudgingStops : Prop :=
  ∀ (c : Instr) (s : State),
    (∃ t, exec c s = .next t)
    ∨ ∃ (n : NestId) (r : UnitRecord), c = .judgeComplete n ∧ (s.dev.nest n).state = .judging
        ∧ (s.dev.nest n).record = some r ∧ r.role ≠ .golden
        ∧ (∀ i : Fin 16, ((s.dev.tables.bank r.bank).rows.verdicts[i]).accepts (judgedFailures (s.dev.planOf r) r)
            = false)
        ∧ exec c s = .fault .noMatchingVerdict

/-- No sample of a capture block is written but by the closing of a window (R141) and power-on reset; and the timed
events of units, the nest link and the input changes leave the Management Interface as it is. -/
def Obligations.RowsLeaveSamplesAndManagement : Prop :=
  (∀ (c : Instr) (s t : State), exec c s = .next t → c ≠ .powerOnReset → (∀ n m, c ≠ .windowClose n m) →
    t.samples = s.samples)
  ∧ ∀ (n : NestId) (k : Nat) (l : InputLine) (f : Option NestFrame) (o : List NestId) (a b : Nat) (m : Measures)
    (s t : State) (c : Instr),
    c ∈ [Instr.nestLinkFrame f, .nestLinkLocked, .nestLinkLoss o, .inputChangeTaken n l, .settleEnd n,
      .clampTimeout n, .releaseTimeout n, .lockIntervalEnd n a b, .lockTimeout n, .quietWindowClose n k,
      .quietRetryWaitEnd n, .windowClose n m, .segmentEnd n, .judgeComplete n, .markPulseEnd n,
      .coalescingTimerExpiry, .autoStartAfterReset] →
    exec c s = .next t → t.mgmt = s.mgmt

/-- Every step keeps the capture blocks whole: each of the 64 stands in the Free List or in one chain, and once
(R139); with the Result Ring contiguous and the unit of MARKING without a chain (R100, R145). -/
def Obligations.StepKeepsPool : Prop := ∀ s t : State, PoolKept s → step s = .next t → PoolKept t

/-! ## Invariants -/

/-- Every step keeps the sample store in canonical form. -/
def Obligations.StepKeepsMemoryCanonical : Prop :=
  ∀ s t : State, MemoryCanonical s → step s = .next t → MemoryCanonical t

/-- Every step keeps the credit count equal to the commands taken and not yet answered, at most 8 (R183). -/
def Obligations.StepKeepsCredit : Prop := ∀ s t : State, CreditKept s → step s = .next t → CreditKept t

/-- Every step keeps both relations of R114. -/
def Obligations.StepKeepsYieldRelations : Prop := ∀ s t : State, YieldsKept s → step s = .next t → YieldsKept t

/-- Every step keeps the posted entries contiguous and consecutively numbered (R100, R99). -/
def Obligations.StepKeepsRing : Prop := ∀ s t : State, RingKept s → step s = .next t → RingKept t

/-- Every step keeps the pin counts equal to the units in test pinned to each bank (R152). -/
def Obligations.StepKeepsPins : Prop := ∀ s t : State, PinsKept s → step s = .next t → PinsKept t

/-- The state after reset satisfies every invariant. -/
def Obligations.ResetSatisfiesInvariants : Prop :=
  MemoryCanonical State.reset ∧ CreditKept State.reset ∧ YieldsKept State.reset ∧ RingKept State.reset
  ∧ PinsKept State.reset ∧ ArbitersKept State.reset ∧ PoolKept State.reset

/-! ## Resets -/

/-- POWER_ON_RESET from any state: nests EMPTY with no unit, an empty history set, gate OPEN, auto-start OFF, no
loopback and no pass-through; both links out of sync; queues, ring and counters empty; both banks EMPTY (R2, R31,
R152, R100, R111, R179, R180, R183). -/
def Obligations.PowerOnResetValues : Prop :=
  ∀ s : State, ∃ t, exec .powerOnReset s = .next t
    ∧ t.pending = s.pending
    ∧ (∀ n, (t.dev.nest n).state = .empty ∧ (t.dev.nest n).record = none ∧ (t.dev.nest n).history = 0
        ∧ (t.dev.nest n).gateOpen = true ∧ (t.dev.nest n).autoStart = none ∧ (t.dev.nest n).loopback = false
        ∧ (t.dev.nest n).tone.mode = .silent ∧ (t.dev.nest n).tone.gain = 0)
    ∧ t.dev.nestPort.locked = false ∧ t.dev.controllerPort.locked = false
    ∧ t.mgmt.queue = [] ∧ t.mgmt.replies = [] ∧ t.mgmt.credit = 0 ∧ t.mgmt.discards = 0
    ∧ t.dev.labels.posted = 0 ∧ t.dev.labels.counter = 1 ∧ (∀ i : EntryId, t.dev.labels.ring[i] = none)
    ∧ (∀ n : NestId, t.dev.yields.live[n] = Counters.zero ∧ t.dev.yields.snapshot[n] = Counters.zero)
    ∧ (∀ b, (t.dev.tables.bank b).state = .empty ∧ (t.dev.tables.bank b).generation = 0
        ∧ (t.dev.tables.bank b).pins = 0)
    ∧ t.dev.pool.free = List.finRange 64

/-- LINK RESET with the confirm code: the Management Interface's part. Without the confirm code D5h it is answered
BAD_FIELD and changes nothing (R186). That a complete message which MESSAGE_RECEIVED has not yet handled stands is the
model's choice (log 23). -/
def Obligations.LinkResetManagement : Prop :=
  (∀ (s : State) (tag : Byte) (order : List NestId), s.Heads 0x1D tag [0xD5] →
    ∃ t, exec (.linkReset tag (some 0xD5) order) s = .next t
      ∧ t.mgmt.queue = [] ∧ t.mgmt.held = none ∧ t.mgmt.consecutive = 0
      ∧ t.mgmt.replies = [{ tag := tag, type := 0x1D, status := .ok, data := .none }]
      ∧ t.mgmt.parser = .hunt ∧ t.mgmt.partBytes = []
      ∧ t.mgmt.discards = (if s.mgmt.parser = .receiving then s.mgmt.discards + 1 else s.mgmt.discards)
      ∧ t.mgmt.credit = s.mgmt.credit - (s.mgmt.queue.tail.length + s.mgmt.replies.length
          + if s.mgmt.held.isSome then 1 else 0)
      ∧ t.mgmt.sending = s.mgmt.sending ∧ t.mgmt.completed = s.mgmt.completed ∧ t.samples = s.samples)
  ∧ ∀ (s : State) (tag : Byte) (order : List NestId),
    (s.Heads 0x1D tag [] →
      exec (.linkReset tag none order) s = .next (s.repliedWith 0x1D tag .badField .none s.dev))
    ∧ ∀ c : Byte, c ≠ 0xD5 → s.Heads 0x1D tag [c] →
      exec (.linkReset tag (some c) order) s = .next (s.repliedWith 0x1D tag .badField .none s.dev)

/-- LINK RESET with the confirm code: the blocks' part. No nest is left in a test stage or in FAULT; settings, history
sets, ring, snapshot set and calibration records are kept; every fixture output is de-asserted; the load status, the
operation in flight and every pending flag are cleared (R30, R34, R109, R110, R111, R125, R166, R177, R189, R192).
Where each nest holds a unit exactly in its test stages, every unit in test is counted DISCARDED and its chain freed,
in the order in which the nests are taken (the order is the row's, log 11), and the Ring Wait Queue is empty; where
the pin counts are those of the units, both are 0; where the arbiters keep R54, they are empty (R25, R54, R110, R150,
R166). -/
def Obligations.LinkResetBlocks : Prop :=
  ∀ (s : State) (tag : Byte) (order : List NestId), s.Heads 0x1D tag [0xD5] →
    ∃ t, exec (.linkReset tag (some 0xD5) order) s = .next t
      ∧ (∀ n, (t.dev.nest n).loopback = false ∧ (t.dev.nest n).tone.mode = .silent ∧ (t.dev.nest n).tone.gain = 0
          ∧ (t.dev.nest n).gateOpen = (s.dev.nest n).gateOpen ∧ (t.dev.nest n).autoStart = (s.dev.nest n).autoStart
          ∧ (t.dev.nest n).history = (s.dev.nest n).history
          ∧ (t.dev.nest n).gateClaim = false ∧ (t.dev.nest n).lampClaim = false
          ∧ (t.dev.nest n).state =
              (if (s.dev.nest n).state.testStage then s.dev.afterRelease n
                else if (s.dev.nest n).state = .fault then
                  (if s.dev.taken n .present then .loaded else .empty)
                else (s.dev.nest n).state)
          ∧ ((s.dev.nest n).state.testStage = true →
              (t.dev.nest n).record = none ∧ (t.dev.nest n).markClaim = false))
      ∧ t.dev.labels.ring = s.dev.labels.ring ∧ t.dev.labels.post = s.dev.labels.post
      ∧ t.dev.labels.ret = s.dev.labels.ret ∧ t.dev.labels.posted = s.dev.labels.posted
      ∧ t.dev.labels.counter = s.dev.labels.counter
      ∧ t.dev.yields.snapshot = s.dev.yields.snapshot ∧ t.dev.yields.number = s.dev.yields.number
      ∧ t.dev.calibration = s.dev.calibration ∧ t.dev.groupMap = s.dev.groupMap
      ∧ (∀ n : NestId, t.dev.fixture[n] = { s.dev.fixture[n] with
          changed := Vector.replicate 4 false, manual := Vector.replicate 4 false })
      ∧ (∀ b, (t.dev.tables.bank b).rows = (s.dev.tables.bank b).rows
          ∧ (t.dev.tables.bank b).generation = (s.dev.tables.bank b).generation
          ∧ (t.dev.tables.bank b).state ≠ .verifying)
      ∧ t.dev.tables.operation = .none ∧ t.dev.tables.loadError = false ∧ t.dev.tables.sequenceError = false
      ∧ t.dev.tables.detail = none ∧ t.dev.tables.generationCounter = s.dev.tables.generationCounter
      ∧ (∀ i : SourceId, t.dev.notices.pending[i] = false) ∧ t.dev.notices.labelsPosted = 0
      ∧ t.dev.notices.timer = none ∧ t.dev.notices.priorities = s.dev.notices.priorities
      ∧ t.dev.nestPort = s.dev.nestPort ∧ t.dev.controllerPort = s.dev.controllerPort
      ∧ (UnitsKept s.dev →
          t.dev.labels.waitQueue = [] ∧ (∀ (n : NestId) (k : Fin 4), t.dev.lineState n k = false)
          ∧ (∀ n : NestId, t.dev.yields.live[n] = if (s.dev.nest n).state.inTest then
              { s.dev.yields.live[n] with discarded := (s.dev.yields.live[n]).discarded + 1 }
            else s.dev.yields.live[n])
          ∧ t.dev.pool = { s.dev.pool with free := s.dev.pool.free
              ++ (((nestOrder order).filter fun n => (s.dev.nest n).state.inTest).flatMap fun n =>
                ((s.dev.nest n).record.map fun r => r.chain.blocks).getD []) })
      ∧ (PinsKept s → ∀ b, (t.dev.tables.bank b).pins = 0)
      ∧ (ArbitersKept s → ∀ g : GroupId, (t.dev.group g).holder = none ∧ (t.dev.group g).queue = []
          ∧ ∀ n : NestId, (t.dev.group g).loud[n] = false)

/-- AUTO_START_AFTER_RESET: where one nest is owed the test and stands in LOADED with a plan to auto-start, its gate
OPEN and no loopback, it starts a PRODUCTION unit when the checks of a start pass. Otherwise the first check that
fails is recorded as the refusal and NEST_FAULT is set, and nothing else changes (R30, R12, R13). That the test is
made once, and lapses for a nest that leaves LOADED before it, is the model's choice (log 24). -/
def Obligations.AutoStartAfterResetTests : Prop :=
  ∀ (s : State) (n : NestId) (p : PlanId),
    (s.dev.nest n).autoTestOwed = true → (∀ m, m ≠ n → (s.dev.nest m).autoTestOwed = false) →
    (s.dev.nest n).state = .loaded → (s.dev.nest n).autoStart = some p → (s.dev.nest n).gateOpen = true →
    (s.dev.nest n).loopback = false →
    (∀ b, s.dev.Startable n .production p b →
      ∃ t, exec .autoStartAfterReset s = .next t ∧ UnitStarted s.dev t.dev n .production p b [] 0
        ∧ (t.dev.nest n).autoTestOwed = false ∧ t = { s with dev := t.dev })
    ∧ ∀ st, s.dev.StartRefused n .production p st →
      exec .autoStartAfterReset s = .next { s with dev := { s.dev.setNest n { s.dev.nest n with autoTestOwed := false } with
        notices := { s.dev.notices with
          pending := s.dev.notices.pending.set (nestFaultSource n) true
          refusal := s.dev.notices.refusal.set n (some st) } } }

/-! ## The nest link -/

/-- One frame of the nest link. While an event of the period before is due the row changes nothing: that the frame waits
is how the model keeps every event at the end of the frame in which its count completes (R1; log 4). Otherwise no
running count has reached its limit, and: the fixture output word is the inverse of the line states, in either sync
state (R172); the drive samples are the generators'; the microphone sample of a nest in loopback is its own drive
sample; every other inbound sample is zero while LOST and for a frame not received (R178, R179). A received frame in
LOCKED raises the debounce count of an input whose level differs from its taken level, and sets it to 0 otherwise
(R168). The consecutive frames received and not received are counted (R179). The running timers of the nests, of
coalescing and of the operation in flight rise by one, and a timer of another stage stands (R14, R22, R40, R43, R61,
R62, R84, R108, R157, R160, R192). The open window takes the frame's samples within its microphone span (R68, R69); the
partial sums it keeps of them are the model's choice (log 35). The quiet check window takes one sample each frame,
delayed by the plan's acoustic delay (R61); that this is the sample that arrived so many frames before is DEDUCED (log
34). In a lock pilot the interval in progress takes the drive-sense sample as it is and the microphone sample delayed in
the same way (R38, R39; log 26). The line state of an output is what FixtureCommands says of it (R171). Of a nest its
generator, its engine and the timers and sums of its stage change, of its fixture lines the debounce counts, and nothing
else. That one row of the nest link is one frame period of the part is the model's choice (log 3). -/
def Obligations.NestLinkFrameSamples : Prop :=
  ∀ (s : State) (frame : Option NestFrame),
    (s.dev.frameDue = true → exec (.nestLinkFrame frame) s = .next s)
    ∧ (s.dev.frameDue = false → ∃ t, exec (.nestLinkFrame frame) s = .next t
      ∧ (∀ n : NestId,
          ((s.dev.nest n).state = .clamping → (s.dev.nest n).settling = none →
            (s.dev.nest n).clampTimer < 96 * (s.dev.map n).clampTimeout)
          ∧ (∀ run total, (s.dev.nest n).state = .clamping → (s.dev.nest n).settling = some (run, total) → run < total)
          ∧ ((s.dev.nest n).state = .releasing → (s.dev.nest n).releaseTimer < 96 * (s.dev.map n).releaseTimeout)
          ∧ (∀ r v, (s.dev.nest n).state = .marking → (s.dev.nest n).markClaim = true →
            (s.dev.nest n).record = some r → r.verdict = some v → (s.dev.nest n).markTimer < 96 * v.markPulse)
          ∧ (∀ (r : UnitRecord) (g : ToneGenerator) (limit : Nat), (s.dev.nest n).state = .levelLock →
            (s.dev.nest n).record = some r → (s.dev.nest n).tone = g → g.mode = .lock →
            limit = 96 * (s.dev.planOf r).header.lockTimeout * r.dwell →
            (1920 * (g.intervals + 1) ≤ limit → g.timer < 1920 * (g.intervals + 1))
            ∧ (limit < 1920 * (g.intervals + 1) → g.timer < limit))
          ∧ (∀ r, (s.dev.nest n).state = .quietCheck → (s.dev.nest n).record = some r →
            (r.sub = .measuring → (s.dev.nest n).stageTimer < 4800 * r.dwell)
            ∧ (r.sub = .retryWait → (s.dev.nest n).stageTimer < 9600))
          ∧ (∀ (r : UnitRecord) (x : Segment) (k : Nat), (s.dev.nest n).state = .sweeping →
            (s.dev.nest n).tone.mode = .segment → (s.dev.nest n).record = some r → s.dev.segmentOf r = x →
            (s.dev.nest n).engine.closed = k →
            (k < windowCount x r.dwell → (s.dev.nest n).tone.timer
              < (windowSpan x r.dwell (s.dev.planOf r).header.acousticDelay k).micEnd)
            ∧ (windowCount x r.dwell ≤ k → (s.dev.nest n).tone.timer < 96 * x.duration * r.dwell))
          ∧ ((s.dev.nest n).state = .judging → (s.dev.nest n).record ≠ none → (s.dev.nest n).judgeTimer < 96)
          ∧ (∀ l, s.dev.nestPort.locked = true → (s.dev.fixture[n]).count[inputIndex l] = 0
              ∨ (s.dev.fixture[n]).count[inputIndex l] < 96 * (s.dev.map n).debounce[inputIndex l]))
      ∧ (s.dev.tables.operation ≠ .none → s.dev.tables.operationTimer < 1920)
      ∧ (∀ x, s.dev.notices.timer = some x → x < 96 * s.dev.notices.coalescingTime)
      ∧ (s.dev.nestPort.locked = true → s.dev.nestPort.missed < 8)
      ∧ (s.dev.nestPort.locked = false → s.dev.nestPort.received < 16)
      ∧ (∀ (n : NestId) (k : Fin 4),
          t.dev.nestPort.outFixture.getLsbD (4 * n.val + k.val) = !(s.dev.lineState n k))
      ∧ (∀ n : NestId, t.dev.nestPort.drive[n] = s.dev.driveSample n)
      ∧ (∀ n : NestId, (s.dev.nest n).loopback = true → t.dev.nestPort.mic[n] = s.dev.driveSample n)
      ∧ (∀ f, frame = some f → s.dev.nestPort.locked = true → t.dev.nestPort.sense = f.sense
          ∧ t.dev.nestPort.ambient = f.ambient
          ∧ (∀ n : NestId, (s.dev.nest n).loopback = false → t.dev.nestPort.mic[n] = f.mic[n])
          ∧ ∀ (n : NestId) (l : InputLine), (t.dev.fixture[n]).count[inputIndex l]
              = if readLevel (s.dev.map n).polarity[inputIndex l] (f.fixture.getLsbD (4 * n.val + (inputIndex l).val))
                  = s.dev.taken n l then 0 else (s.dev.fixture[n]).count[inputIndex l] + 1)
      ∧ (frame = none ∨ s.dev.nestPort.locked = false →
          (∀ n : NestId, t.dev.nestPort.sense[n] = 0) ∧ (∀ g : GroupId, t.dev.nestPort.ambient[g] = 0)
          ∧ (∀ n : NestId, (s.dev.nest n).loopback = false → t.dev.nestPort.mic[n] = 0)
          ∧ t.dev.fixture = s.dev.fixture)
      ∧ t.dev.nestPort.locked = s.dev.nestPort.locked
      ∧ t.dev.nestPort.received = (if frame = none then 0 else s.dev.nestPort.received + 1)
      ∧ t.dev.nestPort.missed = (if frame = none then s.dev.nestPort.missed + 1 else 0)
      ∧ (∀ n : NestId, t.dev.nestPort.past[n] = (t.dev.nestPort.mic[n] :: s.dev.nestPort.past[n]).take 480)
      ∧ (∀ n : NestId, t.dev.fixture[n] = { s.dev.fixture[n] with count := (t.dev.fixture[n]).count })
      ∧ (∀ (n : NestId) (x y : Nest), s.dev.nest n = x → t.dev.nest n = y →
          y = { x with
            tone := y.tone
            engine := y.engine
            settling := if x.state = .clamping then x.settling.map (fun c => (c.1 + 1, c.2)) else x.settling
            clampTimer := if x.state = .clamping ∧ x.settling = none then x.clampTimer + 1 else x.clampTimer
            releaseTimer := if x.state = .releasing then x.releaseTimer + 1 else x.releaseTimer
            markTimer := if x.state = .marking then x.markTimer + 1 else x.markTimer
            judgeTimer := if x.state = .judging then x.judgeTimer + 1 else x.judgeTimer
            stageTimer := y.stageTimer
            quietCount := y.quietCount
            quietSquares := y.quietSquares }
          ∧ y.tone = { x.tone with
            phase := y.tone.phase
            timer := if x.tone.mode = .lock ∨ x.tone.mode = .segment then x.tone.timer + 1 else x.tone.timer
            sense := if x.tone.mode = .lock then x.tone.sense ++ [t.dev.nestPort.sense[n]] else x.tone.sense
            pilot := y.tone.pilot }
          ∧ (x.tone.mode ≠ .lock → y.tone.pilot = x.tone.pilot)
          ∧ (∀ r, x.tone.mode = .lock → x.record = some r → y.tone.pilot = x.tone.pilot
            ++ [((t.dev.nestPort.mic[n] :: s.dev.nestPort.past[n])[(s.dev.planOf r).header.acousticDelay]?).getD 0])
          ∧ (∀ r, x.state = .quietCheck → x.record = some r → r.sub = .measuring ∨ r.sub = .retryWait →
            y.stageTimer = x.stageTimer + 1)
          ∧ (∀ r, x.state = .quietCheck → x.record = some r → r.sub = .measuring →
            y.quietCount = x.quietCount + 1
            ∧ y.quietSquares = x.quietSquares
              + (((t.dev.nestPort.mic[n] :: s.dev.nestPort.past[n])[(s.dev.planOf r).header.acousticDelay]?).getD
                  0).toInt.natAbs ^ 2)
          ∧ (x.state ≠ .quietCheck ∨ (∀ r, x.record = some r → r.sub ≠ .measuring) →
            y.quietCount = x.quietCount ∧ y.quietSquares = x.quietSquares)
          ∧ (x.state ≠ .quietCheck ∨ (∀ r, x.record = some r → r.sub ≠ .measuring ∧ r.sub ≠ .retryWait) →
            y.stageTimer = x.stageTimer)
          ∧ (x.state ≠ .sweeping ∨ x.tone.mode ≠ .segment ∨ x.record = none → y.engine = x.engine))
      ∧ (∀ n : NestId, (t.dev.nest n).state = (s.dev.nest n).state ∧ (t.dev.nest n).record = (s.dev.nest n).record
          ∧ (∀ (r : UnitRecord) (p : Plan) (k : Nat) (w : WindowSpan), (s.dev.nest n).state = .sweeping →
            (s.dev.nest n).tone.mode = .segment → (s.dev.nest n).record = some r → s.dev.planOf r = p →
            (s.dev.nest n).engine.closed = k → windowSpan (s.dev.segmentOf r) r.dwell p.header.acousticDelay k = w →
            (t.dev.nest n).engine.closed = k
            ∧ (k < windowCount (s.dev.segmentOf r) r.dwell → w.micStart ≤ (s.dev.nest n).tone.timer →
              (s.dev.nest n).tone.timer < w.micEnd →
              ∃ o, (t.dev.nest n).engine.window = some o
                ∧ o.samples = (s.dev.nest n).windowSamples ++ [t.dev.nestPort.mic[n]]
                ∧ o.ambient = (((s.dev.nest n).engine.window.map OpenWindow.ambient).getD [])
                    ++ [t.dev.nestPort.ambient[s.dev.groupOf n]]
                ∧ o.micSquares = (((s.dev.nest n).engine.window.map OpenWindow.micSquares).getD 0)
                    + (t.dev.nestPort.mic[n]).toInt.natAbs ^ 2
                ∧ o.micPeak = max (((s.dev.nest n).engine.window.map OpenWindow.micPeak).getD 0)
                    (t.dev.nestPort.mic[n]).toInt.natAbs
                ∧ o.ambientSquares = (((s.dev.nest n).engine.window.map OpenWindow.ambientSquares).getD 0)
                    + (t.dev.nestPort.ambient[s.dev.groupOf n]).toInt.natAbs ^ 2
                ∧ ((s.dev.nest n).engine.window = none →
                    o.cursor = r.cursor ∧ o.index = k ∧ o.driveStart = w.driveStart ∧ o.driveEnd = w.driveEnd
                    ∧ o.micStart = w.micStart ∧ o.micEnd = w.micEnd
                    ∧ o.frequency = p.openFrequency r.cursor (s.dev.segmentOf r) k))
            ∧ (windowCount (s.dev.segmentOf r) r.dwell ≤ k ∨ (s.dev.nest n).tone.timer < w.micStart
                ∨ w.micEnd ≤ (s.dev.nest n).tone.timer → (t.dev.nest n).engine = (s.dev.nest n).engine)))
      ∧ t.dev.notices = { s.dev.notices with timer := s.dev.notices.timer.map (· + 1) }
      ∧ t.dev.tables = { s.dev.tables with operationTimer :=
          if s.dev.tables.operation = .none then s.dev.tables.operationTimer else s.dev.tables.operationTimer + 1 }
      ∧ t = { s with dev := { s.dev with nestPort := t.dev.nestPort, nests := t.dev.nests, fixture := t.dev.fixture
                                         notices := t.dev.notices, tables := t.dev.tables } })

/-- The sync of the nest link. After 16 consecutive received frames LOST becomes LOCKED, LINK is set and the inputs
are debounced afresh; no nest changes (R179, R169, R27). After 8 consecutive frames not received LOCKED becomes LOST
and LINK is set; the taken levels stand and every debounce count is 0. Every nest in a test stage or in RELEASING then
stands in FAULT, loopback or not, its NEST_FAULT flag set; every other nest keeps its state. A unit in CLAMPING to
JUDGING ends early with LINK: in the order in which the nests are taken (the order is the row's, log 11), each takes a
free ring entry and a VOID label, and is discarded where none is left; a unit in LABEL_WAIT is discarded. Every pin of
those units falls (R24, R25, R27, R98, R169, R179). -/
def Obligations.NestLinkSync : Prop :=
  (∀ s : State, s.dev.nestPort.locked = false → 16 ≤ s.dev.nestPort.received →
    ∃ t, exec .nestLinkLocked s = .next t ∧ t.dev.nestPort = { s.dev.nestPort with locked := true }
      ∧ t.dev.notices = s.dev.notices.raise linkSource
      ∧ (∀ n : NestId, t.dev.fixture[n] = { s.dev.fixture[n] with count := Vector.replicate 4 0 })
      ∧ t = { s with dev := { s.dev with
          nestPort := t.dev.nestPort, notices := t.dev.notices, fixture := t.dev.fixture } })
  ∧ ∀ (s : State) (order : List NestId), s.dev.nestPort.locked = true → 8 ≤ s.dev.nestPort.missed →
    UnitsKept s.dev →
    ∃ t, exec (.nestLinkLoss order) s = .next t ∧ t.dev.nestPort.locked = false
      ∧ t.dev.notices.pending[linkSource] = true
      ∧ (∀ n, (t.dev.nest n).state =
          if (s.dev.nest n).state.testStage ∨ (s.dev.nest n).state = .releasing then .fault
          else (s.dev.nest n).state)
      ∧ (∀ n, (s.dev.nest n).state.testStage = true ∨ (s.dev.nest n).state = .releasing →
          (t.dev.nest n).record = none ∧ t.dev.notices.pending[nestFaultSource n] = true)
      ∧ (∀ n, (s.dev.nest n).state = .labelWait →
          (t.dev.yields.live[n]).discarded = (s.dev.yields.live[n]).discarded + 1
          ∧ (t.dev.yields.live[n]).labelled = (s.dev.yields.live[n]).labelled)
      ∧ (∀ (i : Nat) (n : NestId) (r : UnitRecord),
          ((nestOrder order).filter fun m => (s.dev.nest m).state.endsEarly)[i]? = some n →
          (s.dev.nest n).record = some r →
          (s.dev.labels.posted + i < 64 →
            t.dev.labels.ring[s.dev.labels.post + Fin.ofNat 64 i] = some
              { label := earlyEndLabel (s.dev.labels.counter + BitVec.ofNat 32 i) n
                  { r with failures := addFailure r.failures .link }
                chain := none }
            ∧ (t.dev.yields.live[n]).labelled = (s.dev.yields.live[n]).labelled + 1
            ∧ (t.dev.yields.live[n]).discarded = (s.dev.yields.live[n]).discarded)
          ∧ (64 ≤ s.dev.labels.posted + i →
            (t.dev.yields.live[n]).discarded = (s.dev.yields.live[n]).discarded + 1
            ∧ (t.dev.yields.live[n]).labelled = (s.dev.yields.live[n]).labelled))
      ∧ t.dev.labels.posted = s.dev.labels.posted
          + min ((nestOrder order).filter fun m => (s.dev.nest m).state.endsEarly).length (64 - s.dev.labels.posted)
      ∧ t.dev.labels.waitQueue = []
      ∧ (∀ b, (t.dev.tables.bank b).pins = (s.dev.tables.bank b).pins - s.dev.pinnedUnits b)
      ∧ ∀ n : NestId, t.dev.fixture[n] = { s.dev.fixture[n] with count := Vector.replicate 4 0 }

/-- What the generators drive. The sample of a frame is 0 in SILENT and in a SILENCE segment, in PASS the slot's of the
last controller frame row, which the model takes as the frame of the same period (R49; DESIGN CHOICE, log 3), and
otherwise the tone of the applied level at the phase; the phase then advances by the frequency: PILOT FREQUENCY in a
lock pilot and a PILOT segment, START FREQUENCY in a STEP segment and in a chirp's settle, and in a chirp's measured
portion a value between the frequencies at the two ends of the frame, which run from START FREQUENCY to END FREQUENCY
and are one where those are equal (R33 to R36, R44 to R46). A tone is 0 at phase 0 and at half a turn, not negative in
the first half turn and not positive in the second, and peaks at full scale, 32,767, at 0.0 dBFS (R35, R36, R178).
Which step a sample between two takes, and where in the bracket a chirp's advance lies, are free (log 8). -/
def Obligations.DriveSamples : Prop :=
  (∀ (s : State) (frame : Option NestFrame), s.dev.frameDue = false →
    ∃ t, exec (.nestLinkFrame frame) s = .next t ∧ ∀ n : NestId,
      ((s.dev.nest n).tone.mode = .silent →
        t.dev.nestPort.drive[n] = 0 ∧ (t.dev.nest n).tone = (s.dev.nest n).tone)
      ∧ (∀ i : Fin 2, (s.dev.nest n).tone.mode = .pass i →
        t.dev.nestPort.drive[n] = s.dev.controllerPort.slots[i] ∧ (t.dev.nest n).tone = (s.dev.nest n).tone)
      ∧ ∀ (r : UnitRecord) (h : PlanHeader) (x : Segment) (g : ToneGenerator), (s.dev.nest n).record = some r →
        (s.dev.planOf r).header = h → s.dev.segmentOf r = x → (s.dev.nest n).tone = g →
        (g.mode = .lock → t.dev.nestPort.drive[n] = toneSample (min 0 (h.pilotLevel + g.gain)) g.phase
          ∧ (t.dev.nest n).tone.phase = (g.phase + h.pilotFrequency * 2 ^ 32) % (96000 * 2 ^ 32))
        ∧ (g.mode = .segment →
          t.dev.nestPort.drive[n] = (if x.kind = .silence then 0
            else toneSample (min 0 (x.level + r.lockedGain.getD 0)) g.phase)
          ∧ (∀ f : Nat, (x.kind = .pilot ∧ f = h.pilotFrequency) ∨ (x.kind = .step ∧ f = x.startFrequency)
              ∨ (x.kind = .chirp ∧ g.timer < 96 * x.settle * r.dwell ∧ f = x.startFrequency) →
            (t.dev.nest n).tone.phase = (g.phase + f * 2 ^ 32) % (96000 * 2 ^ 32))
          ∧ (∀ portion u : Nat, x.kind = .chirp → g.timer = 96 * x.settle * r.dwell + u →
            portion = 96 * x.duration * r.dwell - 96 * x.settle * r.dwell →
            ∃ a : Nat, (t.dev.nest n).tone.phase = (g.phase + a) % (96000 * 2 ^ 32)
              ∧ min (chirpAdvanceAt x.startFrequency x.endFrequency portion u)
                  (chirpAdvanceAt x.startFrequency x.endFrequency portion (u + 1)) ≤ a
              ∧ a ≤ max (chirpAdvanceAt x.startFrequency x.endFrequency portion u)
                  (chirpAdvanceAt x.startFrequency x.endFrequency portion (u + 1)))))
  ∧ (∀ f0 f1 portion : Nat, 0 < portion → 0 < f0 → chirpAdvanceAt f0 f1 portion 0 = f0 * 2 ^ 32
      ∧ chirpAdvanceAt f0 f1 portion portion = f1 * 2 ^ 32
      ∧ ∀ u : Nat, chirpAdvanceAt f0 f0 portion u = f0 * 2 ^ 32)
  ∧ (∀ (level : Int) (phase : Nat), toneSample level 0 = 0 ∧ toneSample level (48000 * 2 ^ 32) = 0
      ∧ (toneSample level phase).toInt.natAbs ≤ 32767
      ∧ (phase < 48000 * 2 ^ 32 → 0 ≤ (toneSample level phase).toInt)
      ∧ (48000 * 2 ^ 32 ≤ phase → phase < 96000 * 2 ^ 32 → (toneSample level phase).toInt ≤ 0))
  ∧ toneSample 0 (24000 * 2 ^ 32) = 32767 ∧ toneSample 0 (72000 * 2 ^ 32) = -32767

/-! ## The controller link -/

/-- One frame of the controller link. While the sync change of the frames before is due the row changes nothing (log
4). Otherwise: each monitor slot carries the sample its selection names (R51): zero, a nest's microphone sample after
the loopback selection, its drive sample or its drive-sense sample, or a group's ambient sample; which samples are of
the same frame period is the model's form: those of the last NEST_LINK_FRAME row (log 3). In LOCKED the next bytes of
the message being sent stand in consecutive positions, from position 0 on by the model's choice (log 15), with idle
bytes after them, and leave the message; the four inbound positions reach the parser in order, which changes nothing
but the parser, its complete messages, the Discard Counter and DISCARD; in HOLDOVER four idle bytes are sent, the
slots are zero and no byte is taken (R180, R181, R182). A frame not received in LOCKED reaches the parser as four idle
bytes or not at all (log 16). The consecutive frames received and not received are counted (R180). No nest changes. -/
def Obligations.ControllerLinkFrameCarries : Prop :=
  ∀ (s : State) (frame : Option ControllerFrame),
    (s.dev.controllerPort.frameDue = true → exec (.controllerLinkFrame frame) s = .next s)
    ∧ (s.dev.controllerPort.frameDue = false → ∃ t, exec (.controllerLinkFrame frame) s = .next t
      ∧ (∀ i : Fin 2,
          (s.dev.controllerPort.monitor[i] = .silence → t.dev.controllerPort.outMonitor[i] = 0)
          ∧ (∀ n : NestId,
            (s.dev.controllerPort.monitor[i] = .mic n → t.dev.controllerPort.outMonitor[i] = s.dev.nestPort.mic[n])
            ∧ (s.dev.controllerPort.monitor[i] = .drive n →
              t.dev.controllerPort.outMonitor[i] = s.dev.nestPort.drive[n])
            ∧ (s.dev.controllerPort.monitor[i] = .sense n →
              t.dev.controllerPort.outMonitor[i] = s.dev.nestPort.sense[n]))
          ∧ ∀ g : GroupId, s.dev.controllerPort.monitor[i] = .ambient g →
            t.dev.controllerPort.outMonitor[i] = s.dev.nestPort.ambient[g])
      ∧ (∀ i : Fin 4, t.dev.controllerPort.outBytes[i] =
          if s.dev.controllerPort.locked then (s.mgmt.sending.bind fun x => x.left[i.val]?) else none)
      ∧ t.mgmt.sending = (if s.dev.controllerPort.locked then
            s.mgmt.sending.map fun x => { x with left := x.left.drop 4 }
          else s.mgmt.sending)
      ∧ (t.mgmt.idlePassed = false ↔ s.dev.controllerPort.locked = true
          ∧ ∃ x, s.mgmt.sending = some x ∧ 4 ≤ x.left.length)
      ∧ (∀ f, frame = some f → s.dev.controllerPort.locked = true → t.dev.controllerPort.slots = f.slots
          ∧ t.mgmt = { (f.bytes.toList.foldl State.feedByte s).mgmt with
              sending := t.mgmt.sending, idlePassed := t.mgmt.idlePassed }
          ∧ t.dev.notices = (f.bytes.toList.foldl State.feedByte s).dev.notices)
      ∧ (frame = none → s.dev.controllerPort.locked = true →
          t.mgmt = { s.mgmt with sending := t.mgmt.sending, idlePassed := t.mgmt.idlePassed }
            ∧ t.dev.notices = s.dev.notices
          ∨ t.mgmt = { ([none, none, none, none].foldl State.feedByte s).mgmt with
              sending := t.mgmt.sending, idlePassed := t.mgmt.idlePassed }
            ∧ t.dev.notices = ([none, none, none, none].foldl State.feedByte s).dev.notices)
      ∧ (frame = none ∨ s.dev.controllerPort.locked = false → ∀ i : Fin 2, t.dev.controllerPort.slots[i] = 0)
      ∧ (s.dev.controllerPort.locked = false →
          t.mgmt = { s.mgmt with sending := t.mgmt.sending, idlePassed := t.mgmt.idlePassed }
          ∧ t.dev.notices = s.dev.notices)
      ∧ t.mgmt.queue = s.mgmt.queue ∧ t.mgmt.replies = s.mgmt.replies ∧ t.mgmt.credit = s.mgmt.credit
      ∧ t.dev.controllerPort.locked = s.dev.controllerPort.locked
      ∧ t.dev.controllerPort.received = (if frame = none then 0 else s.dev.controllerPort.received + 1)
      ∧ t.dev.controllerPort.missed = (if frame = none then s.dev.controllerPort.missed + 1 else 0)
      ∧ t.dev.controllerPort.monitor = s.dev.controllerPort.monitor
      ∧ t = { s with mgmt := t.mgmt, dev := { s.dev with
          controllerPort := t.dev.controllerPort, notices := t.dev.notices } })

/-- The Controller Link Port goes to LOCKED after 16 received frames and to HOLDOVER after 8 not received; each change
sets LINK. At LOCKED the parser waits for an idle byte. At HOLDOVER a partly received message is discarded and
counted, pass-through ends on every nest, and a message not sent to its end will be sent again whole (R180, R50). -/
def Obligations.ControllerLinkSync : Prop :=
  (∀ s : State, s.dev.controllerPort.locked = false → 16 ≤ s.dev.controllerPort.received →
    ∃ t, exec .controllerLinkLocked s = .next t ∧ t.mgmt.parser = .hunt
      ∧ t.dev.controllerPort = { s.dev.controllerPort with locked := true }
      ∧ t.dev = { s.dev with
          controllerPort := t.dev.controllerPort, notices := s.dev.notices.raise linkSource }
      ∧ t.mgmt = { s.mgmt with parser := .hunt, partBytes := [] })
  ∧ ∀ s : State, s.dev.controllerPort.locked = true → 8 ≤ s.dev.controllerPort.missed →
    ∃ t, exec .controllerLinkHoldover s = .next t ∧ t.dev.controllerPort.locked = false
      ∧ t.dev.notices.pending[linkSource] = true ∧ t.mgmt.parser = .hunt
      ∧ t.mgmt.discards = (if s.mgmt.parser = .receiving then s.mgmt.discards + 1 else s.mgmt.discards)
      ∧ (∀ n, (t.dev.nest n).tone.mode = match (s.dev.nest n).tone.mode with
          | .pass _ => .silent
          | other => other)
      ∧ (∀ n, t.dev.nest n = { s.dev.nest n with tone := (t.dev.nest n).tone })
      ∧ (∀ x, s.mgmt.sending = some x → x.left ≠ [] → t.mgmt.sending = some { x with left := x.bytes })
      ∧ t.mgmt.queue = s.mgmt.queue ∧ t.mgmt.replies = s.mgmt.replies ∧ t.mgmt.credit = s.mgmt.credit

/-! ## Messages -/

/-- The inbound parser. A whole message that follows an idle byte is parsed to its check byte: it waits complete, and
the parser hunts for the next idle byte (R181). The rows of R182 one by one: in HUNT an idle byte gives READY and any
other byte is ignored; in READY an idle byte is ignored and any other begins a message; in RECEIVING an idle byte
discards the message and gives READY, a length byte above 240 discards it and gives HUNT, and any other byte joins it.
A discard is counted, and the counter's wrap sets DISCARD. -/
def Obligations.ParserCompletesMessage : Prop :=
  ∀ s : State,
    (∀ (type tag : Byte) (body : List Byte), s.mgmt.parser = .ready → body.length ≤ 240 →
      (((messageBytes type tag body).map some).foldl State.feedByte s)
        = { s with mgmt := { s.mgmt with
            parser := .hunt, partBytes := [], completed := s.mgmt.completed ++ [messageBytes type tag body] } }
      ∧ sumBytes (messageBytes type tag body) = 0)
    ∧ (s.mgmt.parser = .hunt → s.feedByte none = { s with mgmt := { s.mgmt with parser := .ready } }
        ∧ ∀ b : Byte, s.feedByte (some b) = s)
    ∧ (s.mgmt.parser = .ready → s.feedByte none = s
        ∧ ∀ b : Byte, s.feedByte (some b) = { s with mgmt := { s.mgmt with parser := .receiving, partBytes := [b] } })
    ∧ (s.mgmt.parser = .receiving →
        s.feedByte none = { s with
          mgmt := { s.mgmt with parser := .ready, partBytes := [], discards := s.mgmt.discards + 1 }
          dev := if s.mgmt.discards = 255 then s.dev.raise discardSource else s.dev }
        ∧ (∀ b : Byte, s.mgmt.partBytes.length = 2 → 240 < b.toNat → s.feedByte (some b) = { s with
            mgmt := { s.mgmt with parser := .hunt, partBytes := [], discards := s.mgmt.discards + 1 }
            dev := if s.mgmt.discards = 255 then s.dev.raise discardSource else s.dev })
        ∧ ∀ b : Byte, s.mgmt.partBytes.length ≠ 2 ∨ b.toNat ≤ 240 →
          s.mgmt.partBytes.length < 3 ∨ s.mgmt.partBytes.length ≠ (s.mgmt.partBytes.getD 2 0).toNat + 3 →
          s.feedByte (some b) = { s with mgmt := { s.mgmt with partBytes := s.mgmt.partBytes ++ [b] } })

/-- MESSAGE_RECEIVED: a wrong sum, or a credit of 8, discards and counts the message; otherwise its command joins the
tail of the Command Queue and the credit rises by one. The Discard Counter wraps from 255 to 0 and then sets DISCARD
(R182, R183). -/
def Obligations.MessageTakenOrDiscarded : Prop :=
  ∀ (s : State) (bytes : List Byte) (rest : List (List Byte)), s.mgmt.completed = bytes :: rest →
    (sumBytes bytes = 0 → s.mgmt.credit < 8 →
      exec .messageReceived s = .next { s with mgmt := { s.mgmt with
        completed := rest, credit := s.mgmt.credit + 1, queue := s.mgmt.queue ++ [commandOf bytes] } })
    ∧ (sumBytes bytes ≠ 0 ∨ 8 ≤ s.mgmt.credit →
      exec .messageReceived s = .next { s with
        mgmt := { s.mgmt with completed := rest, discards := s.mgmt.discards + 1 }
        dev := if s.mgmt.discards = 255 then s.dev.raise discardSource else s.dev })

/-- MESSAGE_CHOICE with the link LOCKED, no message being sent and an idle position passed: a notice when one is offered
and no reply waits or three replies have gone in a row; otherwise the oldest reply; otherwise nothing. The notice's body
is frozen, its flag is cleared with what its source recorded, and the count becomes 0; a reply raises the count to at
most 3 (R185, R190). MESSAGE_SENT after the check byte: a reply's command is answered and the credit falls by one; a
notice changes no credit (R183). The bytes of a notice are those of Table 11-7: the source index and what the source
adds, bits without a meaning being 0 (log 44), in a message of type 81h and tag 00h; those of a reply are its command's
type, its status and its data, in a message of type 80h and the command's tag; a message is type, tag, length, body and
a check byte that makes all its bytes sum to 0 (R181, R184, R191). -/
def Obligations.OutboundMessages : Prop :=
  (∀ s : State, s.dev.controllerPort.locked = true → s.mgmt.sending = none → s.mgmt.idlePassed = true →
    (∀ i, s.dev.notices.offered = some i → s.mgmt.replies = [] ∨ s.mgmt.consecutive = 3 →
      ∃ t, exec .messageChoice s = .next t
        ∧ t.mgmt = { s.mgmt with consecutive := 0, sending := t.mgmt.sending }
        ∧ t.mgmt.sending = some (.whole false (noticeBytes (s.dev.noticeBody s.mgmt.discards i)))
        ∧ t.dev = s.dev.selectNotice i ∧ t.dev.notices.pending = s.dev.notices.pending.set i false
        ∧ t = { s with mgmt := t.mgmt, dev := t.dev })
    ∧ (∀ r rest, s.mgmt.replies = r :: rest →
        s.dev.notices.offered = none ∨ s.mgmt.consecutive < 3 →
      exec .messageChoice s = .next { s with mgmt := { s.mgmt with
        replies := rest, sending := some (.whole true r.bytes), consecutive := min 3 (s.mgmt.consecutive + 1) } })
    ∧ (s.dev.notices.offered = none → s.mgmt.replies = [] → exec .messageChoice s = .next s))
  ∧ (∀ (s : State) (bytes : List Byte) (isReply : Bool),
    s.mgmt.sending = some { isReply := isReply, bytes := bytes, left := [] } →
    exec .messageSent s = .next { s with mgmt := { s.mgmt with
      sending := none, credit := if isReply then s.mgmt.credit - 1 else s.mgmt.credit } })
  ∧ (∀ (type tag : Byte) (body : List Byte),
      (∃ check, messageBytes type tag body = [type, tag, BitVec.ofNat 8 body.length] ++ body ++ [check])
      ∧ sumBytes (messageBytes type tag body) = 0 ∧ noticeBytes body = messageBytes 0x81 0x00 body)
  ∧ (∀ r : Reply, r.bytes = messageBytes 0x80 r.tag (r.type :: r.status.code :: r.data.bytes))
  ∧ (∀ x ∈ ([(.ok, 0), (.busy, 1), (.refusedState, 2), (.badField, 3), (.badLength, 4), (.unknownType, 5),
        (.loadBlocked, 6), (.noTables, 7), (.refusedCal, 8)] : List (Status × Byte)), x.1.code = x.2)
  ∧ ∀ (d : Device) (discards : Byte),
    (∀ n : NestId, d.noticeBody discards (nestFaultSource n)
        = [BitVec.ofNat 8 n.val, (d.nest n).state.code, (d.notices.refusal[n].map Status.code).getD 0xFF])
    ∧ (∀ n : NestId, ∃ changed taken : Byte,
        d.noticeBody discards (fixtureSource n) = [BitVec.ofNat 8 (4 + n.val), changed, taken]
        ∧ (∀ l : InputLine, changed.getLsbD (inputIndex l).val = (d.fixture[n]).changed[inputIndex l]
          ∧ taken.getLsbD (inputIndex l).val = d.taken n l)
        ∧ ∀ i : Nat, 4 ≤ i → changed.getLsbD i = false ∧ taken.getLsbD i = false)
    ∧ (∀ (n : NestId) (cause : CalCause) (plan : Option PlanId), d.notices.calCause[n] = some (cause, plan) →
        d.noticeBody discards (calSource n)
          = [BitVec.ofNat 8 (8 + n.val), cause.code, (plan.map fun p => BitVec.ofNat 8 p.val).getD 0xFF]
            ++ (List.finRange 8).map fun p => (d.calibration.record n p).state.code)
    ∧ (∃ newest : Word32, d.noticeBody discards labelsSource
          = 12 :: bytes16 (BitVec.ofNat 16 (min 65535 d.notices.labelsPosted.toNat)) ++ bytes32 newest
            ++ [BitVec.ofNat 8 d.labels.posted]
        ∧ (d.labels.posted = 0 → newest = d.labels.counter - 1)
        ∧ ∀ e, d.labels.posted ≠ 0 → d.labels.ring[d.labels.post - 1] = some e → newest = e.label.number)
    ∧ (∃ nests : List Byte, d.noticeBody discards ringFullSource
          = [13, BitVec.ofNat 8 d.labels.waitQueue.length] ++ nests ∧ nests.length = 4
        ∧ ∀ i : Nat, i < 4 →
          nests[i]? = some ((d.labels.waitQueue[i]?.map fun n => BitVec.ofNat 8 n.val).getD 0xFF))
    ∧ d.noticeBody discards captureLowSource
        = [14, BitVec.ofNat 8 d.pool.free.length, BitVec.ofNat 8 d.pool.lowThreshold]
    ∧ (∃ generation : Word32, d.noticeBody discards bankSource
          = [15, d.tables.bankA.state.code, d.tables.bankB.state.code] ++ bytes32 generation
        ∧ (d.tables.activeBank = none → generation = 0)
        ∧ ∀ b, d.tables.activeBank = some b → generation = (d.tables.bank b).generation)
    ∧ (∃ links : Byte, d.noticeBody discards linkSource = [16, links]
        ∧ links.getLsbD 0 = d.controllerPort.locked ∧ links.getLsbD 1 = d.nestPort.locked
        ∧ ∀ i : Nat, 2 ≤ i → links.getLsbD i = false)
    ∧ d.noticeBody discards discardSource = [17, discards]

/-- The source offered bids, and every other source that bids has a lower bid; nothing is offered exactly when no
source bids. A source bids when its flag is set and its class priority is 1 or more, with priority times 32 plus its
index (R190). A notice consumes what its source recorded: NEST_FAULT drops the refusal code, FIXTURE empties the
changed set, CAL drops the cause, LABELS restarts its count and stops its timer; the other sources record nothing.
Nothing else changes but the flag (R190, R191). -/
def Obligations.NoticesOffered : Prop :=
  (∀ a : NoticeArbiter,
    (∀ i, a.offered = some i → ∃ b, a.bid i = some b ∧ ∀ j c, a.bid j = some c → c ≤ b ∧ (c = b → j = i))
    ∧ (a.offered = none ↔ ∀ i, a.bid i = none)
    ∧ ∀ i : SourceId, a.bid i = if a.pending[i] = true ∧ 1 ≤ a.priorities[sourceClass i]
        then some (a.priorities[sourceClass i] * 32 + i.val) else none)
  ∧ ∀ (d : Device) (n : NestId),
    d.selectNotice (nestFaultSource n) = { d with notices := { d.notices with
        pending := d.notices.pending.set (nestFaultSource n) false, refusal := d.notices.refusal.set n none } }
    ∧ d.selectNotice (fixtureSource n) = { d with
        notices := { d.notices with pending := d.notices.pending.set (fixtureSource n) false }
        fixture := d.fixture.set n { d.fixture[n] with changed := Vector.replicate 4 false } }
    ∧ d.selectNotice (calSource n) = { d with notices := { d.notices with
        pending := d.notices.pending.set (calSource n) false, calCause := d.notices.calCause.set n none } }
    ∧ d.selectNotice labelsSource = { d with notices := { d.notices with
        pending := d.notices.pending.set labelsSource false, labelsPosted := 0, timer := none } }
    ∧ ∀ i : SourceId, 13 ≤ i.val →
      d.selectNotice i = { d with notices := { d.notices with pending := d.notices.pending.set i false } }

/-- A label posted by JUDGE_COMPLETE counts. It raises LABELLED of its nest and one more counter: for a PRODUCTION unit
BIN n where its class is PASS or FAIL and n its bin, VOIDED where its class is VOID, and MARGINAL where its failure set
carries that class; for an ENGINEERING unit ENGINEERING; and no other counter (R113, Table 6-2). One of a PRODUCTION
unit enters its nest's drift window; a window that reaches its length restarts and, where its marginal labels reach the
limit, demotes to DUE every OK record of the nest whose plan is reference-valid, and sets the nest's CAL flag with cause
DRIFT (R120, R121, R137). An ENGINEERING unit's enters none. Every posting raises the labels-posted count by one (below
its last value, log 17), starts the coalescing timer from zero when the count was 0, and sets LABELS when the count
reaches the coalescing count (R192). -/
def Obligations.PostingCounts : Prop :=
  ∀ (s : State) (n : NestId) (r : UnitRecord) (p : Plan) (i : Fin 16) (v : VerdictEntry) (f : FailureSet)
    (w : DriftWindow) (marginals : Nat),
    (s.dev.nest n).state = .judging → (s.dev.nest n).record = some r → r.role ≠ .golden → s.dev.planOf r = p →
    f = judgedFailures p r → selectEntry (s.dev.tables.bank r.bank).rows f = some i →
    (s.dev.tables.bank r.bank).rows.verdicts[i] = v → v.retest = false ∨ p.header.retestLimit ≤ r.tries - 1 →
    s.dev.labels.posted < 64 → s.dev.calibration.drift[n] = w →
    marginals = (if hasFailure f .marginal then w.marginals + 1 else w.marginals) →
    ∃ t, exec (.judgeComplete n) s = .next t
      ∧ t.dev.yields = { s.dev.yields with live := s.dev.yields.live.set n (counted s.dev.yields.live[n] r.role
          (if v.cls = .void then none else some v.bin) (hasFailure f .marginal)) }
      ∧ (∀ m : NestId, m ≠ n → t.dev.calibration.drift[m] = s.dev.calibration.drift[m]
          ∧ ∀ q, t.dev.calibration.record m q = s.dev.calibration.record m q)
      ∧ (r.role = .engineering → t.dev.calibration = s.dev.calibration)
      ∧ (r.role = .production →
        (w.labels + 1 < w.length →
          t.dev.calibration.drift[n] = { w with labels := w.labels + 1, marginals := marginals })
        ∧ (w.length ≤ w.labels + 1 → t.dev.calibration.drift[n] = { w with labels := 0, marginals := 0 })
        ∧ (w.labels + 1 < w.length ∨ marginals < w.limit →
          t.dev.calibration.records = s.dev.calibration.records
          ∧ t.dev.notices.calCause = s.dev.notices.calCause
          ∧ t.dev.notices.pending[calSource n] = s.dev.notices.pending[calSource n])
        ∧ (w.length ≤ w.labels + 1 → w.limit ≤ marginals →
          (∀ q, t.dev.calibration.record n q
            = if (s.dev.calibration.record n q).state = .ok ∧ s.dev.activeReferenceValid q = true then
                { s.dev.calibration.record n q with state := .due }
              else s.dev.calibration.record n q)
          ∧ ((∃ q, (s.dev.calibration.record n q).state = .ok ∧ s.dev.activeReferenceValid q = true) →
            t.dev.notices.pending[calSource n] = true ∧ t.dev.notices.calCause[n] = some (.drift, none))))
      ∧ (s.dev.notices.labelsPosted ≠ 0xFFFFFFFF →
          t.dev.notices.labelsPosted = s.dev.notices.labelsPosted + 1)
      ∧ t.dev.notices.timer = (if s.dev.notices.labelsPosted = 0 then some 0 else s.dev.notices.timer)
      ∧ t.dev.notices.pending[labelsSource] = (s.dev.notices.pending[labelsSource]
          || decide (s.dev.notices.coalescingCount ≤ t.dev.notices.labelsPosted.toNat))

/-- A message whose type is not one of 01h to 1Dh is answered UNKNOWN_TYPE, and a command whose body length does not
fit its type is answered BAD_LENGTH; neither changes anything else (R184, R188). The lengths that fit are those of
Table 11-1, and for TABLE WRITE those of its kinds (R188). -/
def Obligations.UnfitMessagesAnswered : Prop :=
  (∀ (s : State) (type tag : Byte) (body : List Byte), s.Heads type tag body →
    (isCommandType type = false →
      exec (.unknownType tag type) s = .next (s.repliedWith type tag .unknownType .none s.dev))
    ∧ ∀ c : Instr, rowCommand c = some (type, tag) → lengthFits type body = false →
      exec c s = .next (s.repliedWith type tag .badLength .none s.dev))
  ∧ (∀ type : Byte, isCommandType type = true ↔ 0x01 ≤ type.toNat ∧ type.toNat ≤ 0x1D)
  ∧ (∀ x ∈ ([(0x01, [1]), (0x02, [0]), (0x03, [24]), (0x04, [1]), (0x05, [3]), (0x06, [2]), (0x07, [2]), (0x08, [2]),
        (0x09, [4]), (0x0A, [2]), (0x0B, [1]), (0x0C, [6]), (0x0D, [4]), (0x0F, [0, 3]), (0x10, [0]), (0x11, [0]),
        (0x12, [0]), (0x13, [1]), (0x14, [2]), (0x15, [2]), (0x16, [2]), (0x17, [2]), (0x18, [2]), (0x19, [23]),
        (0x1A, [6]), (0x1B, [5]), (0x1C, [13]), (0x1D, [0, 1])] : List (Byte × List Nat)),
      ∀ body : List Byte, lengthFits x.1 body = true ↔ body.length ∈ x.2)
  ∧ lengthFits 0x0E [] = false
  ∧ ∀ (kind : Byte) (rest : List Byte),
    (kind.toNat = 0 → (lengthFits 0x0E (kind :: rest) = true ↔ rest.length = 42))
    ∧ (kind.toNat = 1 ∨ kind.toNat = 2 ∨ kind.toNat = 4 → (lengthFits 0x0E (kind :: rest) = true ↔ rest.length = 18))
    ∧ (kind.toNat = 3 → (lengthFits 0x0E (kind :: rest) = true ↔ rest.length = 6))
    ∧ (4 < kind.toNat → (lengthFits 0x0E (kind :: rest) = true ↔ 2 ≤ rest.length ∧ rest.length ≤ 42))

/-- VERSION READ is taken in every state and changes nothing; the reply is OK with the part code, one fixed revision
byte, the capacities table and the samples of a capture block (R187). -/
def Obligations.VersionReadReplies : Prop :=
  ∃ revision : Byte, ∀ (s : State) (tag : Byte), s.Heads 0x02 tag [] →
    exec (.versionRead tag) s = .next (s.repliedWith 0x02 tag .ok
      (.version [0x4F, 0x50, 0x52, 0x49, 0x4C, 0x41, 0x4E, 0x20, 0x54, 0x34, revision, 4, 2, 8, 24, 32, 16, 16, 64, 64,
        8, 18, 240, 0x10, 0x00]) s.dev)

/-- STATUS READ: the reply is OK with the body of 40 bytes of Table 11-8: nest states, gates, history sets, the two
banks' states, generations and pin counts, the load flags, the error detail, the post and return pointers, the free
block count, the link states, the pending notice set and the Discard Counter. History-clear YES then clears all four
history sets and nothing else; another value is answered BAD_FIELD (R194, R8). -/
def Obligations.StatusReadReplies : Prop :=
  ∀ (s : State) (tag : Byte) (b : Byte), s.Heads 0x01 tag [b] →
    (s.dev.statusBody s.mgmt.discards).length = 40
    ∧ (∃ (gates flags links : Byte) (detail : List Byte) (sources : BitVec 24), s.dev.statusBody s.mgmt.discards
        = [(s.dev.nest 0).state.code, (s.dev.nest 1).state.code, (s.dev.nest 2).state.code, (s.dev.nest 3).state.code,
           gates]
          ++ bytes16 (s.dev.nest 0).history ++ bytes16 (s.dev.nest 1).history ++ bytes16 (s.dev.nest 2).history
          ++ bytes16 (s.dev.nest 3).history
          ++ [s.dev.tables.bankA.state.code, s.dev.tables.bankB.state.code]
          ++ bytes32 s.dev.tables.bankA.generation ++ bytes32 s.dev.tables.bankB.generation
          ++ [BitVec.ofNat 8 s.dev.tables.bankA.pins, BitVec.ofNat 8 s.dev.tables.bankB.pins, flags] ++ detail
          ++ [BitVec.ofNat 8 s.dev.labels.post.val, BitVec.ofNat 8 s.dev.labels.ret.val,
              BitVec.ofNat 8 s.dev.pool.free.length, links,
              sources.extractLsb' 16 8, sources.extractLsb' 8 8, sources.extractLsb' 0 8, s.mgmt.discards]
        ∧ (∀ n : NestId, gates.getLsbD n.val = (s.dev.nest n).gateOpen)
        ∧ (∀ i : Nat, 4 ≤ i → gates.getLsbD i = false)
        ∧ flags.getLsbD 0 = s.dev.tables.loadError ∧ flags.getLsbD 1 = s.dev.tables.sequenceError
        ∧ (∀ i : Nat, 2 ≤ i → flags.getLsbD i = false)
        ∧ links.getLsbD 0 = s.dev.controllerPort.locked ∧ links.getLsbD 1 = s.dev.nestPort.locked
        ∧ (∀ i : Nat, 2 ≤ i → links.getLsbD i = false)
        ∧ (∀ i : SourceId, sources.getLsbD i.val = s.dev.notices.pending[i])
        ∧ (∀ i : Nat, 18 ≤ i → sources.getLsbD i = false)
        ∧ (s.dev.tables.detail = none → detail = [0, 0xFF, 0xFF, 0xFF, 0, 0])
        ∧ ∀ d, s.dev.tables.detail = some d → detail = [d.reason.code, (d.kind.map TableKind.code).getD 0xFF,
            (d.plan.map fun p => BitVec.ofNat 8 p.val).getD 0xFF, (d.row.map fun i => BitVec.ofNat 8 i.val).getD 0xFF]
          ++ bytes16 (d.computed.getD 0))
    ∧ (∀ w : Word16, bytes16 w = [w.extractLsb' 8 8, w.extractLsb' 0 8])
    ∧ (∀ w : Word32, bytes32 w = [w.extractLsb' 24 8, w.extractLsb' 16 8, w.extractLsb' 8 8, w.extractLsb' 0 8])
    ∧ exec (.statusRead tag (some false)) s
        = .next (s.repliedWith 0x01 tag .ok (.status (s.dev.statusBody s.mgmt.discards)) s.dev)
    ∧ (∃ e, exec (.statusRead tag (some true)) s
          = .next (s.repliedWith 0x01 tag .ok (.status (s.dev.statusBody s.mgmt.discards)) e)
        ∧ (∀ n, e.nest n = { s.dev.nest n with history := 0 }) ∧ e = { s.dev with nests := e.nests })
    ∧ exec (.statusRead tag none) s = .next (s.repliedWith 0x01 tag .badField .none s.dev)

/-! ## Nest commands -/

/-- NEST START whose fields pass check 1, on a nest that passes checks 2 to 6 for the effective role, starts the unit
and is answered OK (R9, R10). -/
def Obligations.NestStartTaken : Prop :=
  ∀ (s : State) (tag : Byte) (body : List Byte) (f : StartFields) (n : NestId) (role : Role) (p : PlanId) (b : BankId),
    s.Heads 0x03 tag body → startFieldsOf body = some f →
    f.nest.toNat = n.val → f.role = roleCode role → f.plan.toNat = p.val → f.serialLength.toNat ≤ 16 →
    (∀ c ∈ f.serial.toList.take f.serialLength.toNat, 0x20 ≤ c.toNat ∧ c.toNat ≤ 0x7E) →
    s.dev.Startable n (s.dev.effectiveRole n role) p b →
    ∃ e, exec (.nestStart tag f) s = .next (s.repliedWith 0x03 tag .ok .none e)
      ∧ UnitStarted s.dev e n (s.dev.effectiveRole n role) p b (f.serial.toList.take f.serialLength.toNat) f.lot

/-- The first check of Table 1-4 that fails gives the reply of NEST START, which then changes nothing: BAD_FIELD for a
field out of range; REFUSED_STATE for a nest not in LOADED, a gate CLOSED, the nest link LOST, or LID inactive with
its detector enabled outside loopback; NO_TABLES with no bank ACTIVE; BAD_FIELD for a plan not defined; REFUSED_CAL
for a PRODUCTION start on a record DUE or OUT; BAD_FIELD for a GOLDEN start of a plan that is not reference-valid
(R9). -/
def Obligations.NestStartRefused : Prop :=
  ∀ (s : State) (tag : Byte) (body : List Byte) (f : StartFields), s.Heads 0x03 tag body →
    startFieldsOf body = some f →
    (3 < f.nest.toNat ∨ 2 < f.role.toNat ∨ 7 < f.plan.toNat ∨ 16 < f.serialLength.toNat
        ∨ (∃ c ∈ f.serial.toList.take f.serialLength.toNat, c.toNat < 0x20 ∨ 0x7E < c.toNat) →
      exec (.nestStart tag f) s = .next (s.repliedWith 0x03 tag .badField .none s.dev))
    ∧ ∀ (n : NestId) (role : Role) (p : PlanId) (st : Status), f.nest.toNat = n.val → f.role = roleCode role →
      f.plan.toNat = p.val → f.serialLength.toNat ≤ 16 →
      (∀ c ∈ f.serial.toList.take f.serialLength.toNat, 0x20 ≤ c.toNat ∧ c.toNat ≤ 0x7E) →
      s.dev.StartRefused n (s.dev.effectiveRole n role) p st →
      exec (.nestStart tag f) s = .next (s.repliedWith 0x03 tag st .none s.dev)

/-- NEST ABORT is answered OK in every nest state. In CLAMPING to JUDGING the unit ends early with cause ABORTED, with
a VOID label when a ring entry is free and a discard otherwise; the nest goes to RELEASING, or LOADED in loopback. In
LABEL_WAIT the unit is discarded; MARKING ends with its label standing; FAULT is left by PRESENT's taken level;
elsewhere nothing happens (R23, R24, R25, R28). That the body's byte is the nest number is the model's choice (log
13). -/
def Obligations.NestAbort : Prop :=
  (∀ (s : State) (tag : Byte) (n : NestId) (r : UnitRecord),
    s.Heads 0x04 tag [BitVec.ofNat 8 n.val] → (s.dev.nest n).state.endsEarly = true →
    (s.dev.nest n).record = some r →
    ∃ e, exec (.nestAbort tag (BitVec.ofNat 8 n.val)) s = .next (s.repliedWith 0x04 tag .ok .none e)
      ∧ (e.nest n).state = s.dev.afterUnit n ∧ (e.nest n).tone.mode = .silent
      ∧ (s.dev.labels.posted < 64 → EndedWithLabel s.dev e n r .aborted
          ∧ (e.nest n).history = addEvent (s.dev.nest n).history .labelled)
      ∧ (64 ≤ s.dev.labels.posted → Discarded s.dev e n r ∧ (e.nest n).history = (s.dev.nest n).history))
  ∧ ∀ (s : State) (tag : Byte) (n : NestId), s.Heads 0x04 tag [BitVec.ofNat 8 n.val] →
    ((s.dev.nest n).state = .empty ∨ (s.dev.nest n).state = .loaded ∨ (s.dev.nest n).state = .releasing
        ∨ (s.dev.nest n).state = .done →
      exec (.nestAbort tag (BitVec.ofNat 8 n.val)) s = .next (s.repliedWith 0x04 tag .ok .none s.dev))
    ∧ (∀ r, (s.dev.nest n).state = .labelWait → (s.dev.nest n).record = some r →
      ∃ e, exec (.nestAbort tag (BitVec.ofNat 8 n.val)) s = .next (s.repliedWith 0x04 tag .ok .none e)
        ∧ (e.nest n).state = s.dev.afterUnit n ∧ Discarded s.dev e n r)
    ∧ ((s.dev.nest n).state = .marking →
      ∃ e, exec (.nestAbort tag (BitVec.ofNat 8 n.val)) s = .next (s.repliedWith 0x04 tag .ok .none e)
        ∧ (e.nest n).state = s.dev.afterUnit n ∧ (e.nest n).markClaim = false ∧ (e.nest n).record = none
        ∧ SameOtherNests s.dev e n ∧ e = { s.dev with nests := e.nests })
    ∧ ((s.dev.nest n).state = .fault → (s.dev.nest n).autoStart = none →
      ∃ e, exec (.nestAbort tag (BitVec.ofNat 8 n.val)) s = .next (s.repliedWith 0x04 tag .ok .none e)
        ∧ (e.nest n).state = (if (s.dev.nest n).loopback = true ∨ s.dev.taken n .present = true then .loaded
            else .empty)
        ∧ SameOtherNests s.dev e n ∧ e = { s.dev with nests := e.nests })

/-- The Permit Arbiter at work. A quiet start with no holder, an empty queue and no other nest in the loud set is
granted and begins; with a holder, or another nest in the loud set, it waits in the queue (R55). The lock pilot is a
loud start where its level at +12.0 dB exceeds the group's loud threshold: it is held while another nest holds the
permit, and begins otherwise, joining the loud set; below the threshold it begins whatever the arbiter holds (R53,
R56). When the holder gives the permit up, the head of the queue is granted it where no other nest is loud, and then
no held start begins; with an empty queue every held start of the group begins (R55, R57, R58). -/
def Obligations.ArbiterDecides : Prop :=
  (∀ (s : State) (n : NestId) (r : UnitRecord) (g : GroupId), (s.dev.nest n).state = .quietCheck →
    (s.dev.nest n).record = some r → r.sub = .retryWait → 9600 ≤ (s.dev.nest n).stageTimer → s.dev.groupOf n = g →
    ((s.dev.group g).holder = none → (s.dev.group g).queue = [] → (∀ m, m ≠ n → (s.dev.group g).loud[m] = false) →
      ∃ d, exec (.quietRetryWaitEnd n) s = .next { s with dev := d } ∧ d = Device.modGroup
        (s.dev.setNest n { s.dev.nest n with
          record := some { r with sub := .measuring }, stageTimer := 0, quietCount := 0, quietSquares := 0 })
        g (fun x => { x with holder := some n }))
    ∧ ((s.dev.group g).holder ≠ none
        ∨ ((s.dev.group g).queue = [] ∧ ∃ m, m ≠ n ∧ (s.dev.group g).loud[m] = true) →
      ∃ d, exec (.quietRetryWaitEnd n) s = .next { s with dev := d } ∧ d = Device.modGroup
        (s.dev.setNest n { s.dev.nest n with record := some { r with sub := .waitPermit } })
        g (fun x => { x with queue := x.queue ++ [n] })))
  ∧ (∀ (s : State) (n : NestId) (r : UnitRecord) (g : GroupId) (level : Int) (run total : Nat),
    (s.dev.nest n).state = .clamping → (s.dev.nest n).settling = some (run, total) → total ≤ run →
    (s.dev.nest n).record = some r → s.dev.groupOf n = g →
    level = min 0 ((s.dev.planOf r).header.pilotLevel + 120) →
    ((s.dev.group g).threshold < level → (∃ m, (s.dev.group g).holder = some m ∧ m ≠ n) →
      ∃ t, exec (.settleEnd n) s = .next t ∧ (t.dev.nest n).record = some { r with sub := .held }
        ∧ (t.dev.nest n).tone.mode = .silent ∧ t.dev.groups = s.dev.groups)
    ∧ ((s.dev.group g).threshold < level → (∀ m, (s.dev.group g).holder = some m → m = n) →
      ∃ t, exec (.settleEnd n) s = .next t ∧ (t.dev.nest n).record = some { r with sub := .locking }
        ∧ (t.dev.nest n).tone.mode = .lock ∧ (t.dev.nest n).tone.phase = 0 ∧ (t.dev.nest n).tone.timer = 0
        ∧ t.dev.groups = s.dev.groups.set g { s.dev.group g with loud := (s.dev.group g).loud.set n true })
    ∧ (level ≤ (s.dev.group g).threshold →
      ∃ t, exec (.settleEnd n) s = .next t ∧ (t.dev.nest n).record = some { r with sub := .locking }
        ∧ (t.dev.nest n).tone.mode = .lock ∧ (t.dev.nest n).tone.phase = 0 ∧ (t.dev.nest n).tone.timer = 0
        ∧ t.dev.groups = s.dev.groups))
  ∧ ∀ (s : State) (n : NestId) (r : UnitRecord) (g : GroupId), (s.dev.nest n).state = .quietCheck →
    (s.dev.nest n).record = some r → r.sub = .measuring → 4800 * r.dwell ≤ (s.dev.nest n).stageTimer →
    s.dev.groupOf n = g → (s.dev.nest n).isQuiet (s.dev.planOf r).header = false →
    r.quietAttempts < (s.dev.planOf r).header.quietRetries → (s.dev.group g).holder = some n →
    n ∉ (s.dev.group g).queue →
    ∃ t, exec (.quietWindowClose n r.quietAttempts) s = .next t
      ∧ ((s.dev.group g).queue = [] → (t.dev.group g).holder = none ∧ (t.dev.group g).queue = []
        ∧ ∀ (m : NestId) (q : UnitRecord), m ≠ n → s.dev.groupOf m = g → (s.dev.nest m).record = some q →
          q.sub = .held →
          ((s.dev.nest m).state = .levelLock → (t.dev.nest m).record = some { q with sub := .locking }
            ∧ (t.dev.nest m).tone.mode = .lock ∧ (t.dev.nest m).tone.phase = 0 ∧ (t.dev.nest m).tone.timer = 0)
          ∧ ((s.dev.nest m).state = .sweeping → (t.dev.nest m).record = some { q with sub := .running }
            ∧ (t.dev.nest m).tone.mode = .segment ∧ (t.dev.nest m).tone.phase = 0 ∧ (t.dev.nest m).tone.timer = 0)
          ∧ (t.dev.group g).loud[m] = ((s.dev.group g).loud[m] || s.dev.exceedsThreshold m))
      ∧ ∀ (h : NestId) (rest : List NestId) (q : UnitRecord), (s.dev.group g).queue = h :: rest →
        (∀ m, m ≠ n → m ≠ h → (s.dev.group g).loud[m] = false) → (s.dev.nest h).record = some q →
        (s.dev.nest h).state = .quietCheck ∨ (s.dev.nest h).state = .sweeping →
        (t.dev.group g).holder = some h ∧ (t.dev.group g).queue = rest
        ∧ (t.dev.nest h).record = some { q with sub :=
            if (s.dev.nest h).state = .quietCheck then .measuring else .running }
        ∧ ∀ m, m ≠ n → m ≠ h → t.dev.nest m = s.dev.nest m

/-- NEST GATE stores the given settings and is answered OK; closing a gate touches no unit. A nest left in LOADED with
its gate OPEN and a plan to auto-start is started where the checks of a start pass (R11, R12). -/
def Obligations.NestGateStores : Prop :=
  ∀ (s : State) (tag : Byte) (n : NestId) (g : GateArg) (a : AutoArg) (body : List Byte),
    s.Heads 0x05 tag body → body.length = 3 →
    ((s.dev.nest n).state ≠ .loaded ∨ (s.dev.nest n).loopback = true ∨ applyGate g (s.dev.nest n).gateOpen = false
        ∨ applyAuto a (s.dev.nest n).autoStart = none →
      exec (.nestGate tag (BitVec.ofNat 8 n.val) (some g) (some a)) s
        = .next (s.repliedWith 0x05 tag .ok .none (s.dev.setNest n { s.dev.nest n with
            gateOpen := applyGate g (s.dev.nest n).gateOpen
            autoStart := applyAuto a (s.dev.nest n).autoStart })))
    ∧ ∀ p b, applyGate g (s.dev.nest n).gateOpen = true → applyAuto a (s.dev.nest n).autoStart = some p →
      (s.dev.nest n).loopback = false →
      (s.dev.setNest n { s.dev.nest n with gateOpen := true, autoStart := some p }).Startable n .production p b →
      ∃ e, exec (.nestGate tag (BitVec.ofNat 8 n.val) (some g) (some a)) s
          = .next (s.repliedWith 0x05 tag .ok .none e)
        ∧ UnitStarted (s.dev.setNest n { s.dev.nest n with gateOpen := true, autoStart := some p }) e n .production p
            b [] 0

/-- UNIT READ reports the nest state, the history set, the record and one page of accumulators; with the clear flag
the history set is cleared afterwards, and nothing else changes (R195, R8). The page is bands 8 × page to 8 × page + 7
of the record's accumulators, those at or above the plan's BAND COUNT absent; a value that is absent is sent as 8000h
(R195). The record's report names the nest, the stage and the sub-state. Which BAND COUNT bounds the page of a
labelled unit, and that the quiet attempt count is reported, are the model's choices (logs 38, 36). So is the place of
the page in the reply: R195 names the values and their order, and their byte encoding is left out of the manual
(introduction 1.5.5); that the page stands at the end, each value in two bytes as bandBytes gives, is DESIGN CHOICE
(log 14). -/
def Obligations.UnitReadReports : Prop :=
  ∀ (s : State) (tag : Byte) (n : NestId) (clear : Bool) (page : Byte) (body : List Byte),
    s.Heads 0x06 tag body → body.length = 2 → page.toNat ≤ 3 →
    ∃ e bands, exec (.unitRead tag (BitVec.ofNat 8 n.val) (some clear) page) s
        = .next (s.repliedWith 0x06 tag .ok
            (.unit (s.dev.nest n).state (s.dev.nest n).history
              ((s.dev.nest n).record.map fun r => r.report n (s.dev.nest n).state) bands) e)
      ∧ ((s.dev.nest n).record = none → bands = [])
      ∧ (∀ r, (s.dev.nest n).record = some r → bands.length = 8
        ∧ (r.report n (s.dev.nest n).state).nest = n ∧ (r.report n (s.dev.nest n).state).stage = (s.dev.nest n).state
        ∧ (r.report n (s.dev.nest n).state).sub = r.sub
        ∧ (∀ i : BandId, i.val / 8 = page.toNat → bands[i.val % 8]? = some (
            if i.val < (s.dev.planOf r).header.bandCount then some
              { minResponse := (r.accumulators[i]).minResponse, maxResponse := (r.accumulators[i]).maxResponse
                maxDistortion := (r.accumulators[i]).maxDistortion, maxBuzz := (r.accumulators[i]).maxBuzz
                maxCrest := (r.accumulators[i]).maxCrest, windowCount := (r.accumulators[i]).windowCount
                mean := (r.accumulators[i]).mean }
            else none))
        ∧ ∃ front, (ReplyData.unit (s.dev.nest n).state (s.dev.nest n).history
            (some (r.report n (s.dev.nest n).state)) bands).bytes = front ++ bands.flatMap bandBytes)
      ∧ optBytes16 none = [0x80, 0x00] ∧ (∀ v : Int, optBytes16 (some v) = bytes16 (BitVec.ofInt 16 v))
      ∧ bandBytes none = [0x80, 0x00, 0x80, 0x00, 0x80, 0x00, 0x80, 0x00, 0x80, 0x00, 0x80, 0x00, 0x80, 0x00]
      ∧ e = (if clear then s.dev.setNest n { s.dev.nest n with history := 0 } else s.dev)

/-- LOOPBACK in EMPTY or LOADED: ON sets the flag and the nest stands in LOADED; OFF clears it and the nest stands in
LOADED or EMPTY by PRESENT's taken level, starting no unit while auto-start is OFF. In every other state it is
answered REFUSED_STATE and changes nothing (R29). -/
def Obligations.LoopbackSets : Prop :=
  ∀ (s : State) (tag : Byte) (n : NestId) (body : List Byte), s.Heads 0x07 tag body → body.length = 2 →
    ((s.dev.nest n).state = .empty ∨ (s.dev.nest n).state = .loaded →
      exec (.loopback tag (BitVec.ofNat 8 n.val) (some true)) s
          = .next (s.repliedWith 0x07 tag .ok .none
              (s.dev.setNest n { s.dev.nest n with loopback := true, state := .loaded }))
      ∧ ((s.dev.nest n).autoStart = none →
        ∃ e, exec (.loopback tag (BitVec.ofNat 8 n.val) (some false)) s
            = .next (s.repliedWith 0x07 tag .ok .none e)
          ∧ (e.nest n).loopback = false
          ∧ (e.nest n).state = (if s.dev.taken n .present then .loaded else .empty)
          ∧ (e.nest n).record = (s.dev.nest n).record ∧ (e.nest n).history = (s.dev.nest n).history
          ∧ SameOtherNests s.dev e n ∧ e = { s.dev with nests := e.nests }))
    ∧ ((s.dev.nest n).state ≠ .empty → (s.dev.nest n).state ≠ .loaded → ∀ on : Bool,
      exec (.loopback tag (BitVec.ofNat 8 n.val) (some on)) s
        = .next (s.repliedWith 0x07 tag .refusedState .none s.dev))

/-- PASS-THROUGH of a slot in EMPTY, LOADED or DONE with the controller link LOCKED puts the nest's drive in PASS; OFF
silences a nest in PASS and does nothing otherwise; any other nest state, or HOLDOVER, refuses a slot. MONITOR SELECT
sets both monitor slots in every state (R49, R51). -/
def Obligations.AudioRouting : Prop :=
  ∀ (s : State) (tag : Byte) (n : NestId) (i : Fin 2) (body : List Byte),
    (s.Heads 0x08 tag body → body.length = 2 →
      ((s.dev.nest n).state = .empty ∨ (s.dev.nest n).state = .loaded ∨ (s.dev.nest n).state = .done →
        s.dev.controllerPort.locked = true →
        exec (.passThrough tag (BitVec.ofNat 8 n.val) (some (.slot i))) s
          = .next (s.repliedWith 0x08 tag .ok .none (s.dev.setNest n
              { s.dev.nest n with tone := { (s.dev.nest n).tone with mode := .pass i } })))
      ∧ ((s.dev.nest n).state.testStage = true ∨ (s.dev.nest n).state = .releasing ∨ (s.dev.nest n).state = .fault
          ∨ s.dev.controllerPort.locked = false →
        exec (.passThrough tag (BitVec.ofNat 8 n.val) (some (.slot i))) s
          = .next (s.repliedWith 0x08 tag .refusedState .none s.dev))
      ∧ ((s.dev.nest n).tone.mode = .pass i →
        exec (.passThrough tag (BitVec.ofNat 8 n.val) (some .off)) s
          = .next (s.repliedWith 0x08 tag .ok .none (s.dev.setNest n
              { s.dev.nest n with tone := { (s.dev.nest n).tone with mode := .silent } })))
      ∧ ((∀ j, (s.dev.nest n).tone.mode ≠ .pass j) →
        exec (.passThrough tag (BitVec.ofNat 8 n.val) (some .off)) s
          = .next (s.repliedWith 0x08 tag .ok .none s.dev)))
    ∧ ∀ a b : MonitorSel, s.Heads 0x09 tag body → body.length = 4 →
      exec (.monitorSelect tag (some a) (some b)) s
        = .next (s.repliedWith 0x09 tag .ok .none
            { s.dev with controllerPort := { s.dev.controllerPort with monitor := #v[a, b] } })

/-- GROUP MAP WRITE within its ranges: refused with REFUSED_STATE while any nest has a unit in test; otherwise all
four memberships and both thresholds are replaced, and nothing else changes (R67). -/
def Obligations.GroupMapReplaced : Prop :=
  ∀ (s : State) (tag : Byte) (groups : Vector Byte 4) (thresholds : Vector Int 2) (body : List Byte),
    s.Heads 0x1A tag body → body.length = 6 → (∀ n : NestId, (groups[n]).toNat ≤ 1) →
    (∀ g : GroupId, -600 ≤ thresholds[g] ∧ thresholds[g] ≤ 0 ∧ thresholds[g] % 5 = 0) →
    ((∃ n, (s.dev.nest n).state.inTest = true) →
      exec (.groupMapWrite tag groups thresholds) s = .next (s.repliedWith 0x1A tag .refusedState .none s.dev))
    ∧ ((∀ n, (s.dev.nest n).state.inTest = false) →
      ∃ e, exec (.groupMapWrite tag groups thresholds) s = .next (s.repliedWith 0x1A tag .ok .none e)
        ∧ (∀ n : NestId, (e.groupOf n).val = (groups[n]).toNat)
        ∧ (∀ g : GroupId, e.group g = { s.dev.group g with threshold := thresholds[g] })
        ∧ e = { s.dev with groups := e.groups, groupMap := e.groupMap })

/-! ## Results -/

/-- RING READ of posted entries returns their labels in the order asked for and changes nothing; with a free entry among
them it is answered BAD_FIELD (R102). The reply carries each label record preceded by its entry's index; the record is
the 45 bytes of Table 11-6, the unused bytes of the serial and the unused bits of the last byte being 0 (for the bits
the model's choice, log 44). -/
def Obligations.RingReadReturnsLabels : Prop :=
  (∀ entries : List (EntryId × Label),
    (ReplyData.records entries).bytes = entries.flatMap fun e => BitVec.ofNat 8 e.1.val :: e.2.bytes)
  ∧ (∀ l : Label, l.serial.length ≤ 16 → l.bytes.length = 45 ∧ ∃ (serial : List Byte) (band last : Byte) (margin : Int),
      l.bytes = bytes32 l.number ++ [BitVec.ofNat 8 l.nest.val, roleCode l.role, BitVec.ofNat 8 l.plan.val]
        ++ bytes32 l.generation ++ [BitVec.ofNat 8 l.serial.length] ++ serial ++ bytes32 l.lot
        ++ [l.cls.code, (l.bin.map fun b => BitVec.ofNat 8 b.val).getD 0xFF] ++ bytes16 l.failures
        ++ [BitVec.ofNat 8 l.tries, band] ++ bytes16 (BitVec.ofInt 16 margin)
        ++ [l.actions, l.captureStatus.code, BitVec.ofNat 8 l.captureBlocks, l.calAtStart.code, last]
      ∧ serial = l.serial ++ List.replicate (16 - l.serial.length) 0x00
      ∧ (l.worst = none → band = 0xFF ∧ margin = 0)
      ∧ (∀ b m, l.worst = some (b, m) → band = BitVec.ofNat 8 b.val ∧ margin = m)
      ∧ last.getLsbD 0 = l.calStale ∧ ∀ i : Nat, 1 ≤ i → last.getLsbD i = false)
  ∧ (∀ x ∈ ([(.production, 0), (.golden, 1), (.engineering, 2)] : List (Role × Byte)), roleCode x.1 = x.2)
  ∧ (∀ x ∈ ([(.pass, 0), (.fail, 1), (.void, 2)] : List (LabelClass × Byte)), x.1.code = x.2)
  ∧ (∀ x ∈ ([(.none, 0), (.taken, 1), (.truncated, 2), (.skipped, 3)] : List (CaptureStatus × Byte)), x.1.code = x.2)
  ∧ (∀ x ∈ ([(.notRequired, 0), (.due, 1), (.ok, 2), (.out, 3)] : List (CalState × Byte)), x.1.code = x.2)
  ∧ ∀ (s : State) (tag : Byte) (i : EntryId) (k : Nat) (body : List Byte), s.Heads 0x0A tag body → body.length = 2 →
    1 ≤ k → k ≤ 4 →
    ((∀ j : Nat, j < k → (s.dev.labels.ring[i + Fin.ofNat 64 j]).isSome = true) →
      ∃ entries : List (EntryId × Label),
        exec (.ringRead tag (BitVec.ofNat 8 i.val) (BitVec.ofNat 8 k)) s
          = .next (s.repliedWith 0x0A tag .ok (.records entries) s.dev)
        ∧ entries.length = k
        ∧ ∀ j : Nat, j < k → ∃ e, s.dev.labels.ring[i + Fin.ofNat 64 j] = some e
            ∧ entries[j]? = some (i + Fin.ofNat 64 j, e.label))
    ∧ ((∃ j : Nat, j < k ∧ s.dev.labels.ring[i + Fin.ofNat 64 j] = none) →
      exec (.ringRead tag (BitVec.ofNat 8 i.val) (BitVec.ofNat 8 k)) s
        = .next (s.repliedWith 0x0A tag .badField .none s.dev))

/-- RING RETURN of a posted entry: the entries from the return pointer through the index are returned, the return
pointer is the entry after the index, the reply carries the number returned, and the chains still attached to them
join the tail of the Free List in ring order. The freed entries then go to the nests of the Ring Wait Queue, one each
from the head on: each waiting label is posted at the post pointer with the next number and counted, and its nest goes
on, with the claims of its action set unless its part is lost. The entries not returned stand. A free entry is answered
BAD_FIELD (R103, R106, R108, R113, R145, R146). That the body is the index is
the model's reading (log 13). -/
def Obligations.RingReturnFrees : Prop :=
  ∀ (s : State) (tag : Byte) (i : EntryId) (k : Nat), s.Heads 0x0B tag [BitVec.ofNat 8 i.val] →
    s.dev.labels.Contiguous → UnitsKept s.dev → k = (i - s.dev.labels.ret).val + 1 →
    (∀ n ∈ s.dev.labels.waitQueue, ∃ r v, (s.dev.nest n).record = some r ∧ r.verdict = some v) →
    ((s.dev.labels.ring[i]).isSome = true →
      ∃ e, exec (.ringReturn tag (BitVec.ofNat 8 i.val)) s
          = .next (s.repliedWith 0x0B tag .ok (.returned k) e)
        ∧ e.labels.ret = i + 1
        ∧ e.labels.waitQueue = s.dev.labels.waitQueue.drop k
        ∧ e.labels.post = s.dev.labels.post + Fin.ofNat 64 (min k s.dev.labels.waitQueue.length)
        ∧ e.labels.counter = s.dev.labels.counter + BitVec.ofNat 32 (min k s.dev.labels.waitQueue.length)
        ∧ e.labels.posted + k = s.dev.labels.posted + min k s.dev.labels.waitQueue.length
        ∧ (∀ x : EntryId, k ≤ (x - s.dev.labels.ret).val → (x - s.dev.labels.ret).val < s.dev.labels.posted →
            e.labels.ring[x] = s.dev.labels.ring[x])
        ∧ (∀ (j : Nat) (n : NestId) (r : UnitRecord) (v : Verdict), j < k → s.dev.labels.waitQueue[j]? = some n →
            (s.dev.nest n).record = some r → r.verdict = some v →
            e.labels.ring[s.dev.labels.post + Fin.ofNat 64 j] = some
              { label := verdictLabel (s.dev.labels.counter + BitVec.ofNat 32 j) n r v
                chain := if r.chainKept = true ∧ r.chain.blocks ≠ [] then some r.chain else none }
            ∧ (e.nest n).state = (if r.partLost = false ∧ actMark v.actions = true then .marking
                else s.dev.afterUnit n)
            ∧ ClaimsMade s.dev e n (if r.partLost then 0 else v.actions)
            ∧ e.yields.live[n] = counted s.dev.yields.live[n] r.role (if v.cls = .void then none else v.bin)
                (hasFailure r.failures .marginal))
        ∧ e.pool = { s.dev.pool with free := s.dev.pool.free
            ++ ((List.range k).flatMap fun j => entryBlocks s.dev.labels.ring[s.dev.labels.ret + Fin.ofNat 64 j])
            ++ (s.dev.labels.waitQueue.take k).flatMap fun n => ((s.dev.nest n).record.map fun r =>
                if r.chainKept then [] else r.chain.blocks).getD [] }
        ∧ (s.dev.labels.waitQueue = [] →
          (∀ j : EntryId, e.labels.ring[j] =
            if (j - s.dev.labels.ret).val ≤ (i - s.dev.labels.ret).val then none else s.dev.labels.ring[j])
          ∧ e = { s.dev with labels := e.labels, pool := e.pool }))
    ∧ (s.dev.labels.ring[i] = none →
      exec (.ringReturn tag (BitVec.ofNat 8 i.val)) s = .next (s.repliedWith 0x0B tag .badField .none s.dev))

/-- One freed entry goes to the head of the Ring Wait Queue: its label is posted into the entry at the post pointer
with the next number and counted, and the nest leaves LABEL_WAIT for MARKING with the claims of the action set, or for
its end when the action set does not name MARK or its part is lost; a lost part makes no claim (R106, R20, R21, R108,
R113). -/
def Obligations.GrantPostsWaitingLabel : Prop :=
  ∀ (d : Device) (n : NestId) (rest : List NestId) (r : UnitRecord) (v : Verdict),
    d.labels.waitQueue = n :: rest → d.labels.posted < 64 → (d.nest n).record = some r → r.verdict = some v →
    (d.nest n).state = .labelWait →
    d.grantEntry.labels.waitQueue = rest
    ∧ d.grantEntry.labels.posted = d.labels.posted + 1
    ∧ d.grantEntry.labels.counter = d.labels.counter + 1
    ∧ (∃ x, d.grantEntry.labels.ring[d.labels.post] = some x
        ∧ x.label = verdictLabel d.labels.counter n r v
        ∧ x.chain = if r.chainKept = true ∧ r.chain.blocks ≠ [] then some r.chain else none)
    ∧ (d.grantEntry.nest n).state = (if r.partLost = false ∧ actMark v.actions = true then .marking
        else d.afterUnit n)
    ∧ ClaimsMade d d.grantEntry n (if r.partLost then 0 else v.actions)
    ∧ d.grantEntry.yields.live[n] = counted d.yields.live[n] r.role (if v.cls = .void then none else v.bin)
        (hasFailure r.failures .marginal)

/-- CAPTURE FETCH of a posted label's chain returns 64 samples of a block, each 0 at or above the chain's sample
count, with the number below it, and changes nothing. CAPTURE RELEASE frees the chain to the tail of the Free List and
leaves the label (R146, R147). That the bodies are the label number and the indices in the order of R147 is the
model's reading (log 13). The bytes of the fetch reply are the model's choice (log 14): the label in four bytes, the
two indices and the number in one byte each, then the samples, most significant byte first. -/
def Obligations.CaptureCommands : Prop :=
  ∀ (s : State) (tag : Byte) (label : Word32) (i : EntryId) (c : Chain),
    s.dev.labels.chainOf label = some (i, c) →
    (∀ block chunk : Byte, s.Heads 0x0C tag (bytes32 label ++ [block, chunk]) → chunk.toNat ≤ 63 →
      block.toNat ≤ 31 → block.toNat < c.blocks.length →
      ∃ (xs : List Sample) (valid : Nat),
        exec (.captureFetch tag label block chunk) s
          = .next (s.repliedWith 0x0C tag .ok (.capture label block.toNat chunk.toNat valid xs) s.dev)
        ∧ valid = min 64 (c.sampleCount - (4096 * block.toNat + 64 * chunk.toNat))
        ∧ xs.length = 64
        ∧ (∀ k : Nat, k < 64 → xs[k]? = some (
            if 4096 * block.toNat + 64 * chunk.toNat + k < c.sampleCount then
              readSample s.samples (c.blocks.getD block.toNat 0) (64 * chunk.toNat + k)
            else 0))
        ∧ (ReplyData.capture label block.toNat chunk.toNat valid xs).bytes
            = bytes32 label ++ [block, chunk, BitVec.ofNat 8 valid]
              ++ xs.flatMap fun x => [x.extractLsb' 8 8, x.extractLsb' 0 8])
    ∧ (s.Heads 0x0D tag (bytes32 label) →
      ∃ e, exec (.captureRelease tag label) s
          = .next (s.repliedWith 0x0D tag .ok (.released label c.blocks.length) e)
        ∧ e.pool.free = s.dev.pool.free ++ c.blocks
        ∧ (∀ j : EntryId, (e.labels.ring[j]).map RingEntry.label = (s.dev.labels.ring[j]).map RingEntry.label)
        ∧ e.labels.ring[i] = (s.dev.labels.ring[i]).map (fun x => { x with chain := none })
        ∧ e = { s.dev with labels := { s.dev.labels with ring := e.labels.ring }
                           pool := { s.dev.pool with free := e.pool.free } })

/-- COUNTER SNAPSHOT copies the live set and raises the snapshot number; with the clear flag the live set then holds
STARTED 1 for each nest with a unit in test and 0 everywhere else (R115, R116). -/
def Obligations.CounterSnapshots : Prop :=
  ∀ (s : State) (tag : Byte) (body : List Byte), s.Heads 0x13 tag body → body.length = 1 →
    exec (.counterSnapshot tag true) s = .next (s.repliedWith 0x13 tag .ok (.snapshot (s.dev.yields.number + 1))
      { s.dev with yields :=
          { live := s.dev.yields.live, snapshot := s.dev.yields.live, number := s.dev.yields.number + 1 } })
    ∧ exec (.counterSnapshot tag false) s = .next (s.repliedWith 0x13 tag .badField .none s.dev)
    ∧ ∃ e, exec (.counterSnapshotClear tag) s
        = .next (s.repliedWith 0x13 tag .ok (.snapshot (s.dev.yields.number + 1)) e)
      ∧ e.yields.snapshot = s.dev.yields.live ∧ e.yields.number = s.dev.yields.number + 1
      ∧ (∀ n : NestId, e.yields.live[n] = { Counters.zero with started := s.dev.inTestCount n })
      ∧ e = { s.dev with yields := e.yields }

/-- COUNTER READ answers OK with the snapshot number, the nest and page as asked, and the page's counters of the
snapshot set in order, and changes nothing; a page above 1 or a nest above 3 is answered BAD_FIELD. The snapshot set
and its number stand through every row but COUNTER SNAPSHOT and power-on reset, which leaves number 0 and all counters
0 (R118). -/
def Obligations.CounterReadFromSnapshot : Prop :=
  (∀ (s : State) (tag : Byte) (n : NestId) (body : List Byte), s.Heads 0x14 tag body → body.length = 2 →
    exec (.counterRead tag (BitVec.ofNat 8 n.val) 0) s = .next (s.repliedWith 0x14 tag .ok
      (.counters s.dev.yields.number (BitVec.ofNat 8 n.val) 0
        [(s.dev.yields.snapshot[n]).started, (s.dev.yields.snapshot[n]).labelled,
         (s.dev.yields.snapshot[n]).discarded, (s.dev.yields.snapshot[n]).voided, (s.dev.yields.snapshot[n]).golden,
         (s.dev.yields.snapshot[n]).engineering, (s.dev.yields.snapshot[n]).retests,
         (s.dev.yields.snapshot[n]).marginal]) s.dev)
    ∧ exec (.counterRead tag (BitVec.ofNat 8 n.val) 1) s = .next (s.repliedWith 0x14 tag .ok
      (.counters s.dev.yields.number (BitVec.ofNat 8 n.val) 1 (s.dev.yields.snapshot[n]).bins.toList) s.dev)
    ∧ ∀ nest page : Byte, 3 < nest.toNat ∨ 1 < page.toNat →
      exec (.counterRead tag nest page) s = .next (s.repliedWith 0x14 tag .badField .none s.dev))
  ∧ (∀ (c : Instr) (s t : State), exec c s = .next t → c ≠ .powerOnReset → (∀ tag b, c ≠ .counterSnapshot tag b) →
    (∀ tag, c ≠ .counterSnapshotClear tag) →
    t.dev.yields.snapshot = s.dev.yields.snapshot ∧ t.dev.yields.number = s.dev.yields.number)
  ∧ ∀ s : State, ∃ t, exec .powerOnReset s = .next t ∧ t.dev.yields.number = 0
    ∧ ∀ n : NestId, t.dev.yields.snapshot[n] = Counters.zero

/-- CORRECTION READ returns the record and the plan's BAND COUNT in the ACTIVE bank and changes nothing; CORRECTION
CLEAR sets the record to DUE or NOT_REQUIRED with zero corrections and the ACTIVE generation, sets the CAL flag when
the STATE changed, and is refused while a unit in test of the nest uses the plan (R135, R136, R137). DRIFT SETTINGS
WRITE for one nest: with a value given within its range the settings are replaced and the window restarts; with both
UNCHANGED nothing changes; an M above W is answered BAD_FIELD. The reply carries the counts as they stood and the
resulting settings (R123). -/
def Obligations.CalibrationCommands : Prop :=
  (∀ (s : State) (tag : Byte) (n : NestId) (p : PlanId) (body : List Byte), body.length = 2 →
    (s.Heads 0x15 tag body →
      exec (.correctionRead tag (BitVec.ofNat 8 n.val) (BitVec.ofNat 8 p.val)) s
        = .next (s.repliedWith 0x15 tag .ok
            (.correction (BitVec.ofNat 8 n.val) (BitVec.ofNat 8 p.val) (s.dev.calibration.record n p).state
              (s.dev.calibration.record n p).stamp (s.dev.activeBandCount p)
              (s.dev.calibration.record n p).corrections) s.dev))
    ∧ (s.Heads 0x16 tag body → (s.dev.nest n).state.inTest = true →
      (∃ r, (s.dev.nest n).record = some r ∧ r.plan = p) →
      exec (.correctionClear tag (BitVec.ofNat 8 n.val) (BitVec.ofNat 8 p.val)) s
        = .next (s.repliedWith 0x16 tag .refusedState .none s.dev))
    ∧ (s.Heads 0x16 tag body → (s.dev.nest n).state.inTest = false ∨ (∀ r, (s.dev.nest n).record = some r → r.plan ≠ p) →
      ∃ e data, exec (.correctionClear tag (BitVec.ofNat 8 n.val) (BitVec.ofNat 8 p.val)) s
          = .next (s.repliedWith 0x16 tag .ok data e)
        ∧ (e.calibration.record n p).state = (if s.dev.activeReferenceValid p then .due else .notRequired)
        ∧ (∀ i : BandId, (e.calibration.record n p).corrections[i] = 0)
        ∧ (∀ b, s.dev.tables.activeBank = some b →
            (e.calibration.record n p).stamp = (s.dev.tables.bank b).generation)
        ∧ (s.dev.tables.activeBank = none → (e.calibration.record n p).stamp = 0)
        ∧ (∀ m q, (m, q) ≠ (n, p) → e.calibration.record m q = s.dev.calibration.record m q)
        ∧ e.calibration.drift = s.dev.calibration.drift
        ∧ ((e.calibration.record n p).state ≠ (s.dev.calibration.record n p).state →
            e.notices = { s.dev.notices with
                pending := s.dev.notices.pending.set (calSource n) true,
                calCause := s.dev.notices.calCause.set n (some (CalCause.clear, some p)) })
        ∧ ((e.calibration.record n p).state = (s.dev.calibration.record n p).state → e.notices = s.dev.notices)
        ∧ e = { s.dev with calibration := e.calibration, notices := e.notices }))
  ∧ ∀ (s : State) (tag : Byte) (n : NestId) (w m : Nat) (body : List Byte), s.Heads 0x1B tag body → body.length = 5 →
    (10 ≤ w → w ≤ 1000 → 1 ≤ m → m ≤ w →
      ∃ e, exec (.driftSettingsWrite tag (some (.one n)) (some w) (some m)) s
          = .next (s.repliedWith 0x1B tag .ok (.drift [DriftReport.mk n (s.dev.calibration.drift[n]).labels
              (s.dev.calibration.drift[n]).marginals w m]) e)
        ∧ e.calibration.drift[n] = { labels := 0, marginals := 0, length := w, limit := m }
        ∧ (∀ k : NestId, k ≠ n → e.calibration.drift[k] = s.dev.calibration.drift[k])
        ∧ e.calibration.records = s.dev.calibration.records ∧ e = { s.dev with calibration := e.calibration })
    ∧ (w < m → exec (.driftSettingsWrite tag (some .all) (some w) (some m)) s
        = .next (s.repliedWith 0x1B tag .badField .none s.dev))
    ∧ ((∀ k : NestId, (s.dev.calibration.drift[k]).limit ≤ (s.dev.calibration.drift[k]).length) →
      ∃ data, exec (.driftSettingsWrite tag (some .all) none none) s
        = .next (s.repliedWith 0x1B tag .ok data s.dev))

/-- NOTICE CONFIG with every field given within its range replaces all twelve settings and answers with them; a new
coalescing count at or below a non-zero labels-posted count, or a running timer at or above the new time, sets LABELS;
a new threshold sets no flag (R193). -/
def Obligations.NoticeConfigSets : Prop :=
  ∀ (s : State) (tag : Byte) (p : Vector Byte 9) (count : Byte) (time : Word16) (threshold : Byte) (body : List Byte),
    s.Heads 0x1C tag body → body.length = 13 →
    noticeFieldsOf body = some (Vector.ofFn (fun i => some p[i]), some count, some time, some threshold) →
    (∀ i : Fin 9, (p[i]).toNat ≤ 15) → 1 ≤ count.toNat → count.toNat ≤ 32 → 1 ≤ time.toNat → time.toNat ≤ 1000 →
    threshold.toNat ≤ 63 →
    ∃ e data, exec (.noticeConfig tag (Vector.ofFn fun i => some p[i]) (some count) (some time) (some threshold)) s
        = .next (s.repliedWith 0x1C tag .ok data e)
      ∧ (∀ i : Fin 9, e.notices.priorities[i] = (p[i]).toNat) ∧ e.notices.coalescingCount = count.toNat
      ∧ e.notices.coalescingTime = time.toNat ∧ e.pool = { s.dev.pool with lowThreshold := threshold.toNat }
      ∧ data = .noticeSettings e.notices.priorities count.toNat time.toNat threshold.toNat
      ∧ (∀ i : SourceId, i ≠ labelsSource → e.notices.pending[i] = s.dev.notices.pending[i])
      ∧ (e.notices.pending[labelsSource] = true ↔ s.dev.notices.pending[labelsSource] = true
          ∨ (s.dev.notices.labelsPosted ≠ 0 ∧ count.toNat ≤ s.dev.notices.labelsPosted.toNat)
          ∨ ∃ t, s.dev.notices.timer = some t ∧ 96 * time.toNat ≤ t)
      ∧ e = { s.dev with notices := e.notices, pool := e.pool }


/-! ## Table banks -/

/-- TABLE WRITE of a fitting body: LOAD_BLOCKED, BAD_FIELD, REFUSED_STATE, BUSY in that order (R155); otherwise the
row of the standby bank is replaced, an EMPTY or READY bank becomes OPEN, its fingerprints go, and the reply names the
row (R156). The codes of a row are accepted exactly when they are those of a row within the ranges of Tables 2-1, 2-2,
4-3 and 5-1 (R154, R155), for a plan of 0 to 7 and a row its kind has, a verdict under plan 0; they replace that row
alone. -/
def Obligations.TableWriteReplacesRow : Prop :=
  (∀ (s : State) (tag kind plan row : Byte) (codes : List Word16) (body : List Byte), s.Heads 0x0E tag body →
    lengthFits 0x0E body = true → tableBodyIs kind plan row codes body = true →
    (s.dev.tables.blocked = true →
      exec (.tableWrite tag kind plan row codes) s = .next (s.repliedWith 0x0E tag .loadBlocked .none s.dev))
    ∧ (s.dev.tables.blocked = false → rowChange kind plan row (codes.map BitVec.toNat) = none →
      exec (.tableWrite tag kind plan row codes) s = .next (s.repliedWith 0x0E tag .badField .none s.dev))
    ∧ (∀ f, s.dev.tables.blocked = false → rowChange kind plan row (codes.map BitVec.toNat) = some f →
      (s.dev.tables.standby = none →
        exec (.tableWrite tag kind plan row codes) s = .next (s.repliedWith 0x0E tag .refusedState .none s.dev))
      ∧ ∀ b, s.dev.tables.standby = some b →
        (s.dev.tables.operation ≠ .none →
          exec (.tableWrite tag kind plan row codes) s = .next (s.repliedWith 0x0E tag .busy .none s.dev))
        ∧ (s.dev.tables.operation = .none →
          exec (.tableWrite tag kind plan row codes) s = .next (s.repliedWith 0x0E tag .ok (.row kind plan row)
            { s.dev with tables := s.dev.tables.modBank b fun x => { x with
                rows := f x.rows, state := openedState x.state, fingerprints := none } }))))
  ∧ (∀ (kind plan row : Byte) (codes : List Nat), 4 < kind.toNat ∨ 7 < plan.toNat → rowChange kind plan row codes = none)
  ∧ (∀ (p : PlanId) (row : Byte) (codes : List Nat),
      ((rowChange 0 (BitVec.ofNat 8 p.val) row codes).isSome = true
        ↔ row.toNat = 0 ∧ ∃ h : PlanHeader, h.InRange ∧ h.image = codes)
      ∧ ((rowChange 1 (BitVec.ofNat 8 p.val) row codes).isSome = true
        ↔ row.toNat < 24 ∧ ∃ x : Segment, x.InRange ∧ x.image = codes)
      ∧ ((rowChange 2 (BitVec.ofNat 8 p.val) row codes).isSome = true
        ↔ row.toNat < 32 ∧ ∃ b : Band, b.InRange ∧ b.image = codes)
      ∧ ((rowChange 3 (BitVec.ofNat 8 p.val) row codes).isSome = true
        ↔ row.toNat < 32 ∧ ∃ v : Reference, OnSteps (-1000) 1 400 v.response ∧ v.image = codes)
      ∧ ((rowChange 4 (BitVec.ofNat 8 p.val) row codes).isSome = true
        ↔ row.toNat < 16 ∧ p = 0 ∧ ∃ v : VerdictEntry, v.InRange ∧ v.image = codes))
  ∧ ∀ (r : BankRows) (p : PlanId) (f : BankRows → BankRows),
      (∀ h : PlanHeader, h.InRange → rowChange 0 (BitVec.ofNat 8 p.val) 0 h.image = some f →
        f r = { r with plans := r.plans.set p { r.plans[p] with header := h } })
      ∧ (∀ (i : Fin 24) (x : Segment), x.InRange →
        rowChange 1 (BitVec.ofNat 8 p.val) (BitVec.ofNat 8 i.val) x.image = some f →
        f r = { r with plans := r.plans.set p { r.plans[p] with segments := (r.plans[p]).segments.set i x } })
      ∧ (∀ (i : Fin 32) (b : Band), b.InRange →
        rowChange 2 (BitVec.ofNat 8 p.val) (BitVec.ofNat 8 i.val) b.image = some f →
        f r = { r with plans := r.plans.set p { r.plans[p] with bands := (r.plans[p]).bands.set i b } })
      ∧ (∀ (i : Fin 32) (v : Reference), OnSteps (-1000) 1 400 v.response →
        rowChange 3 (BitVec.ofNat 8 p.val) (BitVec.ofNat 8 i.val) v.image = some f →
        f r = { r with plans := r.plans.set p { r.plans[p] with references := (r.plans[p]).references.set i v } })
      ∧ ∀ (i : Fin 16) (v : VerdictEntry), v.InRange →
        rowChange 4 0 (BitVec.ofNat 8 i.val) v.image = some f → f r = { r with verdicts := r.verdicts.set i v }

/-- BANK COPY with an ACTIVE bank and a standby is taken with its reply held, and a READY standby is OPEN from that
step; without one it is answered REFUSED_STATE, and BUSY while an operation is in flight. At its completion the
standby holds the ACTIVE bank's rows, and the reply OK joins the Reply Queue (R157, R184). -/
def Obligations.BankCopyCopies : Prop :=
  (∀ (s : State) (tag : Byte), s.Heads 0x10 tag [] → s.dev.tables.blocked = false →
    (s.dev.tables.operation ≠ .none →
      exec (.bankCopy tag) s = .next (s.repliedWith 0x10 tag .busy .none s.dev))
    ∧ (s.dev.tables.operation = .none → s.dev.tables.activeBank = none ∨ s.dev.tables.standby = none →
      exec (.bankCopy tag) s = .next (s.repliedWith 0x10 tag .refusedState .none s.dev))
    ∧ ∀ a b, s.dev.tables.operation = .none → s.dev.tables.activeBank = some a → s.dev.tables.standby = some b →
      ∃ e, exec (.bankCopy tag) s = .next (s.heldWith 0x10 tag e)
        ∧ e.tables.operation = .copy ∧ (e.tables.bank b).rows = (s.dev.tables.bank b).rows
        ∧ (e.tables.bank b).state = openedState (s.dev.tables.bank b).state
        ∧ (e.tables.bank b).generation = (s.dev.tables.bank b).generation
        ∧ e.tables.bank a = s.dev.tables.bank a ∧ e = { s.dev with tables := e.tables })
  ∧ ∀ (s : State) (a b : BankId) (tag type : Byte), s.dev.tables.operation = .copy →
    s.dev.tables.activeBank = some a → s.dev.tables.standby = some b → s.mgmt.held = some (tag, type) →
    ∃ t, exec .bankCopyComplete s = .next t
      ∧ t.dev.tables.bank b
        = { s.dev.tables.bank b with rows := (s.dev.tables.bank a).rows, fingerprints := none }
      ∧ t.dev.tables.bank a = s.dev.tables.bank a ∧ t.dev.tables.operation = .none
      ∧ t.mgmt = { s.mgmt with
          held := none
          replies := s.mgmt.replies ++ [{ tag := tag, type := type, status := .ok, data := .none }] }
      ∧ t = { s with mgmt := t.mgmt, dev := { s.dev with tables := t.dev.tables } }

/-- TABLE COMMIT with neither flag set and no copy in flight: with the confirm code D5h and an OPEN standby it is
taken, its reply held and the standby VERIFYING; with a wrong or missing confirm code, or no OPEN standby,
SEQUENCE_ERROR is set, the detail is recorded where none is held, and LOAD_BLOCKED carries it (R158, R161). -/
def Obligations.TableCommitTakenOrSequenceError : Prop :=
  ∀ (s : State) (tag : Byte), s.dev.tables.blocked = false → s.dev.tables.operation ≠ .copy →
    (∀ (h l : Byte) (b : BankId), s.Heads 0x0F tag [0xD5, h, l] → s.dev.tables.standby = some b →
      (s.dev.tables.bank b).state = .opened →
      exec (.tableCommit tag (some (0xD5, h ++ l))) s = .next (s.heldWith 0x0F tag { s.dev with
        tables := { s.dev.tables.modBank b (fun x => { x with state := .verifying }) with
          operation := .commit (h ++ l), operationTimer := 0 } }))
    ∧ (∀ (h l : Byte), s.Heads 0x0F tag [0xD5, h, l] →
      (∀ b, s.dev.tables.standby = some b → (s.dev.tables.bank b).state ≠ .opened) →
      ∃ e, exec (.tableCommit tag (some (0xD5, h ++ l))) s
          = .next (s.repliedWith 0x0F tag .loadBlocked (.detail e.tables.detail) e)
        ∧ e = { s.dev with tables := { s.dev.tables with
            sequenceError := true, detail := some (s.dev.tables.detail.getD (reasonDetail .notOpen)) } })
    ∧ (∀ (c h l : Byte), c ≠ 0xD5 → s.Heads 0x0F tag [c, h, l] →
      ∃ e, exec (.tableCommit tag (some (c, h ++ l))) s
          = .next (s.repliedWith 0x0F tag .loadBlocked (.detail e.tables.detail) e)
        ∧ e = { s.dev with tables := { s.dev.tables with
            sequenceError := true, detail := some (s.dev.tables.detail.getD (reasonDetail .confirm)) } })
    ∧ (s.Heads 0x0F tag [] →
      ∃ e, exec (.tableCommit tag none) s = .next (s.repliedWith 0x0F tag .loadBlocked (.detail e.tables.detail) e)
        ∧ e = { s.dev with tables := { s.dev.tables with
            sequenceError := true, detail := some (s.dev.tables.detail.getD (reasonDetail .confirm)) } })

/-- The end of a verification: on success the standby is READY with its fingerprints and the held reply is OK with the
checksum; on failure it is OPEN, LOAD_ERROR is set, the detail is recorded where none is held, and the held reply is
LOAD_BLOCKED with the verification's own result (R160, R161). The verification fails with the result of the first of the
eight checks of Table 9-4 that fails, in their order, and succeeds where none does: the declared checksum; a plan
defined; a PILOT, STEP or CHIRP segment in each defined plan; each band of a defined plan above the one before it, and
reached by a segment; the reference rows of a reference-valid plan present, and those of every other plan absent; and
verdict entry 15 empty, so that rows that pass have a verdict entry for every failure set (R159, R92). -/
def Obligations.VerificationDecides : Prop :=
  (∀ (s : State) (declared : Word16) (b : BankId) (tag type : Byte), s.dev.tables.operation = .commit declared →
    s.dev.tables.standby = some b → s.mgmt.held = some (tag, type) →
    ((s.dev.tables.bank b).rows.verify declared = none →
      ∃ t, exec .verificationComplete s = .next t
        ∧ t.dev.tables = { s.dev.tables.modBank b (fun x => { x with
            state := .ready, fingerprints := some x.rows.fingerprints }) with operation := .none }
        ∧ t.mgmt = { s.mgmt with
            held := none
            replies := s.mgmt.replies ++ [{ tag := tag, type := type, status := .ok,
                                            data := .checksum (s.dev.tables.bank b).rows.checksum }] }
        ∧ t = { s with mgmt := t.mgmt, dev := { s.dev with tables := t.dev.tables } })
    ∧ ∀ x, (s.dev.tables.bank b).rows.verify declared = some x →
      ∃ t, exec .verificationComplete s = .next t
        ∧ t.dev.tables = { s.dev.tables.modBank b (fun y => { y with state := .opened }) with
            operation := .none, loadError := true, detail := some (s.dev.tables.detail.getD x) }
        ∧ t.mgmt = { s.mgmt with
            held := none
            replies := s.mgmt.replies ++ [{ tag := tag, type := type, status := .loadBlocked,
                                            data := .detail (some x) }] }
        ∧ t = { s with mgmt := t.mgmt, dev := { s.dev with tables := t.dev.tables } })
  ∧ ∀ (r : BankRows) (w : Word16),
    (r.verify w = none ↔ ∀ k x, ¬ r.CheckFails w k x)
    ∧ (∀ x, r.verify w = some x ↔ ∃ k, r.CheckFails w k x ∧ ∀ j y, j < k → ¬ r.CheckFails w j y)
    ∧ (r.verify w = none → r.checksum = w ∧ ∀ f : FailureSet, (selectEntry r f).isSome = true)

/-- BANK SWITCH is answered LOAD_BLOCKED while a load flag is set, and REFUSED_STATE while the standby is absent or
not READY. Otherwise the standby is ACTIVE with the next generation, the bank that was ACTIVE is RETIRING while pinned
and OPEN otherwise (R163); each record of a plan whose fingerprint differs is reset, each other keeps its state and
corrections, all take the new generation, and the CAL flag of a nest with a changed state is set (R133, R134). LOAD
STATUS CLEAR clears both flags and the detail, which its reply carries (R162). -/
def Obligations.BankSwitchActivates : Prop :=
  ∀ (s : State) (tag : Byte),
    (s.Heads 0x11 tag [] → s.dev.tables.blocked = true →
      exec (.bankSwitch tag) s = .next (s.repliedWith 0x11 tag .loadBlocked .none s.dev))
    ∧ (s.Heads 0x11 tag [] → s.dev.tables.blocked = false →
      (∀ b, s.dev.tables.standby = some b → (s.dev.tables.bank b).state ≠ .ready) →
      exec (.bankSwitch tag) s = .next (s.repliedWith 0x11 tag .refusedState .none s.dev))
    ∧ (∀ (b : BankId) (g : Word32), s.Heads 0x11 tag [] → s.dev.tables.blocked = false →
      s.dev.tables.standby = some b → (s.dev.tables.bank b).state = .ready →
      g = (if s.dev.tables.generationCounter = 0xFFFFFFFF then 1 else s.dev.tables.generationCounter + 1) →
      ∃ e, exec (.bankSwitch tag) s = .next (s.repliedWith 0x11 tag .ok (.generation g) e)
        ∧ e.tables.generationCounter = g
        ∧ e.tables.bank b = { s.dev.tables.bank b with state := .active, generation := g, pins := 0 }
        ∧ (∀ a, s.dev.tables.activeBank = some a → e.tables.bank a = { s.dev.tables.bank a with
            state := if 0 < (s.dev.tables.bank a).pins then .retiring else .opened })
        ∧ (∀ (n : NestId) (p : PlanId), (e.calibration.record n p).stamp = g
            ∧ (s.dev.tables.activeBank = none
                ∨ (∃ a f h, s.dev.tables.activeBank = some a ∧ (s.dev.tables.bank a).fingerprints = some f
                    ∧ (s.dev.tables.bank b).fingerprints = some h ∧ f[p] ≠ h[p]) →
              (e.calibration.record n p).state
                = (if (s.dev.tables.bank b).rows.plans[p].header.isReferenceValid then .due else .notRequired)
              ∧ ∀ i : BandId, (e.calibration.record n p).corrections[i] = 0)
            ∧ ((∃ a f h, s.dev.tables.activeBank = some a ∧ (s.dev.tables.bank a).fingerprints = some f
                    ∧ (s.dev.tables.bank b).fingerprints = some h ∧ f[p] = h[p]) →
              (e.calibration.record n p).state = (s.dev.calibration.record n p).state
              ∧ (e.calibration.record n p).corrections = (s.dev.calibration.record n p).corrections))
        ∧ (∀ n : NestId, e.notices.pending[calSource n] = true ↔ (s.dev.notices.pending[calSource n] = true
            ∨ ∃ p, (e.calibration.record n p).state ≠ (s.dev.calibration.record n p).state))
        ∧ e.calibration.drift = s.dev.calibration.drift
        ∧ e = { s.dev with tables := e.tables, calibration := e.calibration, notices := e.notices })
    ∧ (s.Heads 0x12 tag [] →
      exec (.loadStatusClear tag) s = .next (s.repliedWith 0x12 tag .ok (.detail s.dev.tables.detail)
        { s.dev with tables := { s.dev.tables with loadError := false, sequenceError := false, detail := none } }))

/-! ## Fixture lines -/

/-- The line state of an output in SEQUENCER mode is the sequencer's claim: CLAMP in the seven test stages and in no
other state, and MARK, GATE and LAMP as claimed; in MANUAL mode it is the manual level (R4, R171). FIXTURE SET and
FIXTURE CLEAR set the manual level of each named MANUAL output to asserted or de-asserted, leave
every other output, and reply with the named SEQUENCER outputs as refused and the line states after it (R174). FIXTURE
MAP WRITE within its ranges replaces the given fields and replies with the map; a field out of range is answered
BAD_FIELD, and a changed MODE or POLARITY in a test stage REFUSED_STATE (R175). An output that goes from SEQUENCER to
MANUAL takes its line state as its manual level (R173); a changed POLARITY sets the input's debounce count to 0; an
input whose count reaches a changed DEBOUNCE is taken, and a timer that reaches a changed timeout times out, in the
step of the write (R175, R176). That one row carries all the write makes due, in an order of its own, is the model's
form (log 12). Where the clamp timeout leaves the nest follows R22 against R15, which is the model's choice (log 37).
-/
def Obligations.FixtureCommands : Prop :=
  (∀ (d : Device) (n : NestId) (k : Fin 4),
    ((d.map n).mode[k] = .manual → d.lineState n k = (d.fixture[n]).manual[k])
    ∧ ((d.map n).mode[k] = .sequencer →
      (k = 0 → (d.lineState n k = true ↔ (d.nest n).state ∈
        [.clamping, .levelLock, .quietCheck, .sweeping, .judging, .labelWait, .marking]))
      ∧ (k = 1 → d.lineState n k = (d.nest n).markClaim)
      ∧ (k = 2 → d.lineState n k = (d.nest n).gateClaim)
      ∧ (k = 3 → d.lineState n k = (d.nest n).lampClaim))
    ∧ d.lines.getLsbD (4 * n.val + k.val) = d.lineState n k)
  ∧ ∀ (s : State) (tag : Byte),
    (∀ h l : Byte, s.Heads 0x17 tag [h, l] →
      ∃ e, exec (.fixtureSet tag (h ++ l)) s
          = .next (s.repliedWith 0x17 tag .ok (.outputs (s.dev.refusedOutputs (h ++ l)) e.lines) e)
        ∧ (∀ (n : NestId) (k : Fin 4), (e.fixture[n]).manual[k] = true ↔
            (((h ++ l).getLsbD (4 * n.val + k.val) = true ∧ (s.dev.map n).mode[k] = .manual)
              ∨ (s.dev.fixture[n]).manual[k] = true))
        ∧ (∀ n : NestId, e.fixture[n] = { s.dev.fixture[n] with manual := (e.fixture[n]).manual })
        ∧ (∀ (n : NestId) (k : Fin 4), (s.dev.refusedOutputs (h ++ l)).getLsbD (4 * n.val + k.val)
            = ((h ++ l).getLsbD (4 * n.val + k.val) && decide ((s.dev.map n).mode[k] = .sequencer)))
        ∧ e = { s.dev with fixture := e.fixture })
    ∧ (∀ h l : Byte, s.Heads 0x18 tag [h, l] →
      ∃ e, exec (.fixtureClear tag (h ++ l)) s
          = .next (s.repliedWith 0x18 tag .ok (.outputs (s.dev.refusedOutputs (h ++ l)) e.lines) e)
        ∧ (∀ (n : NestId) (k : Fin 4), (e.fixture[n]).manual[k] = true ↔
            (((h ++ l).getLsbD (4 * n.val + k.val) = false ∨ (s.dev.map n).mode[k] = .sequencer)
              ∧ (s.dev.fixture[n]).manual[k] = true))
        ∧ (∀ n : NestId, e.fixture[n] = { s.dev.fixture[n] with manual := (e.fixture[n]).manual })
        ∧ e = { s.dev with fixture := e.fixture })
    ∧ ∀ (n : NestId) (f : MapFields) (order : List DueItem) (body : List Byte), s.Heads 0x19 tag body →
      body.length = 23 →
      (mapFits f = false →
        exec (.fixtureMapWrite tag (BitVec.ofNat 8 n.val) f order) s
          = .next (s.repliedWith 0x19 tag .badField .none s.dev))
      ∧ (mapFits f = true → (s.dev.nest n).state.testStage = true → mapTurns f (s.dev.map n) = true →
        exec (.fixtureMapWrite tag (BitVec.ofNat 8 n.val) f order) s
          = .next (s.repliedWith 0x19 tag .refusedState .none s.dev))
      ∧ (mapFits f = true → (s.dev.nest n).state.testStage = false ∨ mapTurns f (s.dev.map n) = false →
        ∃ e, exec (.fixtureMapWrite tag (BitVec.ofNat 8 n.val) f order) s
            = .next (s.repliedWith 0x19 tag .ok (.map n (e.map n)) e)
          ∧ e.map n = (s.dev.map n).write f ∧ (∀ m, m ≠ n → e.fixture[m] = s.dev.fixture[m])
          ∧ (∀ k : Fin 4, (e.fixture[n]).manual[k] =
              if (s.dev.map n).mode[k] = .sequencer ∧ f.mode[k] = .given .manual then s.dev.lineState n k
              else (s.dev.fixture[n]).manual[k])
          ∧ (∀ (l : InputLine) (ms : Nat), f.debounce[inputIndex l] = some ms →
              ms ≠ (s.dev.map n).debounce[inputIndex l] → argDiffers f.polarity[inputIndex l]
                (s.dev.map n).polarity[inputIndex l] = false → 1 ≤ (s.dev.fixture[n]).count[inputIndex l] →
              96 * ms ≤ (s.dev.fixture[n]).count[inputIndex l] →
              e.taken n l = !(s.dev.taken n l) ∧ (e.fixture[n]).count[inputIndex l] = 0)
          ∧ (∀ l : InputLine, f.debounce[inputIndex l] = none →
              e.taken n l = s.dev.taken n l ∧ (e.fixture[n]).count[inputIndex l]
                = if argDiffers f.polarity[inputIndex l] (s.dev.map n).polarity[inputIndex l] then 0
                  else (s.dev.fixture[n]).count[inputIndex l])
          ∧ (∀ (ms : Nat) (r : UnitRecord), (∀ k : Fin 4, f.debounce[k] = none) → f.clampTimeout = some ms →
              ms ≠ (s.dev.map n).clampTimeout → (s.dev.nest n).state = .clamping → (s.dev.nest n).settling = none →
              96 * ms ≤ (s.dev.nest n).clampTimer → (s.dev.nest n).record = some r →
              (e.nest n).state = s.dev.afterUnit n
              ∧ (s.dev.labels.posted < 64 → EndedWithLabel { s.dev with fixture := e.fixture } e n r .fixture)
              ∧ (64 ≤ s.dev.labels.posted → Discarded { s.dev with fixture := e.fixture } e n r))
          ∧ (∀ ms : Nat, (∀ k : Fin 4, f.debounce[k] = none) → f.releaseTimeout = some ms →
              ms ≠ (s.dev.map n).releaseTimeout → (s.dev.nest n).state = .releasing →
              96 * ms ≤ (s.dev.nest n).releaseTimer →
              (e.nest n).state = .fault ∧ (e.nest n).history = addEvent (s.dev.nest n).history .fixtureFail
              ∧ e.notices = s.dev.notices.raise (nestFaultSource n))
          ∧ ((∀ i, changedItem f (s.dev.map n) i = false) → e = { s.dev with fixture := e.fixture }))

/-- INPUT_CHANGE_TAKEN with the nest link LOCKED, once the level has differed for the debounce time: the taken level
turns, its count returns to 0, and with the detector enabled the input joins the changed set and FIXTURE is set (R168,
R170). PRESENT then moves a nest between EMPTY and LOADED, CLAMPED begins the settle or ends RELEASING, and CLAMPED
lost in the settle returns CLAMPING to waiting (R3, R14, R22). The loss of PRESENT, of CLAMPED outside CLAMPING, and
of LID while its detector is enabled is a fixture loss: in CLAMPING to JUDGING the unit ends early with FIXTURE, a
VOID label where a ring entry is free and a discard otherwise; in LABEL_WAIT it sets the part-lost flag; MARKING ends.
LID with its detector disabled, LID taken active and AUX change no nest, and a nest in loopback consults none (R24,
R26, R29). -/
def Obligations.InputChangeActs : Prop :=
  ∀ (s : State) (n : NestId) (l : InputLine), s.dev.nestPort.locked = true →
    1 ≤ (s.dev.fixture[n]).count[inputIndex l] →
    96 * (s.dev.map n).debounce[inputIndex l] ≤ (s.dev.fixture[n]).count[inputIndex l] →
    ∃ t, exec (.inputChangeTaken n l) s = .next t
      ∧ t.dev.taken n l = !(s.dev.taken n l) ∧ (t.dev.fixture[n]).count[inputIndex l] = 0
      ∧ (t.dev.fixture[n]).changed[inputIndex l]
          = ((s.dev.fixture[n]).changed[inputIndex l] || s.dev.detects n l)
      ∧ t.dev.notices.pending[fixtureSource n] = (s.dev.notices.pending[fixtureSource n] || s.dev.detects n l)
      ∧ (∀ k, k ≠ l → t.dev.taken n k = s.dev.taken n k)
      ∧ (∀ m, m ≠ n → t.dev.fixture[m] = s.dev.fixture[m])
      ∧ (l = .aux ∨ (s.dev.nest n).loopback = true → t.dev.nests = s.dev.nests)
      ∧ ((s.dev.nest n).loopback = false →
        (l = .present → (s.dev.nest n).state = .empty → (s.dev.nest n).autoStart = none →
          s.dev.taken n .present = false → (t.dev.nest n).state = .loaded)
        ∧ (l = .present → (s.dev.nest n).state = .loaded ∨ (s.dev.nest n).state = .done →
          s.dev.taken n .present = true → (t.dev.nest n).state = .empty)
        ∧ (l = .clamped → (s.dev.nest n).state = .releasing → s.dev.taken n .clamped = true →
          (t.dev.nest n).state = if s.dev.taken n .present then .done else .empty)
        ∧ (l = .clamped → (s.dev.nest n).state = .clamping → s.dev.taken n .clamped = false →
          (s.dev.nest n).settling = none → (s.dev.map n).settle ≠ 0 →
          t.dev.nest n = { s.dev.nest n with
            settling := some (0, 96 * (s.dev.map n).settle)
            history := addEvent (s.dev.nest n).history .clamped })
        ∧ (l = .clamped → (s.dev.nest n).state = .clamping → s.dev.taken n .clamped = true →
          t.dev.nest n = { s.dev.nest n with settling := none } ∧ ∀ m, m ≠ n → t.dev.nest m = s.dev.nest m)
        ∧ (l = .lid → s.dev.detects n .lid = false ∨ s.dev.taken n .lid = false → t.dev.nests = s.dev.nests)
        ∧ (l = .present ∨ (l = .clamped ∧ (s.dev.nest n).state ≠ .clamping) ∨ (l = .lid ∧ s.dev.detects n .lid = true) →
          s.dev.taken n l = true → ∀ r, (s.dev.nest n).record = some r →
          ((s.dev.nest n).state.endsEarly = true →
            (t.dev.nest n).state = (if t.dev.taken n .clamped then .releasing
              else if t.dev.taken n .present then .done else .empty)
            ∧ (t.dev.nest n).tone.mode = .silent
            ∧ (s.dev.labels.posted < 64 → EndedWithLabel { s.dev with fixture := t.dev.fixture } t.dev n r .fixture
              ∧ (t.dev.nest n).history = addEvent (addEvent (s.dev.nest n).history .fixtureFail) .labelled)
            ∧ (64 ≤ s.dev.labels.posted → Discarded { s.dev with fixture := t.dev.fixture } t.dev n r
              ∧ (t.dev.nest n).history = addEvent (s.dev.nest n).history .fixtureFail))
          ∧ ((s.dev.nest n).state = .labelWait →
            t.dev.nest n = { s.dev.nest n with record := some { r with partLost := true } })
          ∧ ((s.dev.nest n).state = .marking →
            (t.dev.nest n).state = (if t.dev.taken n .clamped then .releasing
              else if t.dev.taken n .present then .done else .empty)
            ∧ (t.dev.nest n).record = none ∧ (t.dev.nest n).markClaim = false
            ∧ t.dev = { s.dev with nests := t.dev.nests, fixture := t.dev.fixture, notices := t.dev.notices })))

/-! ## Timed events of a unit -/

/-- The timers of the fixture and the mark pulse. SETTLE_END enters LEVEL_LOCK with the start gain (R14, R37);
CLAMP_TIMEOUT ends the unit early with FIXTURE (R15, R24), and where it leaves the nest follows R22 against R15, which
is the model's choice (log 37); RELEASE_TIMEOUT enters FAULT (R22, R23); MARK_PULSE_END ends MARKING (R21). The
coalescing timer sets LABELS (R192); that it then stands stopped is the model's choice (log 29). -/
def Obligations.TimersAct : Prop :=
  ∀ (s : State) (n : NestId),
    (∀ r run total, (s.dev.nest n).state = .clamping → (s.dev.nest n).settling = some (run, total) → total ≤ run →
      (s.dev.nest n).record = some r →
      ∃ t sub, exec (.settleEnd n) s = .next t ∧ (t.dev.nest n).state = .levelLock
        ∧ (t.dev.nest n).record = some { r with sub := sub } ∧ (t.dev.nest n).tone.gain = r.lockedGain.getD 0
        ∧ (t.dev.nest n).settling = none ∧ (t.dev.nest n).history = (s.dev.nest n).history
        ∧ StageOnly s.dev t.dev n ∧ t = { s with dev := t.dev })
    ∧ (∀ r, (s.dev.nest n).state = .clamping → (s.dev.nest n).settling = none →
      96 * (s.dev.map n).clampTimeout ≤ (s.dev.nest n).clampTimer → (s.dev.nest n).record = some r →
      ∃ t, exec (.clampTimeout n) s = .next t ∧ (t.dev.nest n).state = s.dev.afterUnit n
        ∧ hasFailure (addFailure r.failures .fixture) .fixture = true
        ∧ (s.dev.labels.posted < 64 → EndedWithLabel s.dev t.dev n r .fixture)
        ∧ (64 ≤ s.dev.labels.posted → Discarded s.dev t.dev n r)
        ∧ t = { s with dev := t.dev })
    ∧ ((s.dev.nest n).state = .releasing → 96 * (s.dev.map n).releaseTimeout ≤ (s.dev.nest n).releaseTimer →
      ∃ t, exec (.releaseTimeout n) s = .next t ∧ (t.dev.nest n).state = .fault
        ∧ (t.dev.nest n).record = none
        ∧ (t.dev.nest n).history = addEvent (s.dev.nest n).history .fixtureFail
        ∧ SameOtherNests s.dev t.dev n
        ∧ t = { s with dev := { s.dev with
            nests := t.dev.nests, notices := s.dev.notices.raise (nestFaultSource n) } })
    ∧ (∀ r v, (s.dev.nest n).state = .marking → (s.dev.nest n).markClaim = true → (s.dev.nest n).record = some r →
      r.verdict = some v → 96 * v.markPulse ≤ (s.dev.nest n).markTimer →
      ∃ t, exec (.markPulseEnd n) s = .next t ∧ (t.dev.nest n).state = s.dev.afterUnit n
        ∧ (t.dev.nest n).markClaim = false ∧ (t.dev.nest n).record = none ∧ SameOtherNests s.dev t.dev n
        ∧ t = { s with dev := { s.dev with nests := t.dev.nests } })
    ∧ ∀ x, s.dev.notices.timer = some x → 96 * s.dev.notices.coalescingTime ≤ x →
      exec .coalescingTimerExpiry s = .next { s with dev := { s.dev with
        notices := { s.dev.notices with pending := s.dev.notices.pending.set labelsSource true, timer := none } } }

/-- LOCK_INTERVAL_END at the end of a 20 ms interval no later than the timeout: out of tolerance the gain moves by the
difference of target and sense level, truncated to 0.1 dB and bounded to 6.0 dB, within −40.0 to +12.0 dB; the third
interval in a row within tolerance writes the locked gain, and the pilot's presence decides between QUIET_CHECK and
JUDGING with NO_SIGNAL (R38, R39). LOCK_TIMEOUT goes to JUDGING with LEVEL_LOCK (R40). The sense level is that of the
PILOT FREQUENCY component of the drive-sense samples the interval took, and the pilot response that of the delayed
microphone samples it took, less the applied drive level; that the component is the best-fitting sine over the interval,
compared with its limits exactly, is the model's reading (log 26). In loopback the test passes for every floor (R39,
log 7). A row that names another try or interval of the unit changes nothing (the model's form, log 2). -/
def Obligations.LevelLockEnds : Prop :=
  ∀ (s : State) (n : NestId) (r : UnitRecord) (h : PlanHeader) (t : ToneGenerator),
    (s.dev.nest n).state = .levelLock → (s.dev.nest n).record = some r → (s.dev.nest n).tone = t → t.mode = .lock →
    (s.dev.planOf r).header = h →
    (∀ tryNumber interval : Nat, tryNumber ≠ r.tries ∨ interval ≠ t.intervals →
      exec (.lockIntervalEnd n tryNumber interval) s = .next s)
    ∧ (1920 * (t.intervals + 1) ≤ t.timer → 1920 * (t.intervals + 1) ≤ 96 * h.lockTimeout * r.dwell →
      ∃ sense pilot : ℚ, ComponentSquare h.pilotFrequency t.sense sense ∧ ComponentSquare h.pilotFrequency t.pilot pilot
      ∧ ∀ inTolerance : Prop, (inTolerance ↔ LevelAtLeast (h.senseTarget - h.lockTolerance) sense
          ∧ LevelAtMost (h.senseTarget + h.lockTolerance) sense) →
        (¬ inTolerance → ∃ m, GainMove h.senseTarget sense m
          ∧ exec (.lockIntervalEnd n r.tries t.intervals) s = .next { s with dev := s.dev.setNest n { s.dev.nest n with
              tone := { t with
                inTolerance := 0
                intervals := t.intervals + 1
                sense := []
                pilot := []
                gain := max (-400) (min 120 (t.gain + m)) } } })
        ∧ (inTolerance → t.inTolerance < 2 →
          exec (.lockIntervalEnd n r.tries t.intervals) s = .next { s with dev := s.dev.setNest n { s.dev.nest n with
            tone := { t with
              inTolerance := t.inTolerance + 1
              intervals := t.intervals + 1
              sense := []
              pilot := [] } } })
        ∧ (inTolerance → 2 ≤ t.inTolerance →
          ∃ u, exec (.lockIntervalEnd n r.tries t.intervals) s = .next u ∧ u = { s with dev := u.dev }
            ∧ ((s.dev.nest n).loopback = true
                ∨ LevelAtLeast (h.noSignalFloor + min 0 (h.pilotLevel + t.gain)) pilot →
              (u.dev.nest n).state = .quietCheck ∧ (u.dev.nest n).tone.mode = .silent
              ∧ (u.dev.nest n).history = addEvent (s.dev.nest n).history .locked
              ∧ (∃ sub, (u.dev.nest n).record
                  = some { r with lockedGain := some t.gain, quietAttempts := 0, sub := sub })
              ∧ StageOnly s.dev u.dev n)
            ∧ ((s.dev.nest n).loopback = false →
              ¬ LevelAtLeast (h.noSignalFloor + min 0 (h.pilotLevel + t.gain)) pilot →
              EnteredJudging s.dev u.dev n { r with lockedGain := some t.gain } (addFailure r.failures .noSignal)
                (addEvent (addEvent (s.dev.nest n).history .locked) .levelFail))))
    ∧ (96 * h.lockTimeout * r.dwell ≤ t.timer → 96 * h.lockTimeout * r.dwell < 1920 * (t.intervals + 1) →
      ∃ u, exec (.lockTimeout n) s = .next u ∧ u = { s with dev := u.dev }
        ∧ EnteredJudging s.dev u.dev n r (addFailure r.failures .levelLock)
            (addEvent (s.dev.nest n).history .levelFail))

/-- QUIET_WINDOW_CLOSE at the end of the window of the attempt it names (log 2): at or below the limit, or in
loopback, the nest enters SWEEPING; above it the unit waits for another attempt while attempts are left, and otherwise
goes to JUDGING with NOISE. The quiet level is the RMS level of the samples the window took, one each frame of it,
against a sine at full scale (R35, R61; log 34). After the wait of 100 ms the nest asks for its permit again (R61,
R62, R55). -/
def Obligations.QuietCheckEnds : Prop :=
  ∀ (s : State) (n : NestId) (r : UnitRecord) (h : PlanHeader) (quiet : Prop),
    (s.dev.nest n).state = .quietCheck → (s.dev.nest n).record = some r → (s.dev.planOf r).header = h →
    (quiet ↔ (s.dev.nest n).loopback = true ∨ (2 * (s.dev.nest n).quietSquares) ^ 100 * 10 ^ (-h.quietLimit).toNat
      ≤ ((s.dev.nest n).quietCount * 32767 ^ 2) ^ 100) →
    (r.sub = .measuring → 4800 * r.dwell ≤ (s.dev.nest n).stageTimer →
      ∃ t, exec (.quietWindowClose n r.quietAttempts) s = .next t ∧ t = { s with dev := t.dev }
        ∧ (quiet →
          (t.dev.nest n).state = .sweeping ∧ (∃ sub, (t.dev.nest n).record = some { r with sub := sub })
          ∧ (t.dev.nest n).history = addEvent (s.dev.nest n).history .quiet ∧ StageOnly s.dev t.dev n)
        ∧ (¬ quiet →
          (r.quietAttempts < h.quietRetries →
            (t.dev.nest n).state = .quietCheck ∧ (t.dev.nest n).stageTimer = 0
            ∧ (t.dev.nest n).record = some { r with quietAttempts := r.quietAttempts + 1, sub := .retryWait }
            ∧ (t.dev.nest n).history = (s.dev.nest n).history
            ∧ (t.dev.group (s.dev.groupOf n)).holder ≠ some n ∧ StageOnly s.dev t.dev n)
          ∧ (h.quietRetries ≤ r.quietAttempts →
            EnteredJudging s.dev t.dev n r (addFailure r.failures .noise)
              (addEvent (s.dev.nest n).history .noiseFail))))
    ∧ (r.sub = .retryWait → 9600 ≤ (s.dev.nest n).stageTimer →
      ∃ t, exec (.quietRetryWaitEnd n) s = .next t ∧ t = { s with dev := t.dev }
        ∧ (t.dev.nest n).state = .quietCheck ∧ (t.dev.nest n).history = (s.dev.nest n).history
        ∧ (((t.dev.nest n).record = some { r with sub := .measuring }
              ∧ (t.dev.group (s.dev.groupOf n)).holder = some n)
            ∨ ((t.dev.nest n).record = some { r with sub := .waitPermit }
              ∧ n ∈ (t.dev.group (s.dev.groupOf n)).queue))
        ∧ StageOnly s.dev t.dev n)

/-- WINDOW_CLOSE when due: a span of fewer than 96 samples is counted unmapped (R69). A window of a nest not in loopback
is void where its ambient level is above AMBIENT LIMIT: the level of the group's samples it took, all of it for a
SILENCE window, and for any other what is left of them when the mixture of the tones at the frequencies driven within
the window and their harmonics 2 to 5 that fits them best is taken away (R63; a range goes by equally spaced tones from
one end of it to the other, so close that a tone anywhere between them goes with them; their number, and that the best
mixture goes, are the model's choice, log 39). The group's guard keeps the level and the indication (log 25). A void
window folds nothing, and restarts the segment while resweeps are left, or else goes to JUDGING with NOISE (R64, R65).
An accepted window of a PILOT, STEP or CHIRP segment is folded into the band its frequency lies in, and counted unmapped
where none holds it (R82): its response is the held fundamental level less the applied drive level plus the correction
of the band (R76), and it moves the smallest and the largest response, the largest distortion and, unless its residue is
empty, the largest buzz ratio and crest, and adds its uncorrected response to the sum and one to the window count, which
ends at 65,535 (R77, R78, R79, R83). A microphone whose samples are all 0 carries no signal: its fundamental level is at
the floor (R79). The measured values are those of the row (logs 5, 6); the loopback level, the distortion at 24,000 Hz,
the centre of a chirp sub-window and the rounding of its frequency where it decides the empty residue are read or chosen
by the model (logs 7, 21, 28, 40). One of a PILOT segment gives the polarity result, positive in loopback and without a
signal (R80). One of a SILENCE segment is folded, buzz and crest alone, into the bands that the segment before feeds,
and counted unmapped where that is none or the residue is empty (R73, R78, R83); in loopback, whose drive is zero, and
without a signal, its buzz ratio is the lowest (R47, R78, R79). Where the segment captures, blocks go from the head of
the Free List to the end of the chain and no other block changes (R141). SEGMENT_END presents the next segment, or ends
the sweep with SWEPT (R48). -/
def Obligations.SweepAdvances : Prop :=
  (∀ (s : State) (n : NestId) (r : UnitRecord) (p : Plan) (x : Segment) (k : Nat) (m : Measures) (g : GroupId)
    (xs ys : List Sample) (squares : Nat) (void : Prop),
    (s.dev.nest n).state = .sweeping → (s.dev.nest n).tone.mode = .segment → (s.dev.nest n).record = some r →
    s.dev.planOf r = p → p.segments[r.cursor] = x → (s.dev.nest n).engine.closed = k → s.dev.groupOf n = g →
    xs = ((s.dev.nest n).engine.window.map OpenWindow.samples).getD [] →
    ys = ((s.dev.nest n).engine.window.map OpenWindow.ambient).getD [] →
    (x.kind = .silence → squares = ((s.dev.nest n).engine.window.map OpenWindow.ambientSquares).getD 0) →
    (x.kind ≠ .silence → ∃ e, squares = e.floor.toNat ∧ LeastLeft (ys.map fun y => (y.toInt : ℚ))
      (excludedWaves (driveRange p.header x k).1 (driveRange p.header x k).2 ys.length) e) →
    (void ↔ (s.dev.nest n).loopback = false
      ∧ (ys.length * 32767 ^ 2) ^ 100 < (2 * squares) ^ 100 * 10 ^ (-p.header.ambientLimit).toNat) →
    (k < windowCount x r.dwell → (windowSpan x r.dwell p.header.acousticDelay k).micEnd ≤ (s.dev.nest n).tone.timer →
      ∃ t, exec (.windowClose n m) s = .next t ∧ t.mgmt = s.mgmt
        ∧ ((windowSpan x r.dwell p.header.acousticDelay k).isEmpty = true →
          t = { s with dev := s.dev.setNest n { s.dev.nest n with
            record := some { r with unmapped := min 65535 (r.unmapped + 1) }
            engine := { window := none, closed := k + 1 } } })
        ∧ ((windowSpan x r.dwell p.header.acousticDelay k).isEmpty = false →
          ((s.dev.nest n).loopback = true → t.dev.groups = s.dev.groups)
          ∧ ((s.dev.nest n).loopback = false → ((t.dev.group g).windowVoid = true ↔ void)
            ∧ (t.dev.group g).ambientLevel = some { count := ys.length, squares := squares }))
        ∧ ((windowSpan x r.dwell p.header.acousticDelay k).isEmpty = false → void →
          (r.resweeps + 1 ≤ p.header.resweeps →
            t.dev.nest n = { s.dev.nest n with
              record := some { r with resweeps := r.resweeps + 1 }
              history := addEvent (s.dev.nest n).history .reswept
              tone := { (s.dev.nest n).tone with phase := 0, timer := 0 }
              engine := { window := none, closed := 0 } }
            ∧ (∀ j, j ≠ n → t.dev.nest j = s.dev.nest j) ∧ t.samples = s.samples)
          ∧ (p.header.resweeps < r.resweeps + 1 →
            EnteredJudging s.dev t.dev n { r with resweeps := r.resweeps + 1 } (addFailure r.failures .noise)
              (addEvent (s.dev.nest n).history .noiseFail) ∧ t.samples = s.samples))
        ∧ ((windowSpan x r.dwell p.header.acousticDelay k).isEmpty = false → ¬ void →
          (t.dev.nest n).state = .sweeping ∧ (t.dev.nest n).engine = { window := none, closed := k + 1 }
          ∧ (∀ f : Nat, (x.kind = .pilot ∧ f = p.header.pilotFrequency) ∨ (x.kind = .step ∧ f = x.startFrequency)
              ∨ (x.kind = .chirp ∧ f = subWindowFrequency x k) →
            ∃ y, (t.dev.nest n).record = some y
              ∧ (∀ (b : BandId) (applied fundamental : Int), p.bandAt f = some b →
                applied = min 0 (x.level + r.lockedGain.getD 0) →
                fundamental = max (-1200) (min 0 (if (s.dev.nest n).loopback then applied
                  else if ∀ v ∈ xs, v = 0 then -1200 else m.fundamental)) →
                y.unmapped = r.unmapped ∧ (∀ i : BandId, i ≠ b → y.accumulators[i] = r.accumulators[i])
                ∧ Folded r.accumulators[b] y.accumulators[b]
                  (max (-1000) (min 400 (fundamental - applied + r.corrections[b])))
                  (max (-1000) (min 400 (fundamental - applied)))
                  (if fundamental = -1200 then 10000 else if f = 24000 then 1 else max 1 (min 10000 m.distortion))
                  (if 4800 ≤ f then none else some (max (-1200) (min 400 m.buzz), max 0 (min 600 m.crest))))
              ∧ (p.bandAt f = none → y.accumulators = r.accumulators ∧ y.unmapped = min 65535 (r.unmapped + 1))
              ∧ y.failures = (if x.kind = .pilot ∧ (s.dev.nest n).loopback = false ∧ m.inPhase = false
                  ∧ (∃ v ∈ xs, v ≠ 0) ∧ p.header.noSignalFloor
                    ≤ max (-1200) (min 0 m.fundamental) - min 0 (x.level + r.lockedGain.getD 0)
                then addFailure r.failures .polarity else r.failures))
          ∧ (∀ before : Option Segment, x.kind = .silence →
            before = (if r.cursor.val = 0 then none else p.segments[r.cursor.val - 1]?) →
            ∃ y, (t.dev.nest n).record = some y ∧ y.failures = r.failures
              ∧ (before = none ∨ (∃ c, before = some c ∧ c.kind = .silence) →
                y.accumulators = r.accumulators ∧ y.unmapped = min 65535 (r.unmapped + 1))
              ∧ ∀ (c : Segment) (f : Nat) (feeds : BandId → Prop) (buzz crest : Int), before = some c →
                (c.kind = .step ∧ f = c.startFrequency) ∨ (c.kind = .pilot ∧ f = p.header.pilotFrequency)
                  ∨ (c.kind = .chirp ∧ f = c.endFrequency) →
                (∀ i, feeds i ↔ f < 4800 ∧ ((c.kind ≠ .chirp ∧ p.bandAt f = some i)
                  ∨ (c.kind = .chirp ∧ i.val < p.header.bandCount
                    ∧ (p.bands[i]).lower ≤ max c.startFrequency c.endFrequency
                    ∧ min c.startFrequency c.endFrequency < (p.bands[i]).upper))) →
                buzz = (if (s.dev.nest n).loopback = true ∨ ∀ v ∈ xs, v = 0 then -1200
                  else max (-1200) (min 400 (m.residueLevel - min 0 (c.level + r.lockedGain.getD 0)))) →
                crest = max 0 (min 600 m.crest) →
                ((∀ i, ¬ feeds i) → y.accumulators = r.accumulators ∧ y.unmapped = min 65535 (r.unmapped + 1))
                ∧ ((∃ i, feeds i) → y.unmapped = r.unmapped
                  ∧ ∀ i : BandId, (¬ feeds i → y.accumulators[i] = r.accumulators[i])
                    ∧ (feeds i → y.accumulators[i] = { r.accumulators[i] with
                        maxBuzz := some (max buzz ((r.accumulators[i]).maxBuzz.getD buzz))
                        maxCrest := some (max crest ((r.accumulators[i]).maxCrest.getD crest)) })))
          ∧ (x.capture = false ∨ p.header.capturePolicy = .none →
            t.samples = s.samples ∧ t.dev.pool = s.dev.pool ∧ ∃ y, (t.dev.nest n).record = some y ∧ y.chain = r.chain)
          ∧ (x.capture = true → p.header.capturePolicy ≠ .none → r.chain.fill ≤ 4096 →
            ∃ y, (t.dev.nest n).record = some y
              ∧ y.chain.blocks ++ t.dev.pool.free = r.chain.blocks ++ s.dev.pool.free
              ∧ r.chain.blocks.length ≤ y.chain.blocks.length
              ∧ ∀ (b : BlockId) (i : Nat), b ∉ y.chain.blocks → i < 4096 →
                  readSample t.samples b i = readSample s.samples b i)
          ∧ ∀ j, j ≠ n → t.dev.nest j = s.dev.nest j))
    ∧ (durationFrames x r.dwell ≤ (s.dev.nest n).tone.timer → windowCount x r.dwell ≤ k →
      ∃ t, exec (.segmentEnd n) s = .next t ∧ t = { s with dev := t.dev }
        ∧ (r.cursor.val + 1 < p.header.segmentCount →
          (t.dev.nest n).state = .sweeping ∧ (t.dev.nest n).history = (s.dev.nest n).history
          ∧ (∃ sub, (t.dev.nest n).record = some { r with cursor := r.cursor + 1, resweeps := 0, sub := sub })
          ∧ StageOnly s.dev t.dev n)
        ∧ (p.header.segmentCount ≤ r.cursor.val + 1 →
          EnteredJudging s.dev t.dev n r r.failures (addEvent (s.dev.nest n).history .swept))))
  ∧ (∀ (p : Plan) (f : Nat),
      (∀ b, p.bandAt f = some b → b.val < p.header.bandCount ∧ (p.bands[b]).lower ≤ f ∧ f < (p.bands[b]).upper)
      ∧ (p.bandAt f = none ↔ ∀ b : BandId, b.val < p.header.bandCount →
          f < (p.bands[b]).lower ∨ (p.bands[b]).upper ≤ f))
  ∧ (∀ (lo hi count : Nat) (w : List ℚ), w ∈ excludedWaves lo hi count ↔
      ∃ h turns frames start : Nat, 1 ≤ h ∧ h ≤ 5 ∧ 2 * turns < frames ∧ (start = 0 ∨ start = phaseTurn / 4)
        ∧ ((lo = hi ∧ turns = h * lo ∧ frames = 96000)
          ∨ (lo ≠ hi ∧ ∃ b steps i : Nat, b = (h * (hi - lo) * count + 95999) / 96000
            ∧ steps = b + (b + 3) / 4 + 3 ∧ i ≤ steps ∧ turns = h * (lo * steps + (hi - lo) * i)
            ∧ frames = 96000 * steps))
        ∧ w = (List.range count).map fun j => (signedSine (turns * j * phaseTurn / frames + start) : ℚ))
  ∧ (∀ (h : PlanHeader) (x : Segment) (k : Nat),
      (x.kind = .pilot → driveRange h x k = (h.pilotFrequency, h.pilotFrequency))
      ∧ (x.kind = .step → driveRange h x k = (x.startFrequency, x.startFrequency)))
  ∧ ∀ (x : Segment) (k portion length : Nat), x.InRange → x.kind = .chirp → k < windowCount x 1 →
      portion = x.duration - x.settle →
      length = (if k + 1 = max 1 (portion / 10) then portion - 10 * k else 10) →
      RoundsTo x.startFrequency x.endFrequency (20 * k + length) (2 * portion) (subWindowFrequency x k)
      ∧ ∀ h : PlanHeader, ∃ a b, driveRange h x k = (min a b, max a b)
          ∧ RoundsTo x.startFrequency x.endFrequency (10 * k) portion a
          ∧ RoundsTo x.startFrequency x.endFrequency (10 * k + length) portion b

/-- What a captured window writes. While the chain records and is below its plan's block limit, the samples of the
chain are those it had, unchanged, and after them the window's samples in order, up to the room that the limit and the
Free List leave (R141, R142, R143). STATUS is TAKEN and the chain goes on recording until its limit block is full;
where the Free List runs out first, recording ends with STATUS SKIPPED when the chain holds no block and TRUNCATED
otherwise. A chain that records no more, and a window without samples, write nothing. CAPTURE_LOW is set exactly when
the free count falls below the threshold (R149). -/
def Obligations.WindowCaptured : Prop :=
  ∀ (s : State) (n : NestId) (r : UnitRecord) (h : PlanHeader) (x : Segment) (m : Measures) (k room count : Nat)
    (xs : List Sample), PoolKept s →
    (s.dev.nest n).state = .sweeping → (s.dev.nest n).tone.mode = .segment → (s.dev.nest n).record = some r →
    (s.dev.planOf r).header = h → s.dev.segmentOf r = x → (s.dev.nest n).engine.closed = k →
    k < windowCount x r.dwell → (windowSpan x r.dwell h.acousticDelay k).micEnd ≤ (s.dev.nest n).tone.timer →
    (windowSpan x r.dwell h.acousticDelay k).isEmpty = false →
    s.dev.windowIsVoid n r = false → x.capture = true → h.capturePolicy ≠ .none →
    r.chain.fill ≤ 4096 → xs = (s.dev.nest n).windowSamples → count = r.chain.sampleCount →
    room = 4096 * min h.captureBlockLimit (r.chain.blocks.length + s.dev.pool.free.length) →
    ∃ t y, exec (.windowClose n m) s = .next t ∧ (t.dev.nest n).record = some y
      ∧ (r.chain.recording = false ∨ xs = [] →
        y.chain = r.chain ∧ t.samples = s.samples ∧ t.dev.pool = s.dev.pool)
      ∧ (r.chain.recording = true → count < 4096 * h.captureBlockLimit → xs ≠ [] →
        chainSamples t.samples y.chain = chainSamples s.samples r.chain ++ xs.take (room - count)
        ∧ (count + xs.length ≤ room → y.chain.status = .taken
          ∧ y.chain.recording = decide (count + xs.length < 4096 * h.captureBlockLimit))
        ∧ (room < count + xs.length → h.captureBlockLimit ≤ r.chain.blocks.length + s.dev.pool.free.length →
          y.chain.status = .taken ∧ y.chain.recording = false)
        ∧ (room < count + xs.length → r.chain.blocks.length + s.dev.pool.free.length < h.captureBlockLimit →
          y.chain.recording = false
          ∧ y.chain.status = if r.chain.blocks = [] ∧ s.dev.pool.free = [] then .skipped else .truncated))
      ∧ (t.dev.notices.pending[captureLowSource] = true ↔ s.dev.notices.pending[captureLowSource] = true
          ∨ (t.dev.pool.free.length < s.dev.pool.lowThreshold ∧ s.dev.pool.lowThreshold ≤ s.dev.pool.free.length))

/-! ## Judging -/

/-- JUDGE_COMPLETE of a PRODUCTION or ENGINEERING unit with the entry its failure set selects. A retest returns the nest
to LEVEL_LOCK with a fresh try; a final verdict is written with the entry's values, its chain is kept or freed as Table
5-2 gives, and its label is posted when a ring entry is free; otherwise the nest waits for one with that verdict and
decision, the first to wait setting RING_FULL (R17, R18, R93 to R96, R101, R105). What is found: the failure set gains
the class of every failed band test of a measured band (R85, R86), MARGINAL where none failed and a margin lies within
its band's guard (R87), and NO_SIGNAL for an unmeasured band unless it names NOISE or LEVEL_LOCK (R88), and nothing
else. Entering MARKING makes the claims of the action set in the step of posting (R21, R108). The worst band has the
smallest margin, the lowest-numbered of those that share it, held within -99.9 to +99.9 dB (R89), where the model reads
that the margins are compared before they are held (DEDUCED, log 32); the entry is the lowest-numbered whose REQUIRE the
set holds and whose EXCLUDE it does not touch (R92); a distortion margin is rounded to the nearest 0.1 dB, and 0.0 of a
failed test taken as -0.1 (R85). -/
def Obligations.JudgingActsOnEntry : Prop :=
  (∀ (s : State) (n : NestId) (r : UnitRecord) (p : Plan) (i : Fin 16) (v : VerdictEntry) (f : FailureSet)
    (w : Option (BandId × Int)) (kept : Bool),
    (s.dev.nest n).state = .judging → (s.dev.nest n).record = some r → r.role ≠ .golden → s.dev.planOf r = p →
    f = judgedFailures p r → w = worstBand p r → selectEntry (s.dev.tables.bank r.bank).rows f = some i →
    (s.dev.tables.bank r.bank).rows.verdicts[i] = v →
    (kept = true ↔ (v.override = .force ∧ p.header.capturePolicy ≠ .none)
      ∨ (v.override = .inherit ∧ (p.header.capturePolicy = .always
          ∨ (p.header.capturePolicy = .onFail ∧ v.cls ≠ .pass)))) →
    ∃ t, exec (.judgeComplete n) s = .next t ∧ t = { s with dev := t.dev }
      ∧ (v.retest = true → r.tries - 1 < p.header.retestLimit →
        (t.dev.nest n).state = .levelLock ∧ t.dev.labels = s.dev.labels
        ∧ (t.dev.nest n).history = addEvent (addEvent (s.dev.nest n).history .judged) .retested
        ∧ (∃ sub, (t.dev.nest n).record = some { r with
            failures := 0, worst := none, accumulators := Vector.replicate 32 .initial, unmapped := 0
            chain := .empty, cursor := 0, resweeps := 0, tries := r.tries + 1, dwell := p.header.dwellFactor
            sub := sub })
        ∧ t.dev.pool = { s.dev.pool with free := s.dev.pool.free ++ r.chain.blocks }
        ∧ (t.dev.yields.live[n]).retests = (s.dev.yields.live[n]).retests + 1
        ∧ (t.dev.yields.live[n]).labelled = (s.dev.yields.live[n]).labelled)
      ∧ (v.retest = false ∨ p.header.retestLimit ≤ r.tries - 1 →
        (s.dev.labels.posted < 64 →
          t.dev.labels.ring[s.dev.labels.post] = some
            { label :=
                { number := s.dev.labels.counter, nest := n, role := r.role, plan := r.plan, generation := r.generation
                  serial := r.serial, lot := r.lot, cls := v.cls, bin := if v.cls = .void then none else some v.bin
                  failures := f, tries := r.tries, worst := w, actions := v.actions
                  captureStatus := if kept then r.chain.status else .none
                  captureBlocks := if kept then r.chain.blocks.length else 0
                  calAtStart := r.calAtStart, calStale := false }
              chain := if kept = true ∧ r.chain.blocks ≠ [] then some r.chain else none }
          ∧ t.dev.pool = (if kept then s.dev.pool
              else { s.dev.pool with free := s.dev.pool.free ++ r.chain.blocks })
          ∧ t.dev.labels.posted = s.dev.labels.posted + 1 ∧ t.dev.labels.counter = s.dev.labels.counter + 1
          ∧ (t.dev.nest n).history = addEvent (addEvent (s.dev.nest n).history .judged) .labelled
          ∧ (t.dev.nest n).state = (if actMark v.actions then .marking else s.dev.afterUnit n)
          ∧ ClaimsMade s.dev t.dev n v.actions
          ∧ (t.dev.tables.bank r.bank).pins = (s.dev.tables.bank r.bank).pins - 1
          ∧ (t.dev.yields.live[n]).labelled = (s.dev.yields.live[n]).labelled + 1)
        ∧ (64 ≤ s.dev.labels.posted →
          (t.dev.nest n).state = .labelWait ∧ t.dev.labels.ring = s.dev.labels.ring
          ∧ (t.dev.nest n).record = some { r with
              failures := f, worst := w, chainKept := kept, calStale := false
              verdict := some { cls := v.cls, bin := some v.bin, entry := some i, actions := v.actions
                                markPulse := v.markPulse, override := v.override } }
          ∧ t.dev.labels.counter = s.dev.labels.counter ∧ t.dev.labels.waitQueue = s.dev.labels.waitQueue ++ [n]
          ∧ (t.dev.nest n).history = addEvent (s.dev.nest n).history .judged
          ∧ t.dev.tables = s.dev.tables ∧ t.dev.yields = s.dev.yields ∧ t.dev.pool = s.dev.pool
          ∧ (s.dev.labels.waitQueue = [] → t.dev.notices.pending[ringFullSource] = true)
          ∧ (s.dev.labels.waitQueue ≠ [] → t.dev.notices = s.dev.notices))))
  ∧ (∀ (p : Plan) (r : UnitRecord) (f : FailureSet), f = judgedFailures p r →
      (∀ c : FailureClass, c ∈ [FailureClass.respLow, .respHigh, .distortion, .buzz, .crest] →
        (hasFailure f c = true ↔ hasFailure r.failures c = true
          ∨ ∃ i m, Measured p r i ∧ TestMade p.bands[i] r.accumulators[i] c true m))
      ∧ (hasFailure f .marginal = true ↔ hasFailure r.failures .marginal = true
          ∨ ((∀ i c m, Measured p r i → ¬ TestMade p.bands[i] r.accumulators[i] c true m)
            ∧ ∃ i c m, Measured p r i ∧ TestMade p.bands[i] r.accumulators[i] c false m ∧ 0 ≤ m
                ∧ m < (p.bands[i]).guardMargin))
      ∧ (hasFailure f .noSignal = true ↔ hasFailure r.failures .noSignal = true
          ∨ ((∃ i : BandId, i.val < p.header.bandCount ∧ (r.accumulators[i]).windowCount = 0)
            ∧ hasFailure r.failures .noise = false ∧ hasFailure r.failures .levelLock = false))
      ∧ ∀ c : FailureClass, c ∈ [FailureClass.polarity, .levelLock, .noise, .fixture, .aborted, .link] →
        hasFailure f c = hasFailure r.failures c)
  ∧ (∀ (p : Plan) (r : UnitRecord),
      (worstBand p r = none ↔ ∀ i c q m, Measured p r i → ¬ TestMade p.bands[i] r.accumulators[i] c q m)
      ∧ ∀ i m, worstBand p r = some (i, m) → Measured p r i
        ∧ ∃ g, m = max (-999) (min 999 g) ∧ (∃ c q, TestMade p.bands[i] r.accumulators[i] c q g)
          ∧ ∀ j c q k, Measured p r j → TestMade p.bands[j] r.accumulators[j] c q k → g ≤ k ∧ (j < i → g < k))
  ∧ (∀ (rows : BankRows) (f : FailureSet) (accepts : Fin 16 → Prop),
      (∀ i, accepts i ↔ (rows.verdicts[i]).require &&& f = (rows.verdicts[i]).require
        ∧ (rows.verdicts[i]).exclude &&& f = 0) →
      (∀ i, selectEntry rows f = some i ↔ accepts i ∧ ∀ j, j < i → ¬ accepts j)
      ∧ (selectEntry rows f = none ↔ ∀ i, ¬ accepts i))
  ∧ ∀ limit measured : Nat, 1 ≤ limit → limit ≤ 10000 → 1 ≤ measured → measured ≤ 10000 →
      ∃ m : Int, 10 ^ (2 * m + 1999).toNat * measured ^ 400 ≤ limit ^ 400 * 10 ^ 2000
        ∧ limit ^ 400 * 10 ^ 2000 < 10 ^ (2 * m + 2001).toNat * measured ^ 400 ∧ -1000 < m ∧ m < 1000
        ∧ distortionMargin limit measured = if limit < measured ∧ m = 0 then -1 else m

/-- JUDGE_COMPLETE of a GOLDEN unit: VOID on NOISE, LEVEL_LOCK, NO_SIGNAL or FIXTURE; otherwise PASS when every
deviation is within the adjust limit, else FAIL. Where its generation is the record's stamp, a PASS makes the record
OK with the negated deviations, a FAIL makes it OUT, and a VOID leaves it; where it is not, the record stands and the
label is CAL_STALE. A change of the record's state sets the nest's CAL flag with cause GOLDEN and the plan, and
nothing else sets it (R129, R137). The label carries no bin and no worst band, and the action LAMP alone on PASS; its
chain is kept or freed as Table 5-2 gives with INHERIT (R94, R97, R128 to R131). Without a free ring entry the nest
waits with that verdict and decision, the first to wait setting RING_FULL (R105); that the verdict of a golden unit has
no entry index, mark pulse 0 and the override INHERIT is the model's choice (log 22). A band's deviation is its mean
uncorrected response less its reference; the mean is exact where the sum divides evenly, and otherwise one of the two
steps of 0.1 dB around it, which of them being free (R90, R128; log 18). -/
def Obligations.GoldenJudging : Prop :=
  (∀ (s : State) (n : NestId) (r : UnitRecord) (p : Plan) (f : FailureSet) (c : LabelClass)
    (kept : Bool),
    (s.dev.nest n).state = .judging → (s.dev.nest n).record = some r → r.role = .golden → s.dev.planOf r = p →
    f = (if (∃ i : BandId, i.val < p.header.bandCount ∧ (r.accumulators[i]).windowCount = 0)
        ∧ hasFailure r.failures .noise = false ∧ hasFailure r.failures .levelLock = false
      then addFailure r.failures .noSignal else r.failures) →
    (kept = true ↔ p.header.capturePolicy = .always ∨ (p.header.capturePolicy = .onFail ∧ c ≠ .pass)) →
    c = (if hasFailure f .noise ∨ hasFailure f .levelLock ∨ hasFailure f .noSignal ∨ hasFailure f .fixture then .void
      else if ∀ i : BandId, i.val < p.header.bandCount → (deviation p r i).natAbs ≤ p.header.adjustLimit then .pass
      else .fail) →
    ∃ t, exec (.judgeComplete n) s = .next t ∧ t = { s with dev := t.dev }
      ∧ (∀ m q, (m, q) ≠ (n, r.plan) → t.dev.calibration.record m q = s.dev.calibration.record m q)
      ∧ (r.generation ≠ (s.dev.calibration.record n r.plan).stamp →
        t.dev.calibration.record n r.plan = s.dev.calibration.record n r.plan)
      ∧ t.dev.calibration.drift = s.dev.calibration.drift
      ∧ ((t.dev.calibration.record n r.plan).state ≠ (s.dev.calibration.record n r.plan).state →
        t.dev.notices.pending[calSource n] = true
        ∧ t.dev.notices.calCause = s.dev.notices.calCause.set n (some (.golden, some r.plan)))
      ∧ ((t.dev.calibration.record n r.plan).state = (s.dev.calibration.record n r.plan).state →
        t.dev.notices.pending[calSource n] = s.dev.notices.pending[calSource n]
        ∧ t.dev.notices.calCause = s.dev.notices.calCause)
      ∧ (t.dev.nest n).history = (if s.dev.labels.posted < 64
          then addEvent (addEvent (s.dev.nest n).history .judged) .labelled
          else addEvent (s.dev.nest n).history .judged)
      ∧ (r.generation = (s.dev.calibration.record n r.plan).stamp →
        (t.dev.calibration.record n r.plan).stamp = (s.dev.calibration.record n r.plan).stamp
        ∧ (c = .void → t.dev.calibration.record n r.plan = s.dev.calibration.record n r.plan)
        ∧ (c = .pass → (t.dev.calibration.record n r.plan).state = .ok
          ∧ ∀ i : BandId, (t.dev.calibration.record n r.plan).corrections[i]
              = if i.val < p.header.bandCount then -(deviation p r i) else 0)
        ∧ (c = .fail → (t.dev.calibration.record n r.plan).state = .out
          ∧ (t.dev.calibration.record n r.plan).corrections = (s.dev.calibration.record n r.plan).corrections))
      ∧ (s.dev.labels.posted < 64 →
          t.dev.labels.ring[s.dev.labels.post] = some
            { label :=
                { number := s.dev.labels.counter, nest := n, role := .golden, plan := r.plan, generation := r.generation
                  serial := r.serial, lot := r.lot, cls := c, bin := none, failures := f, tries := r.tries
                  worst := none, actions := if c = .pass then lampOnly else 0
                  captureStatus := if kept then r.chain.status else .none
                  captureBlocks := if kept then r.chain.blocks.length else 0, calAtStart := r.calAtStart
                  calStale := decide (r.generation ≠ (s.dev.calibration.record n r.plan).stamp) }
              chain := if kept = true ∧ r.chain.blocks ≠ [] then some r.chain else none }
          ∧ t.dev.pool = (if kept then s.dev.pool
              else { s.dev.pool with free := s.dev.pool.free ++ r.chain.blocks })
          ∧ (t.dev.nest n).state = s.dev.afterUnit n
          ∧ ClaimsMade s.dev t.dev n (if c = .pass then 4 else 0)
          ∧ t.dev.yields = { s.dev.yields with
              live := s.dev.yields.live.set n (counted s.dev.yields.live[n] .golden none false) })
      ∧ (64 ≤ s.dev.labels.posted → (t.dev.nest n).state = .labelWait
          ∧ (t.dev.nest n).record = some { r with
              failures := f, chainKept := kept
              calStale := decide (r.generation ≠ (s.dev.calibration.record n r.plan).stamp)
              verdict := some { cls := c, bin := none, entry := none, actions := if c = .pass then lampOnly else 0
                                markPulse := 0, override := .inherit } }
          ∧ t.dev.labels.waitQueue = s.dev.labels.waitQueue ++ [n] ∧ t.dev.labels.ring = s.dev.labels.ring
          ∧ t.dev.pool = s.dev.pool ∧ t.dev.tables = s.dev.tables ∧ t.dev.yields = s.dev.yields
          ∧ t.dev.notices.pending[ringFullSource]
            = (s.dev.notices.pending[ringFullSource] || decide (s.dev.labels.waitQueue = []))))
  ∧ (∀ c : FailureClass, hasFailure 0 c = false
      ∧ ∀ (f : FailureSet) (b : FailureClass), hasFailure (addFailure f c) b = (decide (b = c) || hasFailure f b))
  ∧ ∀ (p : Plan) (r : UnitRecord) (i : BandId), 1 ≤ (r.accumulators[i]).windowCount →
      ((r.accumulators[i]).uncorrectedSum % (r.accumulators[i]).windowCount = 0 →
        deviation p r i = (r.accumulators[i]).uncorrectedSum / (r.accumulators[i]).windowCount
          - (p.references[i]).response)
      ∧ ((r.accumulators[i]).uncorrectedSum % (r.accumulators[i]).windowCount ≠ 0 →
        deviation p r i = (r.accumulators[i]).uncorrectedSum / (r.accumulators[i]).windowCount
            - (p.references[i]).response
        ∨ deviation p r i = (r.accumulators[i]).uncorrectedSum / (r.accumulators[i]).windowCount + 1
            - (p.references[i]).response)
end

