-- ==== Sys2Proof/Laws/State.lean ====
section
/-! SUPPORT. One rewriting lemma for each field of each update of the blocks, so that no proof unfolds a record update.
Every change of one nest is brought to the form `setNest`. -/

namespace Sys2Proof.Machine

/-! ## Replacing a nest -/

@[simp] theorem Device.nest_setNest_same (d : Device) (n : NestId) (x : Nest) : (d.setNest n x).nest n = x := by
  simp [Device.setNest, Device.nest]

theorem Device.nest_setNest_ne (d : Device) {n m : NestId} (x : Nest) (h : m ≠ n) :
    (d.setNest n x).nest m = d.nest m := by
  have : n.val ≠ m.val := fun e => h (Fin.ext e.symm)
  simp [Device.setNest, Device.nest, this]

theorem Device.nest_setNest (d : Device) (n m : NestId) (x : Nest) :
    (d.setNest n x).nest m = if m = n then x else d.nest m := by
  by_cases h : m = n
  · subst h; simp
  · simp [h, Device.nest_setNest_ne d x h]

@[simp] theorem Device.setNest_setNest (d : Device) (n : NestId) (x y : Nest) :
    (d.setNest n x).setNest n y = d.setNest n y := by simp [Device.setNest]

@[simp] theorem Device.setNest_nest (d : Device) (n : NestId) : d.setNest n (d.nest n) = d := by
  cases d; simp [Device.setNest, Device.nest]

@[simp] theorem Device.setNest_nestPort (d : Device) (n : NestId) (x : Nest) : (d.setNest n x).nestPort = d.nestPort := rfl
@[simp] theorem Device.setNest_controllerPort (d : Device) (n : NestId) (x : Nest) :
    (d.setNest n x).controllerPort = d.controllerPort := rfl
@[simp] theorem Device.setNest_notices (d : Device) (n : NestId) (x : Nest) : (d.setNest n x).notices = d.notices := rfl
@[simp] theorem Device.setNest_groups (d : Device) (n : NestId) (x : Nest) : (d.setNest n x).groups = d.groups := rfl
@[simp] theorem Device.setNest_groupMap (d : Device) (n : NestId) (x : Nest) : (d.setNest n x).groupMap = d.groupMap := rfl
@[simp] theorem Device.setNest_tables (d : Device) (n : NestId) (x : Nest) : (d.setNest n x).tables = d.tables := rfl
@[simp] theorem Device.setNest_labels (d : Device) (n : NestId) (x : Nest) : (d.setNest n x).labels = d.labels := rfl
@[simp] theorem Device.setNest_yields (d : Device) (n : NestId) (x : Nest) : (d.setNest n x).yields = d.yields := rfl
@[simp] theorem Device.setNest_calibration (d : Device) (n : NestId) (x : Nest) :
    (d.setNest n x).calibration = d.calibration := rfl
@[simp] theorem Device.setNest_pool (d : Device) (n : NestId) (x : Nest) : (d.setNest n x).pool = d.pool := rfl
@[simp] theorem Device.setNest_fixture (d : Device) (n : NestId) (x : Nest) : (d.setNest n x).fixture = d.fixture := rfl
@[simp] theorem Device.setNest_group (d : Device) (n : NestId) (x : Nest) (g : GroupId) :
    (d.setNest n x).group g = d.group g := rfl
@[simp] theorem Device.setNest_groupOf (d : Device) (n m : NestId) (x : Nest) :
    (d.setNest n x).groupOf m = d.groupOf m := rfl
@[simp] theorem Device.setNest_taken (d : Device) (n m : NestId) (x : Nest) (l : InputLine) :
    (d.setNest n x).taken m l = d.taken m l := rfl
@[simp] theorem Device.setNest_detects (d : Device) (n m : NestId) (x : Nest) (l : InputLine) :
    (d.setNest n x).detects m l = d.detects m l := rfl
@[simp] theorem Device.setNest_map (d : Device) (n m : NestId) (x : Nest) : (d.setNest n x).map m = d.map m := rfl
@[simp] theorem Device.setNest_planOf (d : Device) (n : NestId) (x : Nest) (r : UnitRecord) :
    (d.setNest n x).planOf r = d.planOf r := rfl
@[simp] theorem Device.setNest_segmentOf (d : Device) (n : NestId) (x : Nest) (r : UnitRecord) :
    (d.setNest n x).segmentOf r = d.segmentOf r := rfl

/-! ## The changes of one nest, as `setNest` -/

theorem Device.modNest_eq (d : Device) (n : NestId) (f : Nest → Nest) : d.modNest n f = d.setNest n (f (d.nest n)) := rfl
theorem Device.modRecord_eq (d : Device) (n : NestId) (f : UnitRecord → UnitRecord) :
    d.modRecord n f = d.setNest n { d.nest n with record := (d.nest n).record.map f } := rfl
theorem Device.addHistory_eq (d : Device) (n : NestId) (e : HistoryEvent) :
    d.addHistory n e = d.setNest n { d.nest n with history := addEvent (d.nest n).history e } := rfl
theorem Device.setState_eq (d : Device) (n : NestId) (st : NestState) :
    d.setState n st = d.setNest n { d.nest n with state := st } := rfl
theorem Device.addFailureTo_eq (d : Device) (n : NestId) (c : FailureClass) :
    d.addFailureTo n c = d.setNest n { d.nest n with
      record := (d.nest n).record.map fun r => { r with failures := addFailure r.failures c } } := rfl
theorem Device.setSub_eq (d : Device) (n : NestId) (sub : SubStage) :
    d.setSub n sub = d.setNest n { d.nest n with record := (d.nest n).record.map fun r => { r with sub := sub } } := rfl
theorem Device.silence_eq (d : Device) (n : NestId) :
    d.silence n = d.setNest n { d.nest n with
      tone := { (d.nest n).tone with mode := .silent, timer := 0, inTolerance := 0, intervals := 0, sense := [], pilot := [] }
      engine := { window := none, closed := 0 } } := rfl

/-! ## Notices, counters, pool: what stays -/

@[simp] theorem Device.raise_nests (d : Device) (i : SourceId) : (d.raise i).nests = d.nests := rfl
@[simp] theorem Device.raise_nest (d : Device) (i : SourceId) (n : NestId) : (d.raise i).nest n = d.nest n := rfl
@[simp] theorem Device.raise_notices (d : Device) (i : SourceId) : (d.raise i).notices = d.notices.raise i := rfl
@[simp] theorem Device.raise_groups (d : Device) (i : SourceId) : (d.raise i).groups = d.groups := rfl
@[simp] theorem Device.raise_groupMap (d : Device) (i : SourceId) : (d.raise i).groupMap = d.groupMap := rfl
@[simp] theorem Device.raise_tables (d : Device) (i : SourceId) : (d.raise i).tables = d.tables := rfl
@[simp] theorem Device.raise_labels (d : Device) (i : SourceId) : (d.raise i).labels = d.labels := rfl
@[simp] theorem Device.raise_yields (d : Device) (i : SourceId) : (d.raise i).yields = d.yields := rfl
@[simp] theorem Device.raise_calibration (d : Device) (i : SourceId) : (d.raise i).calibration = d.calibration := rfl
@[simp] theorem Device.raise_pool (d : Device) (i : SourceId) : (d.raise i).pool = d.pool := rfl
@[simp] theorem Device.raise_fixture (d : Device) (i : SourceId) : (d.raise i).fixture = d.fixture := rfl
@[simp] theorem Device.raise_nestPort (d : Device) (i : SourceId) : (d.raise i).nestPort = d.nestPort := rfl
@[simp] theorem Device.raise_controllerPort (d : Device) (i : SourceId) :
    (d.raise i).controllerPort = d.controllerPort := rfl

@[simp] theorem Device.count_nests (d : Device) (n : NestId) (f : Counters → Counters) : (d.count n f).nests = d.nests := rfl
@[simp] theorem Device.count_nest (d : Device) (n m : NestId) (f : Counters → Counters) :
    (d.count n f).nest m = d.nest m := rfl
@[simp] theorem Device.count_labels (d : Device) (n : NestId) (f : Counters → Counters) : (d.count n f).labels = d.labels := rfl
@[simp] theorem Device.count_tables (d : Device) (n : NestId) (f : Counters → Counters) : (d.count n f).tables = d.tables := rfl
@[simp] theorem Device.count_snapshot (d : Device) (n : NestId) (f : Counters → Counters) :
    (d.count n f).yields.snapshot = d.yields.snapshot := rfl
@[simp] theorem Device.count_number (d : Device) (n : NestId) (f : Counters → Counters) :
    (d.count n f).yields.number = d.yields.number := rfl
@[simp] theorem Device.count_live_same (d : Device) (n : NestId) (f : Counters → Counters) :
    (d.count n f).yields.live[n.val] = f d.yields.live[n.val] := by simp [Device.count]
theorem Device.count_live_ne (d : Device) {n m : NestId} (f : Counters → Counters) (h : m ≠ n) :
    (d.count n f).yields.live[m] = d.yields.live[m] := by
  have : n.val ≠ m.val := fun e => h (Fin.ext e.symm)
  simp [Device.count, this]

@[simp] theorem Device.freeChain_nest (d : Device) (c : Chain) (n : NestId) : (d.freeChain c).nest n = d.nest n := rfl
@[simp] theorem Device.freeChain_labels (d : Device) (c : Chain) : (d.freeChain c).labels = d.labels := rfl
@[simp] theorem Device.freeChain_free (d : Device) (c : Chain) :
    (d.freeChain c).pool.free = d.pool.free ++ c.blocks := rfl

/-! ## Groups -/

@[simp] theorem Device.modGroup_nest (d : Device) (g : GroupId) (f : Group → Group) (n : NestId) :
    (d.modGroup g f).nest n = d.nest n := rfl
@[simp] theorem Device.modGroup_group_same (d : Device) (g : GroupId) (f : Group → Group) :
    (d.modGroup g f).group g = f (d.group g) := by simp [Device.modGroup, Device.group]
theorem Device.modGroup_group_ne (d : Device) {g k : GroupId} (f : Group → Group) (h : k ≠ g) :
    (d.modGroup g f).group k = d.group k := by
  have : g.val ≠ k.val := fun e => h (Fin.ext e.symm)
  simp [Device.modGroup, Device.group, this]
@[simp] theorem Device.modGroup_groupOf (d : Device) (g : GroupId) (f : Group → Group) (n : NestId) :
    (d.modGroup g f).groupOf n = d.groupOf n := rfl

/-! ## Banks -/

@[simp] theorem TableStore.bank_modBank_same (t : TableStore) (b : BankId) (f : Bank → Bank) :
    (t.modBank b f).bank b = f (t.bank b) := by cases b <;> rfl
theorem TableStore.bank_modBank_ne (t : TableStore) {b c : BankId} (f : Bank → Bank) (h : c ≠ b) :
    (t.modBank b f).bank c = t.bank c := by cases b <;> cases c <;> simp_all [TableStore.modBank, TableStore.bank]
@[simp] theorem TableStore.modBank_operation (t : TableStore) (b : BankId) (f : Bank → Bank) :
    (t.modBank b f).operation = t.operation := by cases b <;> rfl
@[simp] theorem TableStore.modBank_loadError (t : TableStore) (b : BankId) (f : Bank → Bank) :
    (t.modBank b f).loadError = t.loadError := by cases b <;> rfl
@[simp] theorem TableStore.modBank_sequenceError (t : TableStore) (b : BankId) (f : Bank → Bank) :
    (t.modBank b f).sequenceError = t.sequenceError := by cases b <;> rfl
@[simp] theorem TableStore.modBank_detail (t : TableStore) (b : BankId) (f : Bank → Bank) :
    (t.modBank b f).detail = t.detail := by cases b <;> rfl
@[simp] theorem TableStore.modBank_generationCounter (t : TableStore) (b : BankId) (f : Bank → Bank) :
    (t.modBank b f).generationCounter = t.generationCounter := by cases b <;> rfl

/-- The standby bank is not the ACTIVE one (R153). -/
theorem TableStore.standby_ne_active (t : TableStore) {a b : BankId} (ha : t.activeBank = some a)
    (hb : t.standby = some b) : a ≠ b := by
  intro e; subst e
  cases a <;> simp only [TableStore.standby, ha] at hb <;> split at hb <;> simp_all

/-! ## Calibration records -/

@[simp] theorem CalibrationStore.record_setRecord_same (c : CalibrationStore) (n : NestId) (p : PlanId) (r : CalRecord) :
    (c.setRecord n p r).record n p = r := by simp [CalibrationStore.setRecord, CalibrationStore.record]
theorem CalibrationStore.record_setRecord_ne (c : CalibrationStore) {n m : NestId} {p q : PlanId} (r : CalRecord)
    (h : (m, q) ≠ (n, p)) : (c.setRecord n p r).record m q = c.record m q := by
  by_cases hn : m = n
  · subst hn
    have hp : p.val ≠ q.val := fun e => h (by rw [Fin.ext e])
    simp [CalibrationStore.setRecord, CalibrationStore.record, hp]
  · have : n.val ≠ m.val := fun e => hn (Fin.ext e.symm)
    simp [CalibrationStore.setRecord, CalibrationStore.record, this]
@[simp] theorem CalibrationStore.setRecord_drift (c : CalibrationStore) (n : NestId) (p : PlanId) (r : CalRecord) :
    (c.setRecord n p r).drift = c.drift := rfl

/-! ## Notice flags -/

@[simp] theorem NoticeArbiter.raise_pending_same (a : NoticeArbiter) (i : SourceId) :
    (a.raise i).pending[i.val] = true := by simp [NoticeArbiter.raise]
theorem NoticeArbiter.raise_pending_ne (a : NoticeArbiter) {i j : SourceId} (h : j ≠ i) :
    (a.raise i).pending[j] = a.pending[j] := by
  have : i.val ≠ j.val := fun e => h (Fin.ext e.symm)
  simp [NoticeArbiter.raise, this]
/-- A flag that is set stays set (R189). -/
theorem NoticeArbiter.raise_keeps (a : NoticeArbiter) (i j : SourceId) (h : a.pending[j] = true) :
    (a.raise i).pending[j] = true := by
  by_cases e : j = i
  · subst e; exact NoticeArbiter.raise_pending_same a j
  · rw [NoticeArbiter.raise_pending_ne a e, h]

end Sys2Proof.Machine
end

