-- ==== Sys2Proof/Laws/Tone.lean ====
section
/-! SUPPORT. The tones of a generator: what holds of the amplitude, the sine, the drive sample and a chirp's advance for
every value of the constants that the manual leaves free (R33 to R36, R46, R178; log 8). -/

namespace Sys2Proof.Machine

/-! ## The search for the largest number -/

/-- The search keeps what holds of its start and of every number the test accepts. -/
theorem largestWith_holds {p : Nat → Bool} {q : Nat → Prop} (h : ∀ a, p a = true → q a) :
    ∀ (b acc : Nat), q acc → q (largestWith p b acc)
  | 0, _, hq => hq
  | b + 1, acc, hq => by
    rw [largestWith]
    split
    · exact largestWith_holds h b _ (h _ ‹_›)
    · exact largestWith_holds h b _ hq

/-- Where a property holds below every value it holds at, the search finds the largest value in reach that has it. -/
theorem largestWith_largest {p : Nat → Bool} (hp : ∀ a b, a ≤ b → p b = true → p a = true) :
    ∀ b acc, p acc = true → p (largestWith p b acc) = true
      ∧ ∀ m, m < acc + 2 ^ b → p m = true → m ≤ largestWith p b acc
  | 0, acc, h => ⟨h, fun m hm _ => by rw [largestWith]; omega⟩
  | b + 1, acc, h => by
    rw [largestWith]
    split
    · rename_i hq
      obtain ⟨h1, h2⟩ := largestWith_largest hp b _ hq
      exact ⟨h1, fun m hm => h2 m (by rw [Nat.pow_succ] at hm; omega)⟩
    · rename_i hq
      obtain ⟨h1, h2⟩ := largestWith_largest hp b _ h
      refine ⟨h1, fun m _ hm => h2 m ?_ hm⟩
      by_contra hc
      exact hq (hp _ m (by omega) hm)

/-! ## Amplitude and sine -/

/-- No tone peaks above full scale (R178). -/
theorem toneAmplitude_le (level : Int) : toneAmplitude level ≤ 32767 * 2 ^ 64 := by
  refine largestWith_holds (q := fun a => a ≤ 32767 * 2 ^ 64) (fun a h => ?_) 79 0 (Nat.zero_le _)
  have h := of_decide_eq_true h
  have hp : 0 < 10 ^ (-level).toNat := Nat.pow_pos (by decide)
  refine Nat.le_of_not_lt fun hlt => ?_
  have h1 : (32767 * 2 ^ 64) ^ 200 < a ^ 200 := Nat.pow_lt_pow_left hlt (by decide)
  exact absurd h (Nat.not_le_of_lt (Nat.lt_of_lt_of_le h1 (Nat.le_mul_of_pos_right _ hp)))

theorem quarterSine_le (r : Nat) : quarterSine r ≤ fixedOne := by
  rw [quarterSine]
  split
  · exact Nat.le_refl _
  · exact Nat.min_le_left _ _

theorem sineMagnitude_le (phase : Nat) : sineMagnitude phase ≤ fixedOne := quarterSine_le _

/-- A sine is 0 at the start of each half turn (R36). -/
theorem sineMagnitude_zero {phase : Nat} (h : phase % (phaseTurn / 2) = 0) : sineMagnitude phase = 0 := by
  rw [sineMagnitude, h]
  decide +kernel

/-! ## The drive sample -/

/-- A drive sample's magnitude is at most full scale. -/
theorem toneMagnitude_le (level : Int) (phase : Nat) : toneMagnitude level phase ≤ 32767 := by
  have h : toneAmplitude level * sineMagnitude phase ≤ 32767 * (2 ^ 64 * fixedOne) := by
    rw [← Nat.mul_assoc]; exact Nat.mul_le_mul (toneAmplitude_le level) (sineMagnitude_le phase)
  have hs : 0 < 2 ^ 64 * fixedOne := by decide +kernel
  rw [toneMagnitude]
  generalize toneAmplitude level * sineMagnitude phase = v at h ⊢
  generalize 2 ^ 64 * fixedOne = step at h hs ⊢
  split
  · exact Nat.div_le_of_le_mul (Nat.mul_comm step 32767 ▸ h)
  · rename_i hm
    have hlt : v < 32767 * step := by
      refine Nat.lt_of_le_of_ne h fun he => hm ?_
      rw [he, Nat.mul_mod_left]
    have hd : v / step < 32767 := Nat.div_lt_of_lt_mul (Nat.mul_comm 32767 step ▸ hlt)
    split <;> omega

/-- The sample of a magnitude, and its opposite, as whole numbers. -/
theorem ofNat_toInt {m : Nat} (h : m ≤ 32767) :
    (BitVec.ofNat 16 m).toInt = m ∧ (-BitVec.ofNat 16 m).toInt = -m := by
  have hm : (BitVec.ofNat 16 m).toInt = m := by
    rw [BitVec.toInt_eq_toNat_cond, BitVec.toNat_ofNat, Nat.mod_eq_of_lt (by omega), if_pos (by omega)]
  refine ⟨hm, ?_⟩
  rw [BitVec.toInt_neg, hm, Int.bmod_eq_of_le] <;> omega

/-- The drive sample of a tone: its magnitude, with the sign of the half turn (R36). -/
theorem toneSample_toInt (level : Int) (phase : Nat) :
    (toneSample level phase).toInt
      = if phase % phaseTurn < phaseTurn / 2 then (toneMagnitude level phase : Int) else -(toneMagnitude level phase) := by
  obtain ⟨h, h'⟩ := ofNat_toInt (toneMagnitude_le level phase)
  rw [toneSample]
  split <;> assumption

theorem toneSample_natAbs_le (level : Int) (phase : Nat) : (toneSample level phase).toInt.natAbs ≤ 32767 := by
  have h := toneMagnitude_le level phase
  rw [toneSample_toInt]
  split <;> omega

/-- A tone is 0 at the start of each half turn (R36). -/
theorem toneSample_zero (level : Int) {phase : Nat} (h : phase % (phaseTurn / 2) = 0) : toneSample level phase = 0 := by
  rw [toneSample, toneMagnitude, sineMagnitude_zero h]
  simp

/-! ## Chirps (R46) -/

theorem fixedRoot_one : fixedRoot fixedOne = fixedOne := by decide +kernel

/-- A power of one is one. -/
theorem fixedPower_one : ∀ k p q : Nat, fixedPower k fixedOne p q = fixedOne
  | 0, _, _ => rfl
  | k + 1, p, q => by
    rw [fixedPower, fixedRoot_one]
    split
    · rw [fixedPower_one k, Nat.mul_div_cancel _ (by decide +kernel)]
    · exact fixedPower_one k _ _

/-- The power of exponent 0 is one. -/
theorem fixedPower_zero : ∀ (k a q : Nat), 0 < q → fixedPower k a 0 q = fixedOne
  | 0, _, _, _ => rfl
  | k + 1, a, q, h => by
    rw [fixedPower, if_neg (by omega), Nat.mul_zero]
    exact fixedPower_zero k _ q h

/-- A chirp begins at START FREQUENCY. -/
theorem chirpAdvanceAt_start (f0 f1 : Nat) {portion : Nat} (h : 0 < portion) :
    chirpAdvanceAt f0 f1 portion 0 = toneAdvance f0 := by
  rw [chirpAdvanceAt, if_neg (by omega), fixedPower_zero _ _ _ h, Nat.mul_div_cancel _ (by decide +kernel)]

/-- A chirp ends at END FREQUENCY. -/
theorem chirpAdvanceAt_end (f0 f1 portion : Nat) : chirpAdvanceAt f0 f1 portion portion = toneAdvance f1 := by
  rw [chirpAdvanceAt, if_pos (Nat.le_refl _)]

/-- Equal frequencies drive a constant tone (R33, NOTE 1). -/
theorem chirpAdvanceAt_same {f : Nat} (h : 0 < f) (portion t : Nat) :
    chirpAdvanceAt f f portion t = toneAdvance f := by
  rw [chirpAdvanceAt]
  split
  · rfl
  · rw [Nat.mul_div_cancel_left _ h, fixedPower_one, Nat.mul_div_cancel _ (by decide +kernel)]

/-- The advance of a frame lies between the frequencies at its two ends, whatever the free value. -/
theorem chirpAdvance_between (f0 f1 portion t : Nat) :
    min (chirpAdvanceAt f0 f1 portion t) (chirpAdvanceAt f0 f1 portion (t + 1)) ≤ chirpAdvance f0 f1 portion t
    ∧ chirpAdvance f0 f1 portion t
      ≤ max (chirpAdvanceAt f0 f1 portion t) (chirpAdvanceAt f0 f1 portion (t + 1)) := by
  simp only [chirpAdvance]
  omega

/-- Equal frequencies leave the advance no freedom (R33, NOTE 1). -/
theorem chirpAdvance_same {f : Nat} (h : 0 < f) (portion t : Nat) : chirpAdvance f f portion t = toneAdvance f := by
  have b := chirpAdvance_between f f portion t
  rw [chirpAdvanceAt_same h, chirpAdvanceAt_same h] at b
  omega

end Sys2Proof.Machine
end

