-- ==== Sys2Proof/Laws/Frame.lean ====
section
/-! SUPPORT. One frame of the nest link: when it waits, and everything it changes (R1, R168, R178, R179; logs 3, 4). -/

namespace Sys2Proof.Machine

/-! ## When the frame waits (log 4) -/

theorem execNestLinkFrame_waits {s : State} (h : s.dev.frameDue = true) (frame : Option NestFrame) :
    execNestLinkFrame frame s = .next s := by rw [execNestLinkFrame, h]; rfl

theorem execNestLinkFrame_runs {s : State} (h : s.dev.frameDue = false) (frame : Option NestFrame) :
    execNestLinkFrame frame s = .next { s with dev := s.dev.nestFrame frame } := by rw [execNestLinkFrame, h]; rfl

/-- Where no frame waits, nothing of any nest is due. -/
theorem Device.nestDue_of_frameDue {d : Device} (h : d.frameDue = false) (n : NestId) : d.nestDue n = false := by
  simp only [Device.frameDue, Bool.or_eq_false_iff] at h
  have := List.any_eq_false.mp h.1.1.1 n (List.mem_finRange n)
  simpa using this

/-! ## The fields after a frame -/

@[simp] theorem Device.nestFrame_controllerPort (d : Device) (f : Option NestFrame) :
    (d.nestFrame f).controllerPort = d.controllerPort := rfl
@[simp] theorem Device.nestFrame_labels (d : Device) (f : Option NestFrame) : (d.nestFrame f).labels = d.labels := rfl
@[simp] theorem Device.nestFrame_yields (d : Device) (f : Option NestFrame) : (d.nestFrame f).yields = d.yields := rfl
@[simp] theorem Device.nestFrame_calibration (d : Device) (f : Option NestFrame) :
    (d.nestFrame f).calibration = d.calibration := rfl
@[simp] theorem Device.nestFrame_pool (d : Device) (f : Option NestFrame) : (d.nestFrame f).pool = d.pool := rfl
@[simp] theorem Device.nestFrame_groups (d : Device) (f : Option NestFrame) : (d.nestFrame f).groups = d.groups := rfl
@[simp] theorem Device.nestFrame_groupMap (d : Device) (f : Option NestFrame) : (d.nestFrame f).groupMap = d.groupMap :=
  rfl
@[simp] theorem Device.nestFrame_locked (d : Device) (f : Option NestFrame) :
    (d.nestFrame f).nestPort.locked = d.nestPort.locked := rfl
@[simp] theorem Device.nestFrame_outFixture (d : Device) (f : Option NestFrame) :
    (d.nestFrame f).nestPort.outFixture = d.outputWord := rfl
@[simp] theorem Device.nestFrame_notices (d : Device) (f : Option NestFrame) :
    (d.nestFrame f).notices = { d.notices with timer := d.notices.timer.map (· + 1) } := rfl
@[simp] theorem Device.nestFrame_tables (d : Device) (f : Option NestFrame) : (d.nestFrame f).tables = d.tables.afterFrame :=
  rfl
@[simp] theorem Device.nestFrame_sense (d : Device) (f : Option NestFrame) :
    (d.nestFrame f).nestPort.sense = (d.nestPort.taken f).sense := rfl
@[simp] theorem Device.nestFrame_ambient (d : Device) (f : Option NestFrame) :
    (d.nestFrame f).nestPort.ambient = (d.nestPort.taken f).ambient := rfl

@[simp] theorem Device.nestFrame_drive (d : Device) (f : Option NestFrame) (n : NestId) :
    (d.nestFrame f).nestPort.drive[n] = d.driveSample n := by simp [Device.nestFrame]

@[simp] theorem Device.nestFrame_mic (d : Device) (f : Option NestFrame) (n : NestId) :
    (d.nestFrame f).nestPort.mic[n]
      = if (d.nest n).loopback then d.driveSample n else (d.nestPort.taken f).mic[n] := by simp [Device.nestFrame]

/-- The nest after a frame takes the samples that the port then holds. -/
theorem Device.nestFrame_nest (d : Device) (f : Option NestFrame) (n : NestId) :
    (d.nestFrame f).nest n
      = d.nestAfterFrame n (d.nestFrame f).nestPort.mic[n] (d.nestFrame f).nestPort.sense[n]
          (d.nestFrame f).nestPort.ambient[d.groupOf n] := by
  simp [Device.nestFrame, Device.nest]

/-! ## One nest -/

/-- A frame leaves everything of a nest but its generator, its engine, and the timers and sums of its stage. -/
theorem Device.nestAfterFrame_frame (d : Device) (n : NestId) (mic sense ambient : Sample) :
    let y := d.nestAfterFrame n mic sense ambient
    y = { d.nest n with
      tone := d.toneAfterFrame n sense mic, engine := y.engine, settling := y.settling, clampTimer := y.clampTimer
      releaseTimer := y.releaseTimer, markTimer := y.markTimer, judgeTimer := y.judgeTimer
      stageTimer := y.stageTimer, quietCount := y.quietCount, quietSquares := y.quietSquares } := by
  simp only [Device.nestAfterFrame, Nest.quietAfterFrame]
  repeat' split
  all_goals rfl

/-- Only the nests in SWEEPING that drive a segment take window samples (R68). -/
theorem Device.nestAfterFrame_engine (d : Device) (n : NestId) (mic sense ambient : Sample) :
    (d.nestAfterFrame n mic sense ambient).engine
      = match (d.nest n).state, (d.nest n).record with
        | .sweeping, some r =>
          if (d.nest n).tone.mode = .segment then d.sampleWindow n r mic ambient else (d.nest n).engine
        | _, _ => (d.nest n).engine := by
  simp only [Device.nestAfterFrame, Nest.quietAfterFrame]
  repeat' split
  all_goals first | rfl | simp_all

/-- The generator's timer runs in a lock pilot and in a segment alone (R40, R43). -/
theorem Device.toneAfterFrame_timer (d : Device) (n : NestId) (sense mic : Sample) :
    (d.toneAfterFrame n sense mic).timer
      = if (d.nest n).tone.mode = .lock ∨ (d.nest n).tone.mode = .segment then (d.nest n).tone.timer + 1
        else (d.nest n).tone.timer := by
  simp only [Device.toneAfterFrame]
  split <;> simp_all

/-- In a lock pilot the interval in progress takes one sample of each kind, and in no other mode (R38, R39). -/
theorem Device.toneAfterFrame_samples (d : Device) (n : NestId) (sense mic : Sample) :
    (d.toneAfterFrame n sense mic).sense
      = (if (d.nest n).tone.mode = .lock then (d.nest n).tone.sense ++ [sense] else (d.nest n).tone.sense)
    ∧ (d.toneAfterFrame n sense mic).pilot
      = if (d.nest n).tone.mode = .lock then
          (d.nest n).tone.pilot ++ [d.nestPort.delayedMic n mic (d.acousticDelay n)]
        else (d.nest n).tone.pilot := by
  simp only [Device.toneAfterFrame]
  split <;> simp_all

end Sys2Proof.Machine
end

