-- ==== Sys2Proof/Laws/Fit.lean ====
section
/-! SUPPORT. Fits of waves: what is left of a row of values is the least that any mixture of the waves leaves, for several
waves and for two; the move of the gain, and what a lock interval decides (R38, R39, R63; logs 26, 39). -/

namespace Sys2Proof.Machine

/-! ## Rows of values as vectors -/

/-- The values of a row, 0 beyond its end. -/
def rowValues (v : List ℚ) (i : ℕ) : ℚ := v.getD i 0

/-- The inner product of the first values. -/
def rowProduct (n : ℕ) (x y : ℕ → ℚ) : ℚ := ∑ i ∈ Finset.range n, x i * y i

/-- The mixtures of these waves. -/
def mixtures (ws : List (List ℚ)) : Submodule ℚ (ℕ → ℚ) := Submodule.span ℚ {x | ∃ w ∈ ws, x = rowValues w}

theorem innerProduct_eq {n : ℕ} : ∀ {v w : List ℚ}, v.length = n → w.length = n →
    innerProduct v w = rowProduct n (rowValues v) (rowValues w) := by
  induction n with
  | zero => intro v w hv hw; simp_all [innerProduct, rowProduct]
  | succ n ih =>
    intro v w hv hw
    obtain ⟨a, v, rfl⟩ := List.exists_cons_of_length_eq_add_one hv
    obtain ⟨b, w, rfl⟩ := List.exists_cons_of_length_eq_add_one hw
    rw [innerProduct, ih (by simpa using hv) (by simpa using hw), rowProduct, rowProduct, Finset.sum_range_succ']
    simp [rowValues, add_comm]

theorem energy_eq {v : List ℚ} : energy v = rowProduct v.length (rowValues v) (rowValues v) := innerProduct_eq rfl rfl

@[simp] theorem lessMultiple_length {v w : List ℚ} (c : ℚ) (h : w.length = v.length) :
    (lessMultiple v c w).length = v.length := by simp [lessMultiple, h]

theorem rowValues_lessMultiple {v w : List ℚ} (c : ℚ) (h : w.length = v.length) :
    rowValues (lessMultiple v c w) = rowValues v - c • rowValues w := by
  funext i
  by_cases hi : i < v.length
  · simp [rowValues, lessMultiple, hi, h]
  · have h1 : v.length ≤ i := Nat.not_lt.mp hi
    simp [rowValues, lessMultiple, h1, h]

/-- Rows of one length with the same values are equal. -/
theorem rowValues_inj {v w : List ℚ} (hl : v.length = w.length) (h : rowValues v = rowValues w) : v = w := by
  refine List.ext_getElem hl fun i h1 h2 => ?_
  simpa [rowValues, h1, h2] using congrFun h i

theorem rowProduct_sub (n : ℕ) (x y z : ℕ → ℚ) : rowProduct n (x - y) z = rowProduct n x z - rowProduct n y z := by
  simp [rowProduct, sub_mul]
theorem rowProduct_smul (n : ℕ) (c : ℚ) (x z : ℕ → ℚ) : rowProduct n (c • x) z = c * rowProduct n x z := by
  simp [rowProduct, Finset.mul_sum, mul_assoc]
theorem rowProduct_add (n : ℕ) (x y z : ℕ → ℚ) : rowProduct n (x + y) z = rowProduct n x z + rowProduct n y z := by
  simp [rowProduct, add_mul, Finset.sum_add_distrib]
theorem rowProduct_comm (n : ℕ) (x y : ℕ → ℚ) : rowProduct n x y = rowProduct n y x := by
  simp [rowProduct, mul_comm]
theorem rowProduct_nonneg (n : ℕ) (x : ℕ → ℚ) : 0 ≤ rowProduct n x x :=
  Finset.sum_nonneg fun i _ => mul_self_nonneg (x i)

/-- A row without energy is at right angles to every row. -/
theorem rowProduct_of_zero {n : ℕ} {x : ℕ → ℚ} (h : rowProduct n x x = 0) (y : ℕ → ℚ) : rowProduct n y x = 0 := by
  have h0 := (Finset.sum_eq_zero_iff_of_nonneg fun i _ => mul_self_nonneg (x i)).mp h
  exact Finset.sum_eq_zero fun i hi => by simp [mul_self_eq_zero.mp (h0 i hi)]

/-! ## Stripping -/

@[simp] theorem stripOne_length {v w : List ℚ} (h : w.length = v.length) : (stripOne v w).length = v.length :=
  lessMultiple_length _ h

/-- Stripping leaves the length, takes away a multiple of the wave, and leaves nothing of it. -/
theorem stripOne_values {v w : List ℚ} (h : w.length = v.length) :
    rowValues (stripOne v w) = rowValues v - (innerProduct v w / energy w) • rowValues w
    ∧ rowProduct v.length (rowValues (stripOne v w)) (rowValues w) = 0 := by
  have hs : rowValues (stripOne v w) = rowValues v - (innerProduct v w / energy w) • rowValues w :=
    rowValues_lessMultiple _ h
  refine ⟨hs, ?_⟩
  rw [hs, rowProduct_sub, rowProduct_smul, innerProduct_eq rfl h, energy_eq, h]
  by_cases hz : rowProduct v.length (rowValues w) (rowValues w) = 0
  · simp [hz, rowProduct_of_zero hz]
  · rw [div_mul_cancel₀ _ hz, sub_self]

/-- Waves of one length, each at right angles to those before it. -/
inductive RightAngled (n : ℕ) : List (List ℚ) → Prop
  | nil : RightAngled n []
  | snoc {os : List (List ℚ)} {w : List ℚ} : RightAngled n os → w.length = n →
      (∀ o ∈ os, rowProduct n (rowValues w) (rowValues o) = 0) → RightAngled n (os ++ [w])

theorem mixtures_snoc (os : List (List ℚ)) (w : List ℚ) :
    mixtures (os ++ [w]) = mixtures os ⊔ Submodule.span ℚ {rowValues w} := by
  rw [mixtures, mixtures, ← Submodule.span_union]
  congr 1
  ext x
  simp [or_and_right, exists_or, or_comm, eq_comm]

/-- Stripping a row of waves at right angles takes away a mixture of them, and leaves nothing of any. -/
theorem stripAll_values {n : ℕ} {os : List (List ℚ)} (h : RightAngled n os) {v : List ℚ} (hv : v.length = n) :
    (stripAll v os).length = n ∧ rowValues v - rowValues (stripAll v os) ∈ mixtures os
    ∧ ∀ o ∈ os, rowProduct n (rowValues (stripAll v os)) (rowValues o) = 0 := by
  induction h with
  | nil => simp [stripAll, hv]
  | @snoc os w _ hw ho ih =>
    obtain ⟨hl, hm, hz⟩ := ih
    have he : stripAll v (os ++ [w]) = stripOne (stripAll v os) w := by simp [stripAll]
    have hlen : w.length = (stripAll v os).length := hw.trans hl.symm
    obtain ⟨hs, hp⟩ := stripOne_values hlen
    rw [he]
    refine ⟨(stripOne_length hlen).trans hl, ?_, fun o h => ?_⟩
    · rw [mixtures_snoc, hs, sub_sub_eq_add_sub, add_sub_right_comm]
      exact Submodule.add_mem_sup hm (Submodule.smul_mem _ _ (Submodule.mem_span_singleton_self _))
    · rcases List.mem_append.mp h with h | h
      · rw [hs, rowProduct_sub, rowProduct_smul, hz o h, ho o h, mul_zero, sub_self]
      · rw [List.mem_singleton.mp h, ← hl]; exact hp

/-- The stripped waves are at right angles and have the same mixtures. -/
theorem orthogonalWaves_values {n : ℕ} (ws : List (List ℚ)) : (∀ w ∈ ws, w.length = n) →
    RightAngled n (orthogonalWaves ws) ∧ mixtures (orthogonalWaves ws) = mixtures ws := by
  induction ws using List.reverseRecOn with
  | nil => exact fun _ => ⟨.nil, rfl⟩
  | append_singleton ws w ih =>
    intro hl
    obtain ⟨hr, hm⟩ := ih fun u hu => hl u (List.mem_append_left _ hu)
    have hw : w.length = n := hl w (by simp)
    have he : orthogonalWaves (ws ++ [w]) = orthogonalWaves ws ++ [stripAll w (orthogonalWaves ws)] := by
      simp [orthogonalWaves]
    obtain ⟨h1, h2, h3⟩ := stripAll_values hr hw
    rw [he]
    refine ⟨.snoc hr h1 h3, ?_⟩
    rw [mixtures_snoc, mixtures_snoc, hm]
    rw [hm] at h2
    refine le_antisymm (sup_le le_sup_left ?_) (sup_le le_sup_left ?_) <;>
      rw [Submodule.span_singleton_le_iff_mem]
    · rw [← sub_sub_self (rowValues w) (rowValues (stripAll w (orthogonalWaves ws)))]
      exact Submodule.sub_mem _ (Submodule.mem_sup_right (Submodule.mem_span_singleton_self _))
        (Submodule.mem_sup_left h2)
    · rw [← sub_add_cancel (rowValues w) (rowValues (stripAll w (orthogonalWaves ws)))]
      exact Submodule.add_mem _ (Submodule.mem_sup_left h2)
        (Submodule.mem_sup_right (Submodule.mem_span_singleton_self _))

/-! ## Mixtures -/

theorem lessMixture_length {n : ℕ} (ws : List (List ℚ)) : ∀ {v : List ℚ} (cs : List ℚ), v.length = n →
    (∀ w ∈ ws, w.length = n) → (lessMixture v cs ws).length = n := by
  induction ws with
  | nil => intro v cs hv _; simpa [lessMixture] using hv
  | cons w ws ih =>
    intro v cs hv hl
    cases cs with
    | nil => simpa [lessMixture] using hv
    | cons c cs =>
      refine ih (v := lessMultiple v c w) cs ?_ fun u hu => hl u (List.mem_cons_of_mem _ hu)
      rw [lessMultiple_length _ ((hl w (by simp)).trans hv.symm), hv]

theorem mixtures_cons (w : List ℚ) (ws : List (List ℚ)) :
    mixtures (w :: ws) = Submodule.span ℚ {rowValues w} ⊔ mixtures ws := by
  rw [mixtures, mixtures, ← Submodule.span_union]
  congr 1
  ext x
  simp [eq_comm]

/-- Taking a mixture away takes a mixture away. -/
theorem lessMixture_mem {n : ℕ} (ws : List (List ℚ)) : ∀ {v : List ℚ} (cs : List ℚ), v.length = n →
    (∀ w ∈ ws, w.length = n) → rowValues v - rowValues (lessMixture v cs ws) ∈ mixtures ws := by
  induction ws with
  | nil => intro v cs _ _; simp [lessMixture]
  | cons w ws ih =>
    intro v cs hv hl
    cases cs with
    | nil => simp [lessMixture]
    | cons c cs =>
      have hw : w.length = v.length := (hl w (by simp)).trans hv.symm
      have h := ih (v := lessMultiple v c w) cs ((lessMultiple_length c hw).trans hv)
        fun u hu => hl u (List.mem_cons_of_mem _ hu)
      rw [rowValues_lessMultiple c hw] at h
      rw [mixtures_cons]
      have hs := Submodule.add_mem_sup
        (Submodule.smul_mem _ c (Submodule.mem_span_singleton_self (R := ℚ) (rowValues w))) h
      rwa [sub_right_comm, add_sub_cancel] at hs

/-- Every mixture can be taken away. -/
theorem exists_lessMixture {n : ℕ} (ws : List (List ℚ)) : ∀ {v : List ℚ} {x : ℕ → ℚ}, v.length = n →
    (∀ w ∈ ws, w.length = n) → x ∈ mixtures ws →
    ∃ cs : List ℚ, cs.length = ws.length ∧ rowValues (lessMixture v cs ws) = rowValues v - x := by
  induction ws with
  | nil =>
    intro v x _ _ hx
    have : x = 0 := by simpa [mixtures] using hx
    exact ⟨[], rfl, by simp [this, lessMixture]⟩
  | cons w ws ih =>
    intro v x hv hl hx
    rw [mixtures_cons] at hx
    obtain ⟨y, hy, z, hz, rfl⟩ := Submodule.mem_sup.mp hx
    obtain ⟨c, rfl⟩ := Submodule.mem_span_singleton.mp hy
    have hw : w.length = v.length := (hl w (by simp)).trans hv.symm
    obtain ⟨cs, hc, he⟩ := ih (v := lessMultiple v c w) ((lessMultiple_length c hw).trans hv)
      (fun u hu => hl u (List.mem_cons_of_mem _ hu)) hz
    refine ⟨c :: cs, by simp [hc], ?_⟩
    change rowValues (lessMixture (lessMultiple v c w) cs ws) = _
    rw [he, rowValues_lessMultiple c hw, sub_sub]

/-- What is at right angles to every wave is at right angles to every mixture of them. -/
theorem rowProduct_mixture {n : ℕ} {ws : List (List ℚ)} {x y : ℕ → ℚ} (hx : x ∈ mixtures ws)
    (hw : ∀ w ∈ ws, rowProduct n (rowValues w) y = 0) : rowProduct n x y = 0 := by
  induction hx using Submodule.span_induction with
  | mem x hx => obtain ⟨w, h, rfl⟩ := hx; exact hw w h
  | zero => simp [rowProduct]
  | add x z _ _ hx hz => rw [rowProduct_add, hx, hz, add_zero]
  | smul c x _ hx => rw [rowProduct_smul, hx, mul_zero]

/-- A row left by taking a mixture away, at right angles to every wave, has the least energy that a mixture leaves. -/
theorem leastLeft_of_rightAngles {v r : List ℚ} {ws : List (List ℚ)} (hl : ∀ w ∈ ws, w.length = v.length)
    (hr : r.length = v.length) (hm : rowValues v - rowValues r ∈ mixtures ws)
    (hw : ∀ w ∈ ws, rowProduct v.length (rowValues r) (rowValues w) = 0) : LeastLeft v ws (energy r) := by
  have hz : ∀ x ∈ mixtures ws, rowProduct v.length x (rowValues r) = 0 := fun x hx =>
    rowProduct_mixture hx fun w h => (rowProduct_comm _ _ _).trans (hw w h)
  constructor
  · obtain ⟨cs, hc, he⟩ := exists_lessMixture ws (v := v) rfl hl hm
    refine ⟨cs, hc, ?_⟩
    rw [rowValues_inj ((lessMixture_length ws cs rfl hl).trans hr.symm) (by rw [he, sub_sub_cancel])]
  · rintro e ⟨cs, -, rfl⟩
    have hd : rowValues (lessMixture v cs ws) - rowValues r ∈ mixtures ws := by
      have := Submodule.sub_mem _ hm (lessMixture_mem ws cs (v := v) rfl hl)
      rwa [sub_sub_sub_cancel_left] at this
    rw [energy_eq, energy_eq, hr, lessMixture_length ws cs rfl hl]
    generalize rowValues (lessMixture v cs ws) = x at hd ⊢
    generalize rowValues r = y at hd hz ⊢
    have hs : rowProduct v.length x x
        = rowProduct v.length y y + rowProduct v.length (x - y) (x - y) + 2 * rowProduct v.length (x - y) y := by
      simp only [rowProduct, Finset.mul_sum, ← Finset.sum_add_distrib]
      exact Finset.sum_congr rfl fun i _ => by simp only [Pi.sub_apply]; ring
    rw [hs, hz _ hd, mul_zero, add_zero]
    exact le_add_of_nonneg_right (rowProduct_nonneg _ _)

/-- What is left without several waves has the least energy that a mixture of them leaves. -/
theorem leastLeft_leftOver {v : List ℚ} {ws : List (List ℚ)} (hl : ∀ w ∈ ws, w.length = v.length) :
    LeastLeft v ws (energy (leftOver v ws)) := by
  obtain ⟨hr, hm⟩ := orthogonalWaves_values ws hl
  obtain ⟨h1, h2, h3⟩ := stripAll_values hr (v := v) rfl
  refine leastLeft_of_rightAngles hl h1 (hm ▸ h2) fun w hw => ?_
  rw [rowProduct_comm]
  exact rowProduct_mixture (hm ▸ Submodule.subset_span ⟨w, hw, rfl⟩ : rowValues w ∈ mixtures (orthogonalWaves ws))
    fun o ho => (rowProduct_comm _ _ _).trans (h3 o ho)

/-! ## Two waves -/

/-- The two multiples leave the least that a mixture of the two waves leaves. -/
theorem leastLeft_fitTwo {v s c : List ℚ} (hs : s.length = v.length) (hc : c.length = v.length) :
    LeastLeft v [c, s] (energy (lessMixture v [(fitTwo v s c).2, (fitTwo v s c).1] [c, s])) := by
  have hl : ∀ w ∈ [c, s], w.length = v.length := by simp [hs, hc]
  have hu : (lessMultiple v (fitTwo v s c).2 c).length = v.length := lessMultiple_length _ hc
  have ho : (stripOne c s).length = v.length := (stripOne_length (hs.trans hc.symm)).trans hc
  obtain ⟨hov, hos⟩ := stripOne_values (hs.trans hc.symm)
  rw [hc] at hos
  obtain ⟨-, hrs⟩ := stripOne_values (v := lessMultiple v (fitTwo v s c).2 c) (hs.trans hu.symm)
  rw [hu] at hrs
  have hr : lessMixture v [(fitTwo v s c).2, (fitTwo v s c).1] [c, s]
      = stripOne (lessMultiple v (fitTwo v s c).2 c) s := rfl
  refine leastLeft_of_rightAngles hl (lessMixture_length _ _ rfl hl) (lessMixture_mem _ _ rfl hl) fun w hw => ?_
  rcases List.mem_pair.mp hw with rfl | rfl
  · have hcv : rowValues w = rowValues (stripOne w s) + (innerProduct w s / energy s) • rowValues s := by
      rw [hov, sub_add_cancel]
    have hrv : rowValues (lessMixture v [(fitTwo v s w).2, (fitTwo v s w).1] [w, s])
        = rowValues v - (fitTwo v s w).2 • rowValues w - (fitTwo v s w).1 • rowValues s := by
      rw [hr]
      exact (rowValues_lessMultiple _ (hs.trans hu.symm)).trans (by rw [rowValues_lessMultiple _ hc]; rfl)
    have hz : rowProduct v.length (rowValues (lessMixture v [(fitTwo v s w).2, (fitTwo v s w).1] [w, s]))
        (rowValues (stripOne w s)) = 0 := by
      have hb : (fitTwo v s w).2 = innerProduct v (stripOne w s) / energy (stripOne w s) := rfl
      rw [hrv, rowProduct_sub, rowProduct_sub, rowProduct_smul, rowProduct_smul,
        rowProduct_comm _ (rowValues s), hos, mul_zero, sub_zero]
      rw [show rowProduct v.length (rowValues w) (rowValues (stripOne w s))
          = rowProduct v.length (rowValues (stripOne w s)) (rowValues (stripOne w s)) from
        (congrArg (fun x => rowProduct v.length x (rowValues (stripOne w s))) hcv).trans (by
          rw [rowProduct_add, rowProduct_smul, rowProduct_comm _ (rowValues s), hos, mul_zero, add_zero]),
        hb, innerProduct_eq rfl ho, energy_eq, ho]
      by_cases h0 : rowProduct v.length (rowValues (stripOne w s)) (rowValues (stripOne w s)) = 0
      · rw [h0, rowProduct_of_zero h0, mul_zero, sub_zero]
      · rw [div_mul_cancel₀ _ h0, sub_self]
    rw [hr] at hz ⊢
    rw [rowProduct_comm, hcv, rowProduct_add, rowProduct_smul, rowProduct_comm, hz, rowProduct_comm, hrs, mul_zero,
      add_zero]
  · rw [hr]; exact hrs

@[simp] theorem ToneRate.wave_length (r : ToneRate) (start count : Nat) : (r.wave start count).length = count := by
  simp [ToneRate.wave]
@[simp] theorem sampleRow_length (samples : List Sample) : (sampleRow samples).length = samples.length := by
  simp [sampleRow]

end Sys2Proof.Machine
end

