-- ==== Sys2Proof/Laws/Guard.lean ====
section
/-! SUPPORT. The Ambient Guard's measurement: what is left of samples without the tones left out is the least that any
mixture of those tones leaves (R63; log 39). -/

namespace Sys2Proof.Machine

/-! ## The waves of a window -/

theorem excludedWaves_length {lo hi count : Nat} {w : List ℚ} (h : w ∈ excludedWaves lo hi count) :
    w.length = count := by
  obtain ⟨r, -, hw⟩ := List.mem_flatMap.mp h
  rcases List.mem_pair.mp hw with rfl | rfl <;> exact r.wave_length _ _

/-- The sum of squares without the tones left out is the least that a mixture of them leaves, down to a whole number. -/
theorem excludedSquares_least (lo hi : Nat) (samples : List Sample) :
    ∃ e, LeastLeft (sampleRow samples) (excludedWaves lo hi samples.length) e
      ∧ excludedSquares lo hi samples = e.floor.toNat :=
  ⟨_, leastLeft_leftOver fun w hw => (excludedWaves_length hw).trans (by simp), rfl⟩

end Sys2Proof.Machine
end

