-- ==== Sys2Proof/Laws/Memory.lean ====
section
/-! SUPPORT. The sample store: every operation keeps the canonical form, and a read after a write. -/

namespace Sys2Proof.Machine

theorem Memory.wf_cons {c : Host.Cell} {m : List Host.Cell} :
    Memory.wf (c :: m) = true ↔ c.2 ≠ 0 ∧ (∀ e ∈ m, c.1 < e.1) ∧ Memory.wf m = true := by
  simp [Memory.wf, Bool.and_eq_true, and_assoc]

/-- Nothing is listed at or below an address below every cell. -/
theorem Memory.read_below {m : List Host.Cell} {a : Nat} (h : ∀ e ∈ m, a < e.1) : Memory.read m a = 0 := by
  induction m with
  | nil => rfl
  | cons c m ih =>
    have hc := h c (by simp)
    simp only [Memory.read]
    rw [if_neg (by omega)]
    exact ih fun e he => h e (by simp [he])

/-- A write lists no address but its own beside those listed. -/
theorem Memory.mem_write {m : List Host.Cell} {a : Nat} {v : Byte} {e : Host.Cell} (h : e ∈ Memory.write m a v) :
    e = (a, v) ∨ e ∈ m := by
  induction m with
  | nil =>
    simp only [Memory.write] at h
    split at h <;> simp_all
  | cons c m ih =>
    simp only [Memory.write] at h
    split at h
    · split at h <;> simp_all
    · split at h
      · split at h <;> simp_all
        rcases h with h | h <;> simp [h]
      · rcases List.mem_cons.mp h with h | h
        · simp [h]
        · rcases ih h with h | h <;> simp [h]

/-- A write keeps the canonical form. -/
theorem Memory.wf_write {m : List Host.Cell} (a : Nat) (v : Byte) (h : Memory.wf m = true) :
    Memory.wf (Memory.write m a v) = true := by
  induction m with
  | nil =>
    simp only [Memory.write]
    split
    · rfl
    · rename_i hv; exact Memory.wf_cons.mpr ⟨hv, by simp, rfl⟩
  | cons c m ih =>
    obtain ⟨h0, h1, h2⟩ := Memory.wf_cons.mp h
    simp only [Memory.write]
    split
    · split
      · exact h
      · rename_i ha hv
        refine Memory.wf_cons.mpr ⟨hv, ?_, h⟩
        intro e he
        rcases List.mem_cons.mp he with he | he
        · subst he; exact ha
        · exact Nat.lt_trans ha (h1 e he)
    · split
      · split
        · exact h2
        · rename_i ha hv
          refine Memory.wf_cons.mpr ⟨hv, ?_, h2⟩
          intro e he; rw [ha]; exact h1 e he
      · refine Memory.wf_cons.mpr ⟨h0, ?_, ih h2⟩
        intro e he
        rcases Memory.mem_write he with he | he
        · subst he; simp only; omega
        · exact h1 e he

/-- A byte reads as it was last written. -/
theorem Memory.read_write_same {m : List Host.Cell} (a : Nat) (v : Byte) (h : Memory.wf m = true) :
    Memory.read (Memory.write m a v) a = v := by
  induction m with
  | nil =>
    simp only [Memory.write]
    split <;> simp_all [Memory.read]
  | cons c m ih =>
    obtain ⟨_, h1, h2⟩ := Memory.wf_cons.mp h
    simp only [Memory.write]
    split
    · rename_i ha
      split
      · rename_i hv
        rw [hv, Memory.read_below]
        intro e he
        rcases List.mem_cons.mp he with he | he
        · subst he; exact ha
        · exact Nat.lt_trans ha (h1 e he)
      · simp [Memory.read]
    · split
      · rename_i ha
        split
        · rename_i hv
          rw [hv, Memory.read_below]
          intro e he; rw [ha]; exact h1 e he
        · simp [Memory.read]
      · simp only [Memory.read]
        rw [if_neg (by omega)]
        exact ih h2

/-- Every other byte reads as before. -/
theorem Memory.read_write_ne {m : List Host.Cell} {a b : Nat} (v : Byte) (h : b ≠ a) :
    Memory.read (Memory.write m a v) b = Memory.read m b := by
  induction m with
  | nil =>
    simp only [Memory.write]
    split
    · rfl
    · simp only [Memory.read]; rw [if_neg (fun e => h e.symm)]
  | cons c m ih =>
    simp only [Memory.write]
    split
    · split
      · rfl
      · simp only [Memory.read]; rw [if_neg (fun e => h e.symm)]
    · split
      · rename_i ha
        split
        · simp only [Memory.read]; rw [if_neg (by omega)]
        · simp only [Memory.read]; rw [if_neg (by omega), if_neg (by omega)]
      · simp only [Memory.read]
        split
        · rfl
        · exact ih

/-! ## Samples -/

theorem Memory.wf_writeSample {m : List Host.Cell} (b : BlockId) (pos : Nat) (x : Sample) (h : Memory.wf m = true) :
    Memory.wf (writeSample m b pos x) = true := Memory.wf_write _ _ (Memory.wf_write _ _ h)

/-- A sample reads as it was last written. -/
theorem readSample_writeSample_same {m : List Host.Cell} (b : BlockId) (pos : Nat) (x : Sample)
    (h : Memory.wf m = true) : readSample (writeSample m b pos x) b pos = x := by
  simp only [readSample, writeSample]
  rw [Memory.read_write_same _ _ (Memory.wf_write _ _ h), Memory.read_write_ne _ (by omega),
    Memory.read_write_same _ _ h]
  ext i hi
  simp only [BitVec.getElem_append, BitVec.getElem_extractLsb']
  split
  · rw [BitVec.getLsbD_eq_getElem (by omega)]; simp
  · rw [BitVec.getLsbD_eq_getElem (by omega)]
    congr 1; omega

/-- Samples of other positions, and of other blocks, read as before. -/
theorem readSample_writeSample_ne {m : List Host.Cell} {b c : BlockId} {pos i : Nat} (x : Sample) (hp : pos < 4096)
    (hi : i < 4096) (h : c ≠ b ∨ i ≠ pos) : readSample (writeSample m b pos x) c i = readSample m c i := by
  have hne : sampleAddress c i ≠ sampleAddress b pos := by
    simp only [sampleAddress]
    rcases h with h | h
    · have : c.val ≠ b.val := fun e => h (Fin.ext e)
      omega
    · by_cases hc : c.val = b.val
      · omega
      · omega
  simp only [sampleAddress] at hne
  simp only [readSample, writeSample, sampleAddress]
  rw [Memory.read_write_ne _ (by omega), Memory.read_write_ne _ (by omega), Memory.read_write_ne _ (by omega),
    Memory.read_write_ne _ (by omega)]

/-! ## The block claim of a window (R141) -/

theorem putSample_wf (limit : Nat) (r : Recording) (x : Sample) (h : Memory.wf r.samples = true) :
    Memory.wf (putSample limit r x).samples = true := by
  simp only [putSample]
  split
  · exact h
  · exact Memory.wf_writeSample _ _ _ h

theorem recordSample_wf (limit : Nat) (r : Recording) (x : Sample) (h : Memory.wf r.samples = true) :
    Memory.wf (recordSample limit r x).samples = true := by
  simp only [recordSample]
  split
  · exact h
  · split
    · split
      · exact h
      · exact putSample_wf _ _ _ h
    · exact putSample_wf _ _ _ h

/-- Recording a window keeps the canonical form. -/
theorem recordWindow_wf (limit : Nat) (r : Recording) (xs : List Sample) (h : Memory.wf r.samples = true) :
    Memory.wf (recordWindow limit r xs).samples = true := by
  simp only [recordWindow]
  induction xs generalizing r with
  | nil => exact h
  | cons x xs ih => exact ih _ (recordSample_wf limit r x h)

/-- What one recorded sample can do to chain, pool and store: blocks go from the head of the Free List to the end of the
chain, and only blocks of the chain are written. -/
structure RecordingGrows (r t : Recording) : Prop where
  conserved : t.chain.blocks ++ t.pool.free = r.chain.blocks ++ r.pool.free
  longer : r.chain.blocks.length ≤ t.chain.blocks.length
  filled : t.chain.fill ≤ 4096
  others : ∀ (b : BlockId) (i : Nat), b ∉ t.chain.blocks → i < 4096 →
    readSample t.samples b i = readSample r.samples b i

theorem putSample_grows (limit : Nat) (r : Recording) (x : Sample) (h : r.chain.fill < 4096) :
    RecordingGrows r (putSample limit r x) := by
  cases hb : r.chain.blocks.getLast? with
  | none => simp only [putSample, hb]; exact ⟨rfl, Nat.le_refl _, by omega, fun _ _ _ _ => rfl⟩
  | some b =>
    simp only [putSample, hb]
    refine ⟨rfl, Nat.le_refl _, by simp only; omega, ?_⟩
    intro c i hc hi
    refine readSample_writeSample_ne x h hi (Or.inl ?_)
    intro e; subst e
    exact hc (List.mem_of_getLast? hb)

theorem recordSample_grows (limit : Nat) (r : Recording) (x : Sample) (h : r.chain.fill ≤ 4096) :
    RecordingGrows r (recordSample limit r x) := by
  simp only [recordSample]
  split
  · exact ⟨rfl, Nat.le_refl _, h, fun _ _ _ _ => rfl⟩
  · split
    · split
      · exact ⟨rfl, Nat.le_refl _, h, fun _ _ _ _ => rfl⟩
      · rename_i b rest hf
        have g := putSample_grows limit
          { r with
            pool := { r.pool with free := rest }
            chain := { r.chain with blocks := r.chain.blocks ++ [b], fill := 0 }
            low := r.low || decide (r.pool.free.length = r.pool.lowThreshold) } x (by simp only; omega)
        refine ⟨?_, ?_, g.filled, g.others⟩
        · rw [g.conserved]; simp [hf]
        · exact Nat.le_trans (by simp) g.longer
    · rename_i hfull
      exact putSample_grows limit r x (by omega)

/-- What recording a window can do. -/
theorem recordWindow_grows (limit : Nat) (r : Recording) (xs : List Sample) (h : r.chain.fill ≤ 4096) :
    RecordingGrows r (recordWindow limit r xs) := by
  simp only [recordWindow]
  induction xs generalizing r with
  | nil => exact ⟨rfl, Nat.le_refl _, h, fun _ _ _ _ => rfl⟩
  | cons x xs ih =>
    have a := recordSample_grows limit r x h
    have b := ih (recordSample limit r x) a.filled
    refine ⟨b.conserved.trans a.conserved, Nat.le_trans a.longer b.longer, b.filled, ?_⟩
    intro c i hc hi
    have hsub : c ∉ (recordSample limit r x).chain.blocks := by
      intro hm
      have hlen := b.longer
      have hcons := b.conserved
      have : (recordSample limit r x).chain.blocks
          <+: (List.foldl (recordSample limit) (recordSample limit r x) xs).chain.blocks := by
        exact List.prefix_of_prefix_length_le (List.prefix_append _ _) (hcons ▸ List.prefix_append _ _) hlen
      exact hc (this.subset hm)
    exact (b.others c i hc hi).trans (a.others c i hsub hi)

end Sys2Proof.Machine
end

