-- ==== Sys2Proof/Laws/Starts.lean ====
section
/-! SUPPORT. What the Permit Arbiter and the begin of a start can do: only generators, engines, quiet timers and sub-states
of nests, and the groups, change (R53 to R59). -/

namespace Sys2Proof.Machine

/-! ## `SameButStart` -/

theorem SameButStart.refl (x : Nest) : SameButStart x x := ⟨rfl, rfl⟩

theorem SameButStart.trans {x y z : Nest} (h : SameButStart x y) (k : SameButStart y z) : SameButStart x z := by
  obtain ⟨h1, h2⟩ := h
  obtain ⟨k1, k2⟩ := k
  refine ⟨?_, k2.trans h2⟩
  rw [h1] at k1
  exact k1

theorem SameButStart.state {x y : Nest} (h : SameButStart x y) : y.state = x.state := by rw [h.1]
theorem SameButStart.history {x y : Nest} (h : SameButStart x y) : y.history = x.history := by rw [h.1]
theorem SameButStart.loopback {x y : Nest} (h : SameButStart x y) : y.loopback = x.loopback := by rw [h.1]
theorem SameButStart.settling {x y : Nest} (h : SameButStart x y) : y.settling = x.settling := by rw [h.1]
theorem SameButStart.gateOpen {x y : Nest} (h : SameButStart x y) : y.gateOpen = x.gateOpen := by rw [h.1]
theorem SameButStart.autoStart {x y : Nest} (h : SameButStart x y) : y.autoStart = x.autoStart := by rw [h.1]

/-- The record but for its sub-state. -/
theorem SameButStart.record_some {x y : Nest} (h : SameButStart x y) {r : UnitRecord} (hr : x.record = some r) :
    ∃ sub, y.record = some { r with sub := sub } := by
  have h2 := h.2
  rw [hr] at h2
  cases hy : y.record with
  | none => rw [hy] at h2; simp at h2
  | some q =>
    rw [hy] at h2
    simp only [Option.map_some, Option.some.injEq] at h2
    refine ⟨q.sub, ?_⟩
    congr 1
    cases q; cases r
    simp only [UnitRecord.mk.injEq] at h2 ⊢
    simp_all

theorem SameButStart.record_none {x y : Nest} (h : SameButStart x y) : y.record = none ↔ x.record = none := by
  have h2 := h.2
  constructor
  · intro e; rw [e] at h2; cases hx : x.record <;> simp_all
  · intro e; rw [e] at h2; cases hy : y.record <;> simp_all

/-! ## Changes of starts alone -/

/-- From `d` to `e` starts have begun or waited, and nothing else has happened. -/
structure StartsOnly (d e : Device) : Prop where
  frame : e = { d with nests := e.nests, groups := e.groups }
  nests : ∀ m, SameButStart (d.nest m) (e.nest m)

theorem StartsOnly.refl (d : Device) : StartsOnly d d := ⟨rfl, fun _ => SameButStart.refl _⟩

theorem StartsOnly.trans {d e f : Device} (h : StartsOnly d e) (k : StartsOnly e f) : StartsOnly d f := by
  refine ⟨?_, fun m => (h.nests m).trans (k.nests m)⟩
  have := k.frame
  rw [h.frame] at this
  exact this

theorem StartsOnly.groupOf {d e : Device} (h : StartsOnly d e) (n : NestId) : e.groupOf n = d.groupOf n := by
  rw [h.frame]; rfl

/-- Replacing sub-states, generators, engines and quiet timers is a change of starts alone. -/
theorem Device.setNest_startsOnly {d : Device} {n : NestId} {x : Nest} (h : SameButStart (d.nest n) x) :
    StartsOnly d (d.setNest n x) := by
  refine ⟨rfl, fun m => ?_⟩
  by_cases e : m = n
  · subst e; simpa using h
  · rw [Device.nest_setNest_ne _ _ e]; exact SameButStart.refl _

theorem Device.modGroup_startsOnly (d : Device) (g : GroupId) (f : Group → Group) : StartsOnly d (d.modGroup g f) :=
  ⟨rfl, fun _ => SameButStart.refl _⟩

theorem Device.setSub_startsOnly (d : Device) (n : NestId) (sub : SubStage) : StartsOnly d (d.setSub n sub) := by
  rw [Device.setSub_eq]
  refine Device.setNest_startsOnly ⟨rfl, ?_⟩
  cases (d.nest n).record <;> rfl

/-! ## The begin of a start -/

theorem Nest.started_same (x : Nest) : SameButStart x x.started := by
  cases x with
  | mk state record _ _ _ _ _ _ _ _ _ _ _ _ _ _ _ _ _ _ => cases state <;> cases record <;> exact ⟨rfl, rfl⟩

/-- The begin of a start: the nest, and its place in the loud set of its group. -/
theorem Device.beginStart_eq (d : Device) (n : NestId) :
    d.beginStart n
      = if d.exceedsThreshold n then
          (d.setNest n (d.nest n).started).modGroup (d.groupOf n) fun g => { g with loud := g.loud.set n true }
        else d.setNest n (d.nest n).started := rfl

theorem Device.beginStart_startsOnly (d : Device) (n : NestId) : StartsOnly d (d.beginStart n) := by
  rw [Device.beginStart_eq]
  have h := Device.setNest_startsOnly (Nest.started_same (d.nest n))
  split
  · exact h.trans (Device.modGroup_startsOnly _ _ _)
  · exact h

/-- The begin of a start changes no other nest. -/
theorem Device.beginStart_nest_ne (d : Device) {n m : NestId} (h : m ≠ n) : (d.beginStart n).nest m = d.nest m := by
  rw [Device.beginStart_eq]
  split <;> simp [Device.nest_setNest_ne _ _ h]

@[simp] theorem Device.beginStart_nest_same (d : Device) (n : NestId) : (d.beginStart n).nest n = (d.nest n).started := by
  rw [Device.beginStart_eq]
  split <;> simp

/-- The begin of a start changes neither holder nor queue of any group, and no other nest's place in a loud set. -/
theorem Device.beginStart_group (d : Device) (n : NestId) (g : GroupId) :
    ((d.beginStart n).group g).holder = (d.group g).holder ∧ ((d.beginStart n).group g).queue = (d.group g).queue
    ∧ ∀ m, m ≠ n → ((d.beginStart n).group g).loud[m] = (d.group g).loud[m] := by
  rw [Device.beginStart_eq]
  split
  · by_cases h : g = d.groupOf n
    · subst h
      simp only [Device.modGroup_group_same, Device.setNest_group]
      refine ⟨trivial, trivial, fun m hm => ?_⟩
      have : n.val ≠ m.val := fun e => hm (Fin.ext e.symm)
      simp [this]
    · simp only [Device.modGroup_group_ne _ _ h, Device.setNest_group, implies_true, and_self]
  · simp

/-! ## Grants -/

/-- A nest that stands in no place of its group: no permit, no queue, no hold, no loud place. -/
structure Absent (d : Device) (g : GroupId) (n : NestId) : Prop where
  holder : (d.group g).holder ≠ some n
  queue : n ∉ (d.group g).queue
  quiet : (d.group g).loud[n] = false
  unheld : ∀ r, (d.nest n).record = some r → r.sub ≠ .held

/-- The grant test either does nothing or grants the head of the queue. -/
theorem Device.grantTest_cases (d : Device) (g : GroupId) :
    d.grantTest g = d ∨ ∃ n rest, (d.group g).holder = none ∧ (d.group g).queue = n :: rest
      ∧ d.grantTest g = (d.modGroup g fun x => { x with holder := some n, queue := rest }).beginStart n := by
  simp only [Device.grantTest]
  split
  · rename_i n rest hh hq
    split
    · exact Or.inr ⟨n, rest, hh, hq, rfl⟩
    · exact Or.inl rfl
  · exact Or.inl rfl

theorem Device.grantTest_startsOnly (d : Device) (g : GroupId) : StartsOnly d (d.grantTest g) := by
  rcases d.grantTest_cases g with h | ⟨n, rest, _, _, h⟩
  · rw [h]; exact StartsOnly.refl d
  · rw [h]; exact (Device.modGroup_startsOnly _ _ _).trans (Device.beginStart_startsOnly _ _)

theorem Device.beginIfHeld_startsOnly (g : GroupId) (d : Device) (n : NestId) :
    StartsOnly d (d.beginIfHeld g n) := by
  simp only [Device.beginIfHeld]
  split
  · exact Device.beginStart_startsOnly d n
  · exact StartsOnly.refl d

theorem Device.foldHeld_startsOnly (g : GroupId) (l : List NestId) (d : Device) :
    StartsOnly d (l.foldl (Device.beginIfHeld g) d) := by
  induction l generalizing d with
  | nil => exact StartsOnly.refl d
  | cons n l ih => exact (Device.beginIfHeld_startsOnly g d n).trans (ih _)

theorem Device.beginHeld_startsOnly (d : Device) (g : GroupId) : StartsOnly d (d.beginHeld g) := by
  simp only [Device.beginHeld]
  split
  · exact Device.foldHeld_startsOnly g _ d
  · exact StartsOnly.refl d

theorem Device.settleGroup_startsOnly (d : Device) (g : GroupId) : StartsOnly d (d.settleGroup g) :=
  (Device.grantTest_startsOnly d g).trans (Device.beginHeld_startsOnly _ g)

theorem Device.presentStart_startsOnly (d : Device) (n : NestId) : StartsOnly d (d.presentStart n) := by
  simp only [Device.presentStart]
  split
  · exact Device.beginStart_startsOnly d n
  · split
    · exact Device.setSub_startsOnly d n _
    · exact Device.beginStart_startsOnly d n
  · exact ((Device.setSub_startsOnly d n _).trans (Device.modGroup_startsOnly _ _ _)).trans
      (Device.grantTest_startsOnly _ _)

theorem Device.leaveArbiter_startsOnly (d : Device) (n : NestId) : StartsOnly d (d.leaveArbiter n) :=
  ((Device.setSub_startsOnly d n _).trans (Device.modGroup_startsOnly _ _ _)).trans (Device.settleGroup_startsOnly _ _)

/-! ## A nest that is absent stays as it is -/

theorem Absent.beginStart {d : Device} {g : GroupId} {n m : NestId} (h : Absent d g n) (hm : m ≠ n) :
    Absent (d.beginStart m) g n ∧ (d.beginStart m).nest n = d.nest n := by
  have hg := d.beginStart_group m g
  have hn := d.beginStart_nest_ne (fun e => hm e.symm)
  refine ⟨⟨?_, ?_, ?_, ?_⟩, hn⟩
  · rw [hg.1]; exact h.holder
  · rw [hg.2.1]; exact h.queue
  · rw [hg.2.2 n (fun e => hm e.symm)]; exact h.quiet
  · rw [hn]; exact h.unheld

theorem Absent.grantTest {d : Device} {g : GroupId} {n : NestId} (h : Absent d g n) :
    Absent (d.grantTest g) g n ∧ (d.grantTest g).nest n = d.nest n := by
  rcases d.grantTest_cases g with e | ⟨m, rest, _, hq, e⟩
  · rw [e]; exact ⟨h, rfl⟩
  · have hm : m ≠ n := by intro e; subst e; exact h.queue (by rw [hq]; simp)
    rw [e]
    have h' : Absent (d.modGroup g fun x => { x with holder := some m, queue := rest }) g n := by
      refine ⟨?_, ?_, ?_, h.unheld⟩
      · simp only [Device.modGroup_group_same]; intro e; injection e with e; exact hm e
      · simp only [Device.modGroup_group_same]; intro e; exact h.queue (by rw [hq]; simp [e])
      · simp only [Device.modGroup_group_same]; exact h.quiet
    exact h'.beginStart hm

theorem Absent.foldHeld {g : GroupId} {n : NestId} (l : List NestId) {d : Device} (h : Absent d g n) :
    Absent (l.foldl (Device.beginIfHeld g) d) g n ∧ (l.foldl (Device.beginIfHeld g) d).nest n = d.nest n := by
  induction l generalizing d with
  | nil => exact ⟨h, rfl⟩
  | cons m l ih =>
    have step : Absent (d.beginIfHeld g m) g n ∧ (d.beginIfHeld g m).nest n = d.nest n := by
      simp only [Device.beginIfHeld]
      split
      · rename_i hheld
        have hm : m ≠ n := by
          intro e; subst e
          simp only [Device.isHeld, Bool.and_eq_true, decide_eq_true_eq, Option.any_eq_true] at hheld
          obtain ⟨_, r, hr, hs⟩ := hheld
          exact h.unheld r hr hs
        exact h.beginStart hm
      · exact ⟨h, rfl⟩
    obtain ⟨a, b⟩ := ih step.1
    exact ⟨a, b.trans step.2⟩

theorem Absent.settleGroup {d : Device} {g : GroupId} {n : NestId} (h : Absent d g n) :
    Absent (d.settleGroup g) g n ∧ (d.settleGroup g).nest n = d.nest n := by
  obtain ⟨h1, e1⟩ := h.grantTest
  simp only [Device.settleGroup, Device.beginHeld]
  split
  · obtain ⟨h2, e2⟩ := Absent.foldHeld (List.finRange 4) h1
    exact ⟨h2, e2.trans e1⟩
  · exact ⟨h1, e1⟩

/-- A nest that leaves its arbiter stands in no place of it, and nothing of the nest changes but its sub-state. -/
theorem Device.leaveArbiter_self (d : Device) (n : NestId) :
    Absent (d.leaveArbiter n) (d.groupOf n) n
    ∧ (d.leaveArbiter n).nest n
      = { d.nest n with record := (d.nest n).record.map fun r => { r with sub := .none } } := by
  have h : Absent ((d.setSub n .none).modGroup (d.groupOf n) fun x =>
      { x with
        holder := x.holder.filter fun m => decide (m ≠ n)
        queue := x.queue.filter fun m => decide (m ≠ n)
        loud := x.loud.set n false }) (d.groupOf n) n := by
    refine ⟨?_, ?_, ?_, ?_⟩
    · simp only [Device.modGroup_group_same]
      intro e
      have := Option.mem_filter_iff.mp e
      simp at this
    · simp only [Device.modGroup_group_same]
      intro e
      have := List.mem_filter.mp e
      simp at this
    · simp
    · intro r hr
      simp only [Device.modGroup_nest, Device.setSub_eq, Device.nest_setNest_same] at hr
      cases hx : (d.nest n).record with
      | none => rw [hx] at hr; simp at hr
      | some q => rw [hx] at hr; simp at hr; rw [← hr]; simp
  obtain ⟨h1, e1⟩ := h.settleGroup
  refine ⟨h1, ?_⟩
  rw [Device.leaveArbiter, e1, Device.modGroup_nest, Device.setSub_eq, Device.nest_setNest_same]

end Sys2Proof.Machine
end

