-- ==== Sys2Proof/Laws/Commands.lean ====
section
/-! SUPPORT. What the execution of a command does: the head of the Command Queue is answered and removed, or the row is not
due and nothing changes (R184). -/

namespace Sys2Proof.Machine

theorem State.heads_queue {s : State} {type tag : Byte} {body : List Byte} (h : s.Heads type tag body) :
    ∃ rest, s.mgmt.queue = { type := type, tag := tag, body := body } :: rest := by
  cases hq : s.mgmt.queue with
  | nil => simp [State.Heads, hq] at h
  | cons c rest =>
    simp only [State.Heads, hq, List.head?_cons, Option.some.injEq] at h
    exact ⟨rest, by rw [h]⟩

/-- A command at the head, with a fitting body and agreeing fields, is executed and answered. -/
theorem State.runCommand_heads {s : State} {type tag : Byte} {body : List Byte} {agrees : List Byte → Bool}
    {act : Device → Answer} (h : s.Heads type tag body) (hl : lengthFits type body = true) (ha : agrees body = true) :
    s.runCommand type tag agrees act = s.answered tag type (act s.dev) := by
  obtain ⟨rest, hq⟩ := State.heads_queue h
  simp [State.runCommand, hq, hl, ha]

/-- A command at the head whose body length does not fit is answered BAD_LENGTH. -/
theorem State.runCommand_badLength {s : State} {type tag : Byte} {body : List Byte} {agrees : List Byte → Bool}
    {act : Device → Answer} (h : s.Heads type tag body) (hl : lengthFits type body = false) :
    s.runCommand type tag agrees act = s.repliedWith type tag .badLength .none s.dev := by
  obtain ⟨rest, hq⟩ := State.heads_queue h
  simp [State.runCommand, hq, hl, State.answered, State.repliedWith, Answer.refuse]

/-- An answered command is removed and its reply joins the Reply Queue. -/
@[simp] theorem State.answered_ok (s : State) (tag type : Byte) (d : Device) (data : ReplyData) :
    s.answered tag type (.ok d data) = s.repliedWith type tag .ok data d := rfl

@[simp] theorem State.answered_refuse (s : State) (tag type : Byte) (d : Device) (st : Status) :
    s.answered tag type (.refuse d st) = s.repliedWith type tag st .none d := rfl

/-- A command whose reply is held. -/
@[simp] theorem State.answered_held (s : State) (tag type : Byte) (d : Device) :
    s.answered tag type { dev := d, reply := none } = s.heldWith type tag d := rfl

/-- Everything the execution of a command can be: nothing, or the answer of the head command. -/
theorem State.runCommand_cases (s : State) (type tag : Byte) (agrees : List Byte → Bool) (act : Device → Answer) :
    s.runCommand type tag agrees act = s
    ∨ ∃ c rest, s.mgmt.queue = c :: rest ∧ c.type = type ∧ c.tag = tag
        ∧ (s.runCommand type tag agrees act = s.answered tag type (.refuse s.dev .badLength)
          ∨ s.runCommand type tag agrees act = s.answered tag type (act s.dev)) := by
  cases hq : s.mgmt.queue with
  | nil => left; simp [State.runCommand, hq]
  | cons c rest =>
    by_cases h : c.type = type ∧ c.tag = tag
    · by_cases hl : lengthFits type c.body = true
      · by_cases ha : agrees c.body = true
        · right; exact ⟨c, rest, rfl, h.1, h.2, Or.inr (by simp [State.runCommand, hq, h, hl, ha])⟩
        · left; simp [State.runCommand, hq, h, hl, ha]
      · right; exact ⟨c, rest, rfl, h.1, h.2, Or.inl (by simp [State.runCommand, hq, h, hl])⟩
    · left; simp [State.runCommand, hq, h]

/-- A command leaves the queue of rows and the samples as they are. -/
theorem State.runCommand_pending (s : State) (type tag : Byte) (agrees : List Byte → Bool) (act : Device → Answer) :
    (s.runCommand type tag agrees act).pending = s.pending ∧ (s.runCommand type tag agrees act).samples = s.samples := by
  rcases s.runCommand_cases type tag agrees act with h | ⟨_, _, _, _, _, h | h⟩ <;> rw [h] <;> exact ⟨rfl, rfl⟩

/-- A body of a length in the table fits, for every type but TABLE WRITE. -/
theorem lengthFits_of_mem {type : Byte} {body : List Byte} (ht : type ≠ 0x0E) (h : body.length ∈ bodyLengths type) :
    lengthFits type body = true := by
  rw [lengthFits, if_neg ht]
  exact List.contains_iff_mem.mpr h

/-- A nest's number as a byte names that nest. -/
@[simp] theorem nestOf_ofNat (n : NestId) : nestOf (BitVec.ofNat 8 n.val) = some n := by
  revert n; decide

/-- A plan's number as a byte names that plan. -/
@[simp] theorem planOf_ofNat (p : PlanId) : planOf (BitVec.ofNat 8 p.val) = some p := by
  revert p; decide

/-- An entry's number as a byte names that entry. -/
@[simp] theorem entryOf_ofNat (i : EntryId) : entryOf (BitVec.ofNat 8 i.val) = some i := by
  revert i; decide

/-- A byte that names a nest is its number. -/
theorem nestOf_eq {b : Byte} {n : NestId} (h : b.toNat = n.val) : nestOf b = some n := by
  have hb : b = BitVec.ofNat 8 n.val := by
    apply BitVec.eq_of_toNat_eq; rw [h, BitVec.toNat_ofNat]; omega
  rw [hb, nestOf_ofNat]

/-- A byte that names a plan is its number. -/
theorem planOf_eq {b : Byte} {p : PlanId} (h : b.toNat = p.val) : planOf b = some p := by
  have hb : b = BitVec.ofNat 8 p.val := by
    apply BitVec.eq_of_toNat_eq; rw [h, BitVec.toNat_ofNat]; omega
  rw [hb, planOf_ofNat]

@[simp] theorem roleOf_roleCode (r : Role) : roleOf (roleCode r) = some r := by cases r <;> decide

end Sys2Proof.Machine
end

