-- ==== Sys2Proof/Laws/Life.lean ====
section
/-! SUPPORT. Entering and leaving the nest states, and the start of a unit: what each can do (R3, R9 to R14, R21 to R23,
R29). -/

namespace Sys2Proof.Machine

/-! ## States without a unit -/

/-- What a nest is after it has left its test without a unit: only its state, record, claims, settle and release timer
differ. -/
structure Exited (x y : Nest) (st : NestState) : Prop where
  state : y.state = st
  record : y.record = none
  markClaim : y.markClaim = false
  settling : y.settling = none
  history : y.history = x.history
  gateOpen : y.gateOpen = x.gateOpen
  autoStart : y.autoStart = x.autoStart
  loopback : y.loopback = x.loopback
  tone : y.tone = x.tone
  autoTestOwed : x.autoTestOwed = false → y.autoTestOwed = false

theorem Device.enterEmpty_eq (d : Device) (n : NestId) :
    d.enterEmpty n = d.setNest n { d.nest n with
      state := .empty, gateClaim := false, lampClaim := false, autoTestOwed := false } := rfl

/-- DONE, or EMPTY with PRESENT inactive (R3). -/
theorem Device.enterDone_eq (d : Device) (n : NestId) :
    d.enterDone n = d.setNest n (if d.taken n .present then { d.nest n with state := .done }
      else { d.nest n with state := .empty, gateClaim := false, lampClaim := false, autoTestOwed := false }) := by
  by_cases h : d.taken n .present = true <;>
    simp [Device.enterDone, Device.setState_eq, Device.enterEmpty_eq, h]

/-- RELEASING is entered, and left at once where CLAMPED is inactive (R22, R3). -/
theorem Device.enterReleasing_exits (d : Device) (n : NestId) :
    ∃ y, d.enterReleasing n = d.setNest n y ∧ Exited (d.nest n) y (d.afterRelease n) := by
  by_cases hc : d.taken n .clamped = true
  · refine ⟨_, by simp only [Device.enterReleasing, Device.modNest_eq, Device.setNest_taken, hc, if_true]; rfl, ?_⟩
    constructor <;> simp [Device.afterRelease, hc]
  · have h : d.enterReleasing n = d.setNest n (if d.taken n .present
        then { d.nest n with state := .done, record := none, markClaim := false, settling := none, releaseTimer := 0 }
        else { d.nest n with state := .empty, record := none, markClaim := false, settling := none, releaseTimer := 0,
                             gateClaim := false, lampClaim := false, autoTestOwed := false }) := by
      by_cases hp : d.taken n .present = true <;>
        simp [Device.enterReleasing, Device.modNest_eq, hc, hp, Device.enterDone_eq]
    refine ⟨_, h, ?_⟩
    by_cases hp : d.taken n .present = true
    · simp only [if_pos hp]; constructor <;> simp [Device.afterRelease, hc, hp]
    · simp only [if_neg hp]; constructor <;> simp [Device.afterRelease, hc, hp]

/-- No auto-start test starts a unit on a nest in loopback (R12, R29). -/
theorem Device.autoStartTest_loopback (d : Device) (n : NestId) (h : (d.nest n).loopback = true) :
    d.autoStartTest n = d := by
  simp only [Device.autoStartTest]
  split
  · rfl
  · simp [h]

/-- No auto-start test does anything while auto-start is OFF (R12). -/
theorem Device.autoStartTest_off (d : Device) (n : NestId) (h : (d.nest n).autoStart = none) :
    d.autoStartTest n = d := by simp [Device.autoStartTest, h]

/-- A test is left for RELEASING, or LOADED in loopback (R29). -/
theorem Device.exitTest_exits (d : Device) (n : NestId) :
    ∃ y, d.exitTest n = d.setNest n y ∧ Exited (d.nest n) y (d.afterUnit n) := by
  by_cases h : (d.nest n).loopback = true
  · refine ⟨{ d.nest n with
      record := none, markClaim := false, settling := none, state := .loaded, autoTestOwed := false }, ?_, ?_⟩
    · simp only [Device.exitTest, h, if_true, Device.enterLoaded, Device.modNest_eq]
      rw [Device.autoStartTest_loopback _ _ (by simp)]
      simp
    · constructor <;> simp [Device.afterUnit, h]
  · obtain ⟨y, hy, he⟩ := d.enterReleasing_exits n
    refine ⟨y, by simp [Device.exitTest, h, hy], ?_⟩
    simpa [Device.afterUnit, h] using he

/-- FAULT is entered (R23). -/
theorem Device.enterFault_eq (d : Device) (n : NestId) :
    d.enterFault n = (d.setNest n { d.nest n with state := .fault, record := none, markClaim := false,
                                                  settling := none }).raise (nestFaultSource n) := rfl

theorem Device.enterFault_exits (d : Device) (n : NestId) :
    ∃ y, d.enterFault n = (d.setNest n y).raise (nestFaultSource n) ∧ Exited (d.nest n) y .fault :=
  ⟨_, rfl, by constructor <;> first | rfl | exact id⟩

/-! ## Starting a unit -/

/-- A start that asks for no quiet permit touches its own nest and group alone. -/
theorem Device.presentStart_nest_ne (d : Device) {n m : NestId} (h : d.startClass n ≠ .quiet) (hm : m ≠ n) :
    (d.presentStart n).nest m = d.nest m := by
  simp only [Device.presentStart]
  split
  · exact d.beginStart_nest_ne hm
  · split
    · rw [Device.setSub_eq, Device.nest_setNest_ne _ _ hm]
    · exact d.beginStart_nest_ne hm
  · rename_i hq; exact absurd hq h

/-- The lock pilot is never a quiet start (R53). -/
theorem Device.startClass_lock {d : Device} {n : NestId} (h : (d.nest n).state = .levelLock) :
    d.startClass n ≠ .quiet := by
  simp only [Device.startClass]
  split
  · simp
  · simp only [h]; split <;> simp

/-- LEVEL_LOCK is entered with the start gain (R37): what can differ. -/
structure LockEntered (d e : Device) (n : NestId) : Prop where
  frame : e = { d with nests := e.nests, groups := e.groups }
  others : SameOtherNests d e n
  state : (e.nest n).state = .levelLock
  history : (e.nest n).history = (d.nest n).history
  settling : (e.nest n).settling = (d.nest n).settling
  gain : (e.nest n).tone.gain = ((d.nest n).record.bind fun r => r.lockedGain).getD 0
  record : ∀ r, (d.nest n).record = some r → ∃ sub, (e.nest n).record = some { r with sub := sub }

theorem Nest.started_gain (x : Nest) : x.started.tone.gain = x.tone.gain := by
  cases x with
  | mk state _ _ _ _ _ _ _ _ _ _ _ _ _ _ _ _ _ _ _ => cases state <;> rfl

/-- No start changes a gain. -/
theorem Device.presentStart_gain (d : Device) (n : NestId) (h : d.startClass n ≠ .quiet) :
    ((d.presentStart n).nest n).tone.gain = (d.nest n).tone.gain := by
  simp only [Device.presentStart]
  split
  · rw [Device.beginStart_nest_same, Nest.started_gain]
  · split
    · rw [Device.setSub_eq, Device.nest_setNest_same]
    · rw [Device.beginStart_nest_same, Nest.started_gain]
  · rename_i hq; exact absurd hq h

theorem Device.enterLevelLock_spec (d : Device) (n : NestId) : LockEntered d (d.enterLevelLock n) n := by
  have hs := Device.presentStart_startsOnly (d.setNest n { d.nest n with
      state := .levelLock
      tone := { (d.nest n).tone with
        mode := .silent, gain := ((d.nest n).record.bind fun r => r.lockedGain).getD 0, inTolerance := 0,
        intervals := 0, sense := [], pilot := [] } }) n
  have hc := Device.startClass_lock (n := n) (d := d.setNest n { d.nest n with
      state := .levelLock
      tone := { (d.nest n).tone with
        mode := .silent, gain := ((d.nest n).record.bind fun r => r.lockedGain).getD 0, inTolerance := 0,
        intervals := 0, sense := [], pilot := [] } }) (by simp)
  have hn := hs.nests n
  rw [Device.nest_setNest_same] at hn
  refine ⟨hs.frame, fun m hm => ?_, hn.state, hn.history, hn.settling, ?_, fun r hr => hn.record_some hr⟩
  · exact (Device.presentStart_nest_ne _ hc hm).trans (Device.nest_setNest_ne _ _ hm)
  · have := Device.presentStart_gain _ _ hc
    rw [Device.nest_setNest_same] at this
    exact this

theorem Device.startCheck_ok {d : Device} {n : NestId} {role : Role} {p : PlanId} {b : BankId}
    (h : d.Startable n role p b) : d.startCheck n role p = .ok b := by
  obtain ⟨h1, h2, h3, h4, h5, h6, h7, h8⟩ := h
  have h4' : (!d.detects n .lid || (d.nest n).loopback || d.taken n .lid) = true := by
    cases hl : (d.nest n).loopback <;> cases hd : d.detects n .lid <;> simp_all
  have h6' : ∀ x : Bool, x = true → (!x) = false := by decide
  simp only [Device.startCheck, h1, h2, h3, h4', h5, h6]
  simp only [decide_true, Bool.and_self, Bool.not_true, if_neg Bool.false_ne_true]
  rw [if_neg, if_neg]
  · rintro ⟨hr, hv⟩
    rw [h8 hr] at hv; simp at hv
  · rintro ⟨hr, ha, hb⟩
    rcases h7 hr with h | h
    · exact ha h
    · exact hb h

/-- An auto-start test whose checks pass is a start (R12). -/
theorem Device.autoStartTest_starts {d : Device} {n : NestId} {p : PlanId} {b : BankId}
    (ha : (d.nest n).autoStart = some p) (hg : (d.nest n).gateOpen = true) (hl : (d.nest n).loopback = false)
    (h : d.Startable n .production p b) : d.autoStartTest n = d.startUnit n .production p [] 0 b := by
  simp only [Device.autoStartTest, ha]
  simp only [hg, hl, Device.startCheck_ok h]
  rfl

/-- An auto-start test that is refused records the reply and sets NEST_FAULT (R13). -/
theorem Device.autoStartTest_refused {d : Device} {n : NestId} {p : PlanId} {st : Status}
    (ha : (d.nest n).autoStart = some p) (hg : (d.nest n).gateOpen = true) (hl : (d.nest n).loopback = false)
    (h : d.startCheck n .production p = .error st) :
    d.autoStartTest n
      = { d with notices := { d.notices with refusal := d.notices.refusal.set n (some st) } }.raise
          (nestFaultSource n) := by
  simp only [Device.autoStartTest, ha]
  simp only [hg, hl, h]
  rfl

/-- FAULT is left for LOADED or EMPTY, and no unit starts while auto-start is OFF (R23). -/
theorem Device.leaveFault_off (d : Device) (n : NestId) (h : (d.nest n).autoStart = none) :
    d.leaveFault n
      = d.setNest n (if (d.nest n).loopback || d.taken n .present
          then { d.nest n with state := .loaded, autoTestOwed := false }
          else { d.nest n with state := .empty, gateClaim := false, lampClaim := false, autoTestOwed := false }) := by
  simp only [Device.leaveFault, Device.enterLoaded, Device.modNest_eq]
  split
  · rw [Device.autoStartTest_off _ _ (by simpa using h)]
  · rfl

/-- CLAMPING is entered: what can differ. CLAMPED already active counts as taken (R14). -/
structure ClampEntered (d e : Device) (n : NestId) : Prop where
  frame : e = { d with nests := e.nests, groups := e.groups }
  others : SameOtherNests d e n
  state : (e.nest n).state = if d.taken n .clamped ∧ (d.map n).settle = 0 then .levelLock else .clamping
  history : (e.nest n).history
    = if d.taken n .clamped then addEvent (d.nest n).history .clamped else (d.nest n).history
  record : ∀ r, (d.nest n).record = some r → ∃ sub, (e.nest n).record = some { r with sub := sub }

theorem Device.enterClamping_spec (d : Device) (n : NestId) : ClampEntered d (d.enterClamping n) n := by
  by_cases hc : d.taken n .clamped = true
  · by_cases hz : (d.map n).settle = 0
    · have he : d.enterClamping n = (d.setNest n { d.nest n with
          state := .clamping, clampTimer := 0, settling := none,
          history := addEvent (d.nest n).history .clamped }).enterLevelLock n := by
        simp [Device.enterClamping, Device.modNest_eq, Device.clampedTaken, Device.addHistory_eq, hc, hz]
      have h := Device.enterLevelLock_spec (d.setNest n { d.nest n with
          state := .clamping, clampTimer := 0, settling := none,
          history := addEvent (d.nest n).history .clamped }) n
      rw [← he] at h
      refine ⟨h.frame, fun m hm => (h.others m hm).trans (Device.nest_setNest_ne _ _ hm), ?_, ?_, fun r hr => ?_⟩
      · rw [h.state]; simp [hc, hz]
      · rw [h.history]; simp [hc]
      · exact h.record r (by simpa using hr)
    · have he : d.enterClamping n = d.setNest n { d.nest n with
          state := .clamping, clampTimer := 0, settling := some (0, msFrames (d.map n).settle),
          history := addEvent (d.nest n).history .clamped } := by
        simp [Device.enterClamping, Device.modNest_eq, Device.clampedTaken, Device.addHistory_eq, hc, hz]
      rw [he]
      refine ⟨rfl, fun m hm => Device.nest_setNest_ne _ _ hm, ?_, ?_, fun r hr => ⟨r.sub, ?_⟩⟩
      · simp [hz]
      · simp [hc]
      · simpa using hr
  · have he : d.enterClamping n = d.setNest n { d.nest n with
        state := .clamping, clampTimer := 0, settling := none } := by
      simp [Device.enterClamping, Device.modNest_eq, hc]
    rw [he]
    refine ⟨rfl, fun m hm => Device.nest_setNest_ne _ _ hm, ?_, ?_, fun r hr => ⟨r.sub, ?_⟩⟩
    · simp [hc]
    · simp [hc]
    · simpa using hr

/-- A start that is taken (R10). -/
theorem Device.startUnit_starts (d : Device) (n : NestId) (role : Role) (p : PlanId) (serial : List Byte)
    (lot : Word32) (b : BankId) : UnitStarted d (d.startUnit n role p serial lot b) n role p b serial lot := by
  -- the blocks before the nest enters its first stage
  let d₁ : Device := { d with
    tables := d.tables.modBank b fun x => { x with pins := x.pins + 1 }
    yields := { d.yields with live := d.yields.live.set n (startCounted d.yields.live[n]) } }
  let x₁ : Nest := { d.nest n with
    record := some (d.startRecord n role p b serial lot)
    history := addEvent 0 .started
    tone := { (d.nest n).tone with mode := .silent }
    autoTestOwed := false }
  have hx : (d₁.setNest n x₁).nest n = x₁ := Device.nest_setNest_same _ _ _
  have hstart : d.startUnit n role p serial lot b
      = if (d.nest n).loopback then (d₁.setNest n x₁).enterLevelLock n else (d₁.setNest n x₁).enterClamping n := by
    have hl : (d.nest n).loopback = ((d₁.setNest n x₁).nest n).loopback := by rw [hx]
    rw [hl]
    rfl
  rw [hstart]
  by_cases hl : (d.nest n).loopback = true
  · rw [if_pos hl]
    have h := Device.enterLevelLock_spec (d₁.setNest n x₁) n
    refine ⟨?_, ?_, ?_, ?_, ?_, ?_, h.frame.trans ?_⟩
    · rw [h.state]; simp [Device.startState, hl]
    · rw [h.history, hx]; simp [Device.startHistory, hl, x₁]
    · exact h.record _ (by rw [hx])
    · rw [h.frame]; rfl
    · rw [h.frame]; rfl
    · intro m hm; rw [h.others m hm, Device.nest_setNest_ne _ _ hm]; rfl
    · rw [h.frame]; rfl
  · rw [if_neg hl]
    have h := Device.enterClamping_spec (d₁.setNest n x₁) n
    refine ⟨?_, ?_, ?_, ?_, ?_, ?_, h.frame.trans ?_⟩
    · rw [h.state]; simp only [Device.startState, if_neg hl]; rfl
    · rw [h.history, hx]
      have e : (d₁.setNest n x₁).taken n .clamped = d.taken n .clamped := rfl
      rw [e]
      by_cases hc : d.taken n .clamped = true <;> simp [Device.startHistory, hl, hc, x₁]
    · exact h.record _ (by rw [hx])
    · rw [h.frame]; rfl
    · rw [h.frame]; rfl
    · intro m hm; rw [h.others m hm, Device.nest_setNest_ne _ _ hm]; rfl
    · rw [h.frame]; rfl

end Sys2Proof.Machine
end

