-- ==== Sys2Proof/Laws/Ends.lean ====
section
/-! SUPPORT. The end of a unit: the pin, the label, the counters, the discard, the early end (R6, R24, R25, R101, R113). -/

namespace Sys2Proof.Machine

/-! ## The pin (R164) -/

/-- What the fall of a pin count can do. -/
structure Unpinned (d e : Device) (b : BankId) : Prop where
  frame : e = { d with tables := e.tables, notices := e.notices }
  pins : (e.tables.bank b).pins = (d.tables.bank b).pins - 1
  rows : (e.tables.bank b).rows = (d.tables.bank b).rows
  generation : (e.tables.bank b).generation = (d.tables.bank b).generation
  fingerprints : (e.tables.bank b).fingerprints = (d.tables.bank b).fingerprints
  state : (e.tables.bank b).state
    = if (d.tables.bank b).state = .retiring ∧ (d.tables.bank b).pins - 1 = 0 then .opened else (d.tables.bank b).state
  others : ∀ c, c ≠ b → e.tables.bank c = d.tables.bank c
  operation : e.tables.operation = d.tables.operation

theorem Device.unpin_spec (d : Device) (b : BankId) : Unpinned d (d.unpin b) b := by
  simp only [Device.unpin]
  split
  · rename_i h
    refine ⟨rfl, ?_, ?_, ?_, ?_, ?_, ?_, ?_⟩
    all_goals first
      | (intro c hc; simp [TableStore.bank_modBank_ne _ _ hc])
      | simp [h]
  · rename_i h
    refine ⟨rfl, ?_, ?_, ?_, ?_, ?_, ?_, ?_⟩
    all_goals first
      | (intro c hc; simp [TableStore.bank_modBank_ne _ _ hc])
      | simp [h]

/-! ## Counting and posting a label (R101, R113, R120, R192) -/

@[simp] theorem Counters.countLabel_labelled (c : Counters) (l : Label) :
    (c.countLabel l).labelled = c.labelled + 1 := by
  simp only [Counters.countLabel]
  split
  · rfl
  · rfl
  · split <;> split <;> rfl

@[simp] theorem Counters.countLabel_started (c : Counters) (l : Label) : (c.countLabel l).started = c.started := by
  simp only [Counters.countLabel]
  split
  · rfl
  · rfl
  · split <;> split <;> rfl

@[simp] theorem Counters.countLabel_discarded (c : Counters) (l : Label) :
    (c.countLabel l).discarded = c.discarded := by
  simp only [Counters.countLabel]
  split
  · rfl
  · rfl
  · split <;> split <;> rfl

/-- A label is counted by its role and its bin (R113, Table 6-2). -/
theorem Counters.countLabel_eq (c : Counters) (l : Label) :
    c.countLabel l = counted c l.role l.bin (hasFailure l.failures .marginal) := by
  simp only [Counters.countLabel, counted]
  rcases l.role <;> rcases l.bin <;> cases hasFailure l.failures .marginal <;> rfl

theorem Counters.countLabel_golden (c : Counters) (l : Label) (h : l.role = .golden) :
    (c.countLabel l).golden = c.golden + 1 := by simp [Counters.countLabel, h]

theorem Device.raiseCal_frame (d : Device) (n : NestId) (k : CalCause) (p : Option PlanId) :
    d.raiseCal n k p = { d with notices := (d.raiseCal n k p).notices } := rfl

/-- A drift demotion changes calibration records and notices alone (R121). -/
theorem Device.demoteRecords_frame (d : Device) (n : NestId) :
    ∃ c a, d.demoteRecords n = { d with calibration := c, notices := a } := by
  simp only [Device.demoteRecords]
  split <;> exact ⟨_, _, rfl⟩

/-- A label in the drift window changes calibration records, drift windows and notices alone (R120). -/
theorem Device.enterDrift_frame (d : Device) (n : NestId) (m : Bool) :
    ∃ c a, d.enterDrift n m = { d with calibration := c, notices := a } := by
  have both : ∀ (p q : Prop) [Decidable p] [Decidable q] (x y z : Device),
      (∃ c a, x = { d with calibration := c, notices := a }) → (∃ c a, y = { d with calibration := c, notices := a }) →
      (∃ c a, z = { d with calibration := c, notices := a }) →
      ∃ c a, (if p then x else if q then y else z) = { d with calibration := c, notices := a } := by
    intro p q _ _ x y z hx hy hz
    by_cases hp : p
    · rw [if_pos hp]; exact hx
    · rw [if_neg hp]
      by_cases hq : q
      · rw [if_pos hq]; exact hy
      · rw [if_neg hq]; exact hz
  refine both _ _ _ _ _ ⟨_, _, rfl⟩ ?_ ⟨_, _, rfl⟩
  obtain ⟨c, a, h⟩ := Device.demoteRecords_frame { d with calibration := { d.calibration with
    drift := d.calibration.drift.set n { d.calibration.drift[n] with labels := 0, marginals := 0 } } } n
  exact ⟨c, a, h⟩

/-- What the posting of a label can do. -/
structure Posted (d e : Device) (n : NestId) (l : Label) (chain : Option Chain) : Prop where
  frame : e = { d with nests := e.nests, labels := e.labels, yields := e.yields, calibration := e.calibration,
                       notices := e.notices }
  labels : e.labels = d.labels.put { label := l, chain := chain }
  nest : e.nests = (d.setNest n { d.nest n with history := addEvent (d.nest n).history .labelled }).nests
  yields : e.yields = { d.yields with live := d.yields.live.set n (d.yields.live[n].countLabel l) }
  calibration : l.role ≠ .production → e.calibration = d.calibration

theorem Device.postLabel_spec (d : Device) (n : NestId) (l : Label) (chain : Option Chain) :
    Posted d (d.postLabel n l chain) n l chain := by
  by_cases h : l.role = .production
  · obtain ⟨c, a, hf⟩ := Device.enterDrift_frame
      ({ d with labels := d.labels.put { label := l, chain := chain } }.count n fun c => c.countLabel l) n
      (hasFailure l.failures .marginal)
    simp only [Device.postLabel, h, if_true]
    rw [hf]
    exact ⟨rfl, rfl, rfl, rfl, fun k => absurd h k⟩
  · simp only [Device.postLabel, h, if_false]
    exact ⟨rfl, rfl, rfl, rfl, fun _ => rfl⟩

theorem Posted.nest_same {d e : Device} {n : NestId} {l : Label} {c : Option Chain} (h : Posted d e n l c) :
    e.nest n = { d.nest n with history := addEvent (d.nest n).history .labelled } := by
  simp only [Device.nest, h.nest]
  exact Device.nest_setNest_same d n _

theorem Posted.nest_ne {d e : Device} {n m : NestId} {l : Label} {c : Option Chain} (h : Posted d e n l c)
    (hm : m ≠ n) : e.nest m = d.nest m := by
  simp only [Device.nest, h.nest]
  exact Device.nest_setNest_ne d _ hm

theorem Posted.live_ne {d e : Device} {n m : NestId} {l : Label} {c : Option Chain} (h : Posted d e n l c)
    (hm : m ≠ n) : e.yields.live[m] = d.yields.live[m] := by
  have hv : n.val ≠ m.val := fun e => hm (Fin.ext e.symm)
  simp [h.yields, hv]

/-! ## The end of a unit in test (R6) -/

/-- What leaving the pinned bank and the arbiter can do. -/
structure EndedInTest (d e : Device) (n : NestId) (r : UnitRecord) : Prop where
  frame : e = { d with nests := e.nests, groups := e.groups, tables := e.tables, notices := e.notices }
  pin : ∃ u, Unpinned d u r.bank ∧ e.tables = u.tables ∧ e.notices = u.notices
  self : e.nest n = { d.nest n with record := (d.nest n).record.map fun r => { r with sub := .none } }
  others : ∀ m, SameButStart (d.nest m) (e.nest m)
  absent : Absent e (d.groupOf n) n

theorem Device.endInTest_spec (d : Device) (n : NestId) (r : UnitRecord) :
    EndedInTest d (d.endInTest n r) n r := by
  have hu := d.unpin_spec r.bank
  have hs := Device.leaveArbiter_startsOnly (d.unpin r.bank) n
  have hl := Device.leaveArbiter_self (d.unpin r.bank) n
  have hnest : ∀ m, (d.unpin r.bank).nest m = d.nest m := fun m => by rw [hu.frame]; rfl
  have hgo : (d.unpin r.bank).groupOf n = d.groupOf n := by rw [hu.frame]; rfl
  refine ⟨?_, ⟨_, hu, ?_, ?_⟩, ?_, fun m => ?_, ?_⟩
  · have h1 := hs.frame
    have h2 := hu.frame
    simp only [Device.endInTest]
    generalize (d.unpin r.bank).leaveArbiter n = f at h1 ⊢
    generalize d.unpin r.bank = u at h1 h2
    cases d; cases u; cases f
    simp_all
  · simp only [Device.endInTest]; rw [hs.frame]
  · simp only [Device.endInTest]; rw [hs.frame]
  · rw [Device.endInTest, hl.2, hnest]
  · have := hs.nests m
    rw [hnest] at this
    exact this
  · rw [← hgo]; exact hl.1

/-! ## Discard and early end (R24, R25) -/

/-- A discard ends a unit: what can differ before the nest is left. -/
theorem Device.discardUnit_spec (d : Device) (n : NestId) (r : UnitRecord) :
    ∃ e, EndedInTest (({ d with labels := { d.labels with
          waitQueue := d.labels.waitQueue.filter fun m => decide (m ≠ n) } }).freeChain r.chain) e n r
      ∧ d.discardUnit n r = e.count n fun c => { c with discarded := c.discarded + 1 } :=
  ⟨_, Device.endInTest_spec _ n r, rfl⟩

/-- Where a unit's end takes a nest depends on the fixture lines and the loopback flag alone. -/
theorem Device.afterUnit_congr {d e : Device} {n : NestId} (hf : e.fixture = d.fixture)
    (hl : (e.nest n).loopback = (d.nest n).loopback) : e.afterUnit n = d.afterUnit n := by
  have ht : ∀ l, e.taken n l = d.taken n l := fun l => by simp only [Device.taken, hf]
  simp only [Device.afterUnit, Device.afterRelease, hl, ht]

/-- The nest after an early end (R24). -/
theorem Device.afterEnd_spec (d : Device) (n : NestId) (cause : FailureClass) :
    ∃ y a, d.afterEnd n cause = { d.setNest n y with notices := a }
      ∧ Exited (d.nest n) y (if cause = .link then .fault else d.afterUnit n) := by
  by_cases h : cause = .link
  · obtain ⟨y, hy, hx⟩ := d.enterFault_exits n
    exact ⟨y, _, by simp only [Device.afterEnd, h, if_true]; rw [hy]; rfl, by simpa [h] using hx⟩
  · obtain ⟨y, hy, hx⟩ := d.exitTest_exits n
    exact ⟨y, _, by simp only [Device.afterEnd, if_neg h]; exact hy, by simpa [h] using hx⟩

/-- The nest of a unit that ends early, before its label: silent, with FIXTURE_FAIL where the cause is FIXTURE. -/
def Nest.endingEarly (x : Nest) (cause : FailureClass) : Nest :=
  { x with
    history := if cause = .fixture then addEvent x.history .fixtureFail else x.history
    tone := { x.tone with mode := .silent, timer := 0, inTolerance := 0, intervals := 0, sense := [], pilot := [] }
    engine := { window := none, closed := 0 } }

theorem Device.earlyEnd_eq {d : Device} {n : NestId} {r : UnitRecord} (cause : FailureClass)
    (hr : (d.nest n).record = some r) :
    d.earlyEnd n cause
      = (if d.labels.hasFree then
          (((d.setNest n ((d.nest n).endingEarly cause)).postLabel n
            (earlyEndLabel d.labels.counter n { r with failures := addFailure r.failures cause }) none).freeChain
              r.chain).endInTest n { r with failures := addFailure r.failures cause }
        else (d.setNest n ((d.nest n).endingEarly cause)).discardUnit n
          { r with failures := addFailure r.failures cause }).afterEnd n cause := by
  have h0 : (if cause = .fixture then d.addHistory n .fixtureFail else d).silence n
      = d.setNest n ((d.nest n).endingEarly cause) := by
    by_cases h : cause = .fixture <;> simp [h, Device.addHistory_eq, Device.silence_eq, Nest.endingEarly]
  simp only [Device.earlyEnd, hr, h0]
  rfl

/-- An early end with a free ring entry (R24, R98). -/
theorem Device.earlyEnd_labels {d : Device} {n : NestId} {r : UnitRecord} (cause : FailureClass)
    (hr : (d.nest n).record = some r) (hf : d.labels.posted < 64) :
    EndedWithLabel d (d.earlyEnd n cause) n r cause
    ∧ ((d.earlyEnd n cause).nest n).state = (if cause = .link then .fault else d.afterUnit n)
    ∧ ((d.earlyEnd n cause).nest n).tone.mode = .silent
    ∧ ((d.earlyEnd n cause).nest n).history = addEvent ((d.nest n).endingEarly cause).history .labelled := by
  have hfree : d.labels.hasFree = true := by simp [LabelUnit.hasFree, hf]
  rw [Device.earlyEnd_eq cause hr, if_pos hfree]
  have hp := Device.postLabel_spec (d.setNest n ((d.nest n).endingEarly cause)) n
    (earlyEndLabel d.labels.counter n { r with failures := addFailure r.failures cause }) none
  generalize hP : (d.setNest n ((d.nest n).endingEarly cause)).postLabel n
    (earlyEndLabel d.labels.counter n { r with failures := addFailure r.failures cause }) none = P at hp ⊢
  have he := Device.endInTest_spec (P.freeChain r.chain) n { r with failures := addFailure r.failures cause }
  generalize hE : (P.freeChain r.chain).endInTest n { r with failures := addFailure r.failures cause } = E at he ⊢
  obtain ⟨y, a, hy, hx⟩ := Device.afterEnd_spec E n cause
  rw [hy]
  obtain ⟨u, hu, hut, _⟩ := he.pin
  have hEn : E.nest n = { P.nest n with record := (P.nest n).record.map fun r => { r with sub := .none } } := he.self
  have hPn := hp.nest_same
  rw [Device.nest_setNest_same] at hPn
  have hEf : E.fixture = d.fixture := by rw [he.frame]; simp only [Device.freeChain]; rw [hp.frame]; rfl
  have hEl : (E.nest n).loopback = (d.nest n).loopback := by rw [hEn, hPn]; rfl
  have hlive : E.yields = P.yields := by rw [he.frame]; rfl
  refine ⟨⟨?_, ?_, ?_, ?_, ?_, ?_, ?_, ?_, ?_, ?_, ?_, ?_, ?_⟩, ?_, ?_, ?_⟩
  · show E.labels = _
    rw [he.frame]; show P.labels = _; rw [hp.labels]; rfl
  · show E.pool = _
    rw [he.frame]
    show (P.freeChain r.chain).pool = _
    have : P.pool = d.pool := by rw [hp.frame]; rfl
    simp only [Device.freeChain, CapturePool.freeChain, this]
  · show (E.tables.bank r.bank).pins = _
    rw [hut, hu.pins]
    have : (P.freeChain r.chain).tables = d.tables := by show P.tables = _; rw [hp.frame]; rfl
    rw [this]
  · show E.yields.live[n] = _
    rw [hlive, hp.yields]; simp [Counters.countLabel_eq, earlyEndLabel]
  · show ((E.setNest n y).nest n).record = _
    rw [Device.nest_setNest_same]; exact hx.record
  · show E.nestPort = _; rw [he.frame]; show P.nestPort = _; rw [hp.frame]; rfl
  · show E.controllerPort = _; rw [he.frame]; show P.controllerPort = _; rw [hp.frame]; rfl
  · exact hEf
  · show E.groupMap = _; rw [he.frame]; show P.groupMap = _; rw [hp.frame]; rfl
  · show E.yields.snapshot = _; rw [hlive, hp.yields]; rfl
  · show E.yields.number = _; rw [hlive, hp.yields]; rfl
  · intro m hm
    show E.yields.live[m] = _
    rw [hlive]; exact hp.live_ne hm
  · intro m hm
    show SameButStart (d.nest m) ((E.setNest n y).nest m)
    rw [Device.nest_setNest_ne _ _ hm]
    have h1 := he.others m
    have h2 : (P.freeChain r.chain).nest m = d.nest m := by
      show P.nest m = _
      rw [hp.nest_ne hm, Device.nest_setNest_ne _ _ hm]
    rw [h2] at h1; exact h1
  · show ((E.setNest n y).nest n).state = _
    rw [Device.nest_setNest_same, hx.state, Device.afterUnit_congr hEf hEl]
  · show ((E.setNest n y).nest n).tone.mode = _
    rw [Device.nest_setNest_same, hx.tone, hEn, hPn]; rfl
  · show ((E.setNest n y).nest n).history = _
    rw [Device.nest_setNest_same, hx.history, hEn, hPn]

/-- A discard, before the nest is left (R25). -/
theorem Device.discardUnit_discards {d : Device} {n : NestId} {r : UnitRecord}
    {st : NestState} {y : Nest} {a : NoticeArbiter} (hx : Exited ((d.discardUnit n r).nest n) y st) :
    Discarded d { (d.discardUnit n r).setNest n y with notices := a } n r := by
  obtain ⟨E, he, hE⟩ := Device.discardUnit_spec d n r
  obtain ⟨u, hu, hut, _⟩ := he.pin
  have hy' : E.yields = d.yields := by rw [he.frame]; rfl
  rw [hE]
  refine ⟨?_, ?_, ?_, ?_, ?_, ?_, ?_, ?_, ?_, ?_, ?_, ?_, ?_, ?_⟩
  · show E.labels = _; rw [he.frame]; rfl
  · show E.pool = _; rw [he.frame]; rfl
  · show (E.tables.bank r.bank).pins = _; rw [hut, hu.pins]; rfl
  · have h := Device.count_live_same E n fun c => { c with discarded := c.discarded + 1 }
    refine Eq.trans h ?_
    rw [hy']; rfl
  · show E.calibration = _; rw [he.frame]; rfl
  · exact (congrArg Nest.record (Device.nest_setNest_same _ n y)).trans hx.record
  · show E.nestPort = _; rw [he.frame]; rfl
  · show E.controllerPort = _; rw [he.frame]; rfl
  · show E.fixture = _; rw [he.frame]; rfl
  · show E.groupMap = _; rw [he.frame]; rfl
  · show E.yields.snapshot = _; rw [he.frame]; rfl
  · show E.yields.number = _; rw [he.frame]; rfl
  · intro m hm
    have h := Device.count_live_ne E (fun c => { c with discarded := c.discarded + 1 }) hm
    exact Eq.trans h (by rw [hy'])
  · intro m hm
    have h := Device.nest_setNest_ne (E.count n fun c => { c with discarded := c.discarded + 1 }) y hm
    have k : SameButStart (d.nest m) (E.nest m) := he.others m
    exact (show _ = E.nest m from h) ▸ k

/-- An early end with no ring entry free is a discard (R24, R25). -/
theorem Device.earlyEnd_discards {d : Device} {n : NestId} {r : UnitRecord} (cause : FailureClass)
    (hr : (d.nest n).record = some r) (hf : 64 ≤ d.labels.posted) :
    Discarded d (d.earlyEnd n cause) n r
    ∧ ((d.earlyEnd n cause).nest n).state = (if cause = .link then .fault else d.afterUnit n)
    ∧ ((d.earlyEnd n cause).nest n).tone.mode = .silent
    ∧ ((d.earlyEnd n cause).nest n).history = ((d.nest n).endingEarly cause).history := by
  have hfree : ¬d.labels.hasFree = true := by simp [LabelUnit.hasFree, hf]
  rw [Device.earlyEnd_eq cause hr, if_neg hfree]
  obtain ⟨E, he, hE⟩ := Device.discardUnit_spec (d.setNest n ((d.nest n).endingEarly cause)) n
    { r with failures := addFailure r.failures cause }
  obtain ⟨y, a, hy, hx⟩ := Device.afterEnd_spec ((d.setNest n ((d.nest n).endingEarly cause)).discardUnit n
    { r with failures := addFailure r.failures cause }) n cause
  have hd := Device.discardUnit_discards (a := a) hx
  have hnest : ((d.setNest n ((d.nest n).endingEarly cause)).discardUnit n
      { r with failures := addFailure r.failures cause }).nest n
      = { (d.nest n).endingEarly cause with
          record := ((d.nest n).endingEarly cause).record.map fun r => { r with sub := .none } } := by
    rw [hE]; show E.nest n = _; rw [he.self]
    exact congrArg (fun z : Nest => { z with record := z.record.map (fun q : UnitRecord => { q with sub := .none }) })
      (Device.nest_setNest_same d n ((d.nest n).endingEarly cause))
  have hfix : ((d.setNest n ((d.nest n).endingEarly cause)).discardUnit n
      { r with failures := addFailure r.failures cause }).fixture = d.fixture := by
    rw [hE]; show E.fixture = _; rw [he.frame]; rfl
  rw [hy]
  refine ⟨?_, ?_, ?_, ?_⟩
  · obtain ⟨h1, h2, h3, h4, h5, h6, h7, h8, h9, h10, h11, h12, h13, h14⟩ := hd
    refine ⟨h1, h2, h3, h4, h5, h6, h7, h8, h9, h10, h11, h12, h13, fun m hm => ?_⟩
    have := h14 m hm
    rw [Device.nest_setNest_ne _ _ hm] at this
    exact this
  · refine Eq.trans (congrArg Nest.state (Device.nest_setNest_same _ n y)) ?_
    rw [hx.state, Device.afterUnit_congr hfix (by rw [hnest]; rfl)]
  · refine Eq.trans (congrArg (fun z : Nest => z.tone.mode) (Device.nest_setNest_same _ n y)) ?_
    simp only [hx.tone, hnest]; rfl
  · refine Eq.trans (congrArg Nest.history (Device.nest_setNest_same _ n y)) ?_
    simp only [hx.history, hnest]

end Sys2Proof.Machine
end

