-- ==== Sys2Proof/Laws/Stages.lean ====
section
/-! SUPPORT. The stages of a unit: entering JUDGING, the quiet check and the sweep (R16, R48, R61, R62). -/

namespace Sys2Proof.Machine

/-! ## Changes of one stage -/

theorem StartsOnly.stageOnly {d e : Device} {n : NestId} (h : StartsOnly d e) : StageOnly d e n :=
  ⟨h.frame, fun m _ => h.nests m⟩

theorem StageOnly.trans {d e f : Device} {n : NestId} (h : StageOnly d e n) (k : StageOnly e f n) : StageOnly d f n := by
  refine ⟨?_, fun m hm => (h.2 m hm).trans (k.2 m hm)⟩
  have := k.1
  rw [h.1] at this
  exact this

theorem Device.setNest_stageOnly (d : Device) (n : NestId) (x : Nest) : StageOnly d (d.setNest n x) n :=
  ⟨rfl, fun m hm => by rw [Device.nest_setNest_ne _ _ hm]; exact SameButStart.refl _⟩

/-- A change of nest `n` alone before a change of starts is a change of one stage. -/
theorem StageOnly.of_setNest {d e : Device} {n : NestId} {x : Nest} (h : StageOnly (d.setNest n x) e n) :
    StageOnly d e n := (d.setNest_stageOnly n x).trans h

theorem EnteredJudging.of_setNest {d e : Device} {n : NestId} {x : Nest} {r : UnitRecord} {f : FailureSet}
    {h : HistorySet} (k : EnteredJudging (d.setNest n x) e n r f h) : EnteredJudging d e n r f h := by
  obtain ⟨h1, h2, h3, h4, h5, h6, h7, h8⟩ := k
  exact ⟨h1, h2, h3, h4, h5, h6, h7, h8.of_setNest⟩

/-- The tables a stage reads are those before it. -/
theorem StageOnly.tables {d e : Device} {n : NestId} (h : StageOnly d e n) : e.tables = d.tables := by rw [h.1]
theorem StageOnly.groupMap {d e : Device} {n : NestId} (h : StageOnly d e n) : e.groupMap = d.groupMap := by rw [h.1]

/-! ## Entering JUDGING (R16) -/

theorem Device.enterJudging_spec {d : Device} {n : NestId} {r : UnitRecord} (hr : (d.nest n).record = some r) :
    EnteredJudging d (d.enterJudging n) n r r.failures (d.nest n).history := by
  have he : d.enterJudging n = (d.setNest n { d.nest n with
      state := .judging
      judgeTimer := 0
      tone := { (d.nest n).tone with mode := .silent, timer := 0, inTolerance := 0, intervals := 0, sense := [], pilot := [] }
      engine := { window := none, closed := 0 } }).leaveArbiter n := by
    simp [Device.enterJudging, Device.silence_eq, Device.modNest_eq]
  rw [he]
  have hs := Device.leaveArbiter_startsOnly (d.setNest n { d.nest n with
      state := .judging
      judgeTimer := 0
      tone := { (d.nest n).tone with mode := .silent, timer := 0, inTolerance := 0, intervals := 0, sense := [], pilot := [] }
      engine := { window := none, closed := 0 } }) n
  obtain ⟨ha, hn⟩ := Device.leaveArbiter_self (d.setNest n { d.nest n with
      state := .judging
      judgeTimer := 0
      tone := { (d.nest n).tone with mode := .silent, timer := 0, inTolerance := 0, intervals := 0, sense := [], pilot := [] }
      engine := { window := none, closed := 0 } }) n
  rw [Device.nest_setNest_same] at hn
  refine ⟨by rw [hn], by rw [hn], by rw [hn], ?_, ha.holder, ha.queue, ha.quiet, hs.stageOnly.of_setNest⟩
  rw [hn]; simp [hr]

/-- A stage that ends toward JUDGING with a failure class and an event (Table 1-5). -/
theorem Device.failStage_spec {d : Device} {n : NestId} {r : UnitRecord} (c : FailureClass) (e : HistoryEvent)
    (hr : (d.nest n).record = some r) :
    EnteredJudging d (d.failStage n c e) n r (addFailure r.failures c) (addEvent (d.nest n).history e) := by
  have he : d.failStage n c e = (d.setNest n { d.nest n with
      history := addEvent (d.nest n).history e
      record := (d.nest n).record.map fun r => { r with failures := addFailure r.failures c } }).enterJudging n := by
    simp [Device.failStage, Device.addFailureTo_eq, Device.addHistory_eq]
  rw [he]
  have h := Device.enterJudging_spec (d := d.setNest n { d.nest n with
      history := addEvent (d.nest n).history e
      record := (d.nest n).record.map fun r => { r with failures := addFailure r.failures c } }) (n := n)
      (r := { r with failures := addFailure r.failures c }) (by simp [hr])
  rw [Device.nest_setNest_same] at h
  exact h.of_setNest

/-! ## The quiet start (R55, R61) -/

/-- A quiet start is granted at once or waits in the queue of its group. -/
theorem Device.presentStart_quiet {d : Device} {n : NestId} {r : UnitRecord} (hs : (d.nest n).state = .quietCheck)
    (hr : (d.nest n).record = some r) :
    let e := d.presentStart n
    StartsOnly d e ∧ (e.nest n).tone = (d.nest n).tone
    ∧ (((e.nest n).record = some { r with sub := .measuring } ∧ (e.group (d.groupOf n)).holder = some n)
      ∨ ((e.nest n).record = some { r with sub := .waitPermit } ∧ n ∈ (e.group (d.groupOf n)).queue)) := by
  have hc : d.startClass n = .quiet := by simp [Device.startClass, hr, hs]
  intro e
  refine ⟨Device.presentStart_startsOnly d n, ?_⟩
  have he : e = ((d.setSub n .waitPermit).modGroup (d.groupOf n) fun x =>
      { x with queue := x.queue ++ [n] }).grantTest (d.groupOf n) := by
    simp only [e, Device.presentStart, hc]
  rw [he]
  have hnest : ((d.setSub n .waitPermit).modGroup (d.groupOf n) fun x =>
      { x with queue := x.queue ++ [n] }).nest n = { d.nest n with record := some { r with sub := .waitPermit } } := by
    simp [Device.setSub_eq, hr]
  have hq : (((d.setSub n .waitPermit).modGroup (d.groupOf n) fun x =>
      { x with queue := x.queue ++ [n] }).group (d.groupOf n)).queue = (d.group (d.groupOf n)).queue ++ [n] := by
    simp [Device.setSub_eq]
  rcases Device.grantTest_cases ((d.setSub n .waitPermit).modGroup (d.groupOf n) fun x =>
      { x with queue := x.queue ++ [n] }) (d.groupOf n) with h | ⟨m, rest, _, hm, h⟩
  · rw [h, hnest, hq]
    exact ⟨rfl, Or.inr ⟨rfl, by simp⟩⟩
  · rw [h]
    have hg := Device.beginStart_group ((((d.setSub n .waitPermit).modGroup (d.groupOf n) fun x =>
      { x with queue := x.queue ++ [n] })).modGroup (d.groupOf n) fun x => { x with holder := some m, queue := rest })
      m (d.groupOf n)
    by_cases hmn : m = n
    · subst hmn
      rw [Device.beginStart_nest_same, Device.modGroup_nest, hnest]
      refine ⟨?_, Or.inl ⟨?_, ?_⟩⟩
      · simp [Nest.started, hs]
      · simp [Nest.started, hs]
      · rw [hg.1]; simp
    · rw [Device.beginStart_nest_ne _ (fun e => hmn e.symm), Device.modGroup_nest, hnest]
      refine ⟨rfl, Or.inr ⟨rfl, ?_⟩⟩
      rw [hg.2.1, Device.modGroup_group_same]
      rw [hq] at hm
      have : n ∈ m :: rest := by rw [← hm]; simp
      rcases List.mem_cons.mp this with h | h
      · exact absurd h.symm hmn
      · exact h

/-- QUIET_CHECK is entered from a locked pilot (R61). -/
theorem Device.enterQuietCheck_spec {d : Device} {n : NestId} {r : UnitRecord} (hr : (d.nest n).record = some r) :
    let e := d.enterQuietCheck n
    (e.nest n).state = .quietCheck ∧ (e.nest n).tone.mode = .silent ∧ (e.nest n).history = (d.nest n).history
    ∧ (∃ sub, (e.nest n).record = some { r with quietAttempts := 0, sub := sub }) ∧ StageOnly d e n := by
  intro e
  have hl := Device.leaveArbiter_startsOnly (d.silence n) n
  obtain ⟨_, hln⟩ := Device.leaveArbiter_self (d.silence n) n
  rw [Device.silence_eq, Device.nest_setNest_same] at hln
  -- the nest as it stands when its quiet start is presented
  let y : Nest := { (d.nest n) with
    state := .quietCheck
    tone := { (d.nest n).tone with mode := .silent, timer := 0, inTolerance := 0, intervals := 0, sense := [], pilot := [] }
    engine := { window := none, closed := 0 }
    record := some { r with sub := .none, quietAttempts := 0 } }
  rw [← Device.silence_eq] at hln
  have he : e = (((d.silence n).leaveArbiter n).setNest n y).presentStart n := by
    simp only [e, Device.enterQuietCheck, Device.modRecord_eq, Device.setState_eq, Device.setNest_setNest,
      Device.nest_setNest_same]
    rw [hln, hr]
    rfl
  obtain ⟨h1, h2, h3⟩ := Device.presentStart_quiet (d := ((d.silence n).leaveArbiter n).setNest n y) (n := n)
    (r := { r with sub := .none, quietAttempts := 0 }) (by simp [y]) (by simp [y])
  rw [← he] at h1 h2 h3
  have hn := h1.nests n
  rw [Device.nest_setNest_same] at hn h2
  refine ⟨hn.state, by rw [h2], hn.history, ?_, ?_⟩
  · rcases h3 with ⟨h, _⟩ | ⟨h, _⟩ <;> exact ⟨_, h⟩
  · refine StageOnly.trans ?_ h1.stageOnly.of_setNest
    rw [Device.silence_eq] at hl
    exact hl.stageOnly.of_setNest

/-- SWEEPING is entered, and the segment at the cursor presented (R42). -/
theorem Device.enterSweeping_spec {d : Device} {n : NestId} {r : UnitRecord} (hr : (d.nest n).record = some r) :
    let e := d.enterSweeping n
    (e.nest n).state = .sweeping ∧ (e.nest n).history = (d.nest n).history
    ∧ (∃ sub, (e.nest n).record = some { r with sub := sub }) ∧ StageOnly d e n := by
  intro e
  have hs := Device.presentStart_startsOnly (d.setNest n { d.nest n with state := .sweeping }) n
  have hn := hs.nests n
  rw [Device.nest_setNest_same] at hn
  exact ⟨hn.state, hn.history, hn.record_some hr, hs.stageOnly.of_setNest⟩

end Sys2Proof.Machine
end

