-- ==== Sys2Proof/Laws/Analysis.lean ====
section
/-! SUPPORT. The sums a window keeps, the Ambient Guard, the mapping and folding of a window, and the band tests (R61 to
R63, R73, R82 to R85, R92). -/

namespace Sys2Proof.Machine

/-! ## The delayed sample of the quiet check (R61) -/

@[simp] theorem Device.nestFrame_past (d : Device) (f : Option NestFrame) (n : NestId) :
    (d.nestFrame f).nestPort.past[n] = ((d.nestFrame f).nestPort.mic[n] :: d.nestPort.past[n]).take 480 := by
  simp [Device.nestFrame]

@[simp] theorem NestPort.delayedMic_zero (p : NestPort) (n : NestId) (mic : Sample) : p.delayedMic n mic 0 = mic := rfl
@[simp] theorem NestPort.delayedMic_succ (p : NestPort) (n : NestId) (mic : Sample) (k : Nat) :
    p.delayedMic n mic (k + 1) = (p.past[n][k]?).getD 0 := rfl

/-- The window of the quiet check takes one sample each frame; elsewhere its sums stand. -/
theorem Nest.quietAfterFrame_sums (x : Nest) (r : UnitRecord) (v : Sample) :
    (x.quietAfterFrame r v).quietCount = (if r.sub = .measuring then x.quietCount + 1 else x.quietCount)
    ∧ (x.quietAfterFrame r v).quietSquares
      = (if r.sub = .measuring then x.quietSquares + sampleSquare v else x.quietSquares)
    ∧ (x.quietAfterFrame r v).stageTimer
      = if r.sub = .measuring ∨ r.sub = .retryWait then x.stageTimer + 1 else x.stageTimer := by
  simp only [Nest.quietAfterFrame]
  split <;> simp_all

/-! ## The Ambient Guard (R63) -/

/-- A level is above a limit, in whole numbers. -/
theorem AmbientLevel.exceeds_iff (a : AmbientLevel) (limit : Int) :
    a.exceeds limit = true ↔ (a.count * 32767 ^ 2) ^ 100 < (2 * a.squares) ^ 100 * 10 ^ (-limit).toNat := by
  simp only [AmbientLevel.exceeds, levelWithin, Bool.not_eq_true', decide_eq_false_iff_not, Nat.not_le]

/-- A window of a nest in loopback is never void. -/
theorem Device.windowIsVoid_loopback {d : Device} {n : NestId} (h : (d.nest n).loopback = true) (r : UnitRecord) :
    d.windowIsVoid n r = false := by simp [Device.windowIsVoid, h]

/-- The guard writes its two fields of the nest's group and nothing else. -/
theorem Device.guardWindow_frame (d : Device) (n : NestId) (a : AmbientLevel) (b : Bool) :
    d.guardWindow n a b = { d with groups := (d.guardWindow n a b).groups }
    ∧ ∀ g, (d.guardWindow n a b).group g = { d.group g with
        ambientLevel := ((d.guardWindow n a b).group g).ambientLevel
        windowVoid := ((d.guardWindow n a b).group g).windowVoid } := by
  simp only [Device.guardWindow]
  split
  · exact ⟨rfl, fun _ => rfl⟩
  · refine ⟨rfl, fun g => ?_⟩
    by_cases h : g = d.groupOf n
    · subst h; rw [Device.modGroup_group_same]
    · rw [Device.modGroup_group_ne _ _ h]

@[simp] theorem Device.guardWindow_nest (d : Device) (n m : NestId) (a : AmbientLevel) (b : Bool) :
    (d.guardWindow n a b).nest m = d.nest m := by simp only [Device.guardWindow]; split <;> rfl
@[simp] theorem Device.guardWindow_tables (d : Device) (n : NestId) (a : AmbientLevel) (b : Bool) :
    (d.guardWindow n a b).tables = d.tables := by rw [(d.guardWindow_frame n a b).1]
@[simp] theorem Device.guardWindow_pool (d : Device) (n : NestId) (a : AmbientLevel) (b : Bool) :
    (d.guardWindow n a b).pool = d.pool := by rw [(d.guardWindow_frame n a b).1]

/-- The ambient level of a driven window is the least that a mixture of the tones left out leaves of its samples. -/
theorem Nest.ambientLevel_driven (x : Nest) (h : PlanHeader) {s : Segment} (hs : s.kind ≠ .silence) :
    ∃ e, (x.ambientLevel h s).squares = e.floor.toNat
      ∧ LeastLeft (sampleRow x.ambientSamples)
        (excludedWaves (driveRange h s x.engine.closed).1 (driveRange h s x.engine.closed).2 x.ambientSamples.length) e := by
  obtain ⟨e, he, hq⟩ := excludedSquares_least (driveRange h s x.engine.closed).1 (driveRange h s x.engine.closed).2
    x.ambientSamples
  refine ⟨e, ?_, he⟩
  rw [← hq, Nest.ambientLevel]
  cases hk : s.kind <;> simp_all

/-! ## What the samples carry (section 4.2, R79) -/

theorem Nest.windowSignal_eq (x : Nest) :
    x.windowSignal = if x.loopback then .drive else if ∀ v ∈ x.windowSamples, v = 0 then .none else .sound := by
  simp [Nest.windowSignal]

theorem Nest.windowSignal_sound (x : Nest) :
    x.windowSignal = .sound ↔ x.loopback = false ∧ ∃ v ∈ x.windowSamples, v ≠ 0 := by
  rw [Nest.windowSignal_eq]
  by_cases hl : x.loopback = true <;> simp_all

/-- The held fundamental level: of the drive in loopback, its floor without a signal, the measured one otherwise. -/
theorem Nest.heldFundamental_eq (x : Nest) (applied : Int) (m : Measures) :
    heldFundamental x.windowSignal applied m
      = max (-1200) (min 0 (if x.loopback then applied
          else if ∀ v ∈ x.windowSamples, v = 0 then -1200 else m.fundamental)) := by
  rw [Nest.windowSignal_eq]
  split
  · rfl
  · split <;> rfl

/-- The buzz ratio of a SILENCE window: the lowest in loopback and without a signal. -/
theorem Nest.silenceBuzz_eq (x : Nest) (applied : Int) (m : Measures) :
    silenceBuzz x.windowSignal applied m
      = if x.loopback = true ∨ ∀ v ∈ x.windowSamples, v = 0 then -1200
        else max (-1200) (min 400 (m.residueLevel - applied)) := by
  rw [Nest.windowSignal_eq]
  split
  · rw [if_pos (Or.inl ‹_›)]; rfl
  · split
    · rw [if_pos (Or.inr ‹_›)]; rfl
    · rw [if_neg (by simp_all)]; rfl

/-! ## Mapping (R73, R82) -/

theorem Plan.mem_bandIds (p : Plan) (i : BandId) : i ∈ p.bandIds ↔ i.val < p.header.bandCount := by
  simp [Plan.bandIds, List.mem_finRange]

theorem Band.contains_iff (b : Band) (f : Nat) : b.contains f = true ↔ b.lower ≤ f ∧ f < b.upper := by
  simp [Band.contains]

/-- The band of a frequency is one of the plan's and holds it. -/
theorem Plan.bandAt_some {p : Plan} {f : Nat} {b : BandId} (h : p.bandAt f = some b) :
    b ∈ p.bandIds ∧ p.bands[b].contains f = true :=
  ⟨List.mem_of_find?_eq_some h, List.find?_some (p := fun i : BandId => p.bands[i].contains f) h⟩

theorem Plan.bandAt_none {p : Plan} {f : Nat} : p.bandAt f = none ↔ ∀ b ∈ p.bandIds, p.bands[b].contains f = false := by
  simp [Plan.bandAt, List.find?_eq_none]

/-- A SILENCE window with an empty residue, or without a reference, feeds no band. -/
theorem silenceBands_eq (p : Plan) (before : Option Segment) :
    silenceBands p before
      = if (silenceFeeds p before).1.any (fun f => !residueEmpty f) then (silenceFeeds p before).2 else [] := by
  simp only [silenceBands]
  cases h : silenceFeeds p before with
  | mk o bands =>
    cases o with
    | none => rfl
    | some f => cases hf : residueEmpty f <;> simp [hf]

/-! ## Folding (R83) -/

theorem foldMin_eq (e : Option Int) (v : Int) : foldMin e v = some (min v (e.getD v)) := by
  cases e <;> simp [foldMin, min_comm]
theorem foldMax_eq (e : Option Int) (v : Int) : foldMax e v = some (max v (e.getD v)) := by
  cases e <;> simp [foldMax, max_comm]
theorem foldMaxNat_eq (e : Option Nat) (v : Nat) : foldMaxNat e v = some (max v (e.getD v)) := by
  cases e <;> simp [foldMaxNat, max_comm]

/-- A window with a residue moves every extreme, one without leaves buzz and crest; a full count stands. -/
theorem Accumulator.fold_folded (a : Accumulator) (v : DrivenValues) (residue : Option (Int × Int))
    (hb : v.buzz = residue.map Prod.fst) (hc : v.crest = residue.map Prod.snd) :
    Folded a (a.fold v) v.response v.uncorrected v.distortion residue := by
  refine ⟨foldMin_eq _ _, foldMax_eq _ _, foldMaxNat_eq _ _, ?_, ?_, ?_, ?_⟩
  · rintro rfl; simp [Accumulator.fold, hb, hc, foldMaxOpt]
  · rintro b c rfl; simp [Accumulator.fold, hb, hc, foldMaxOpt, foldMax_eq]
  · intro h; simp [Accumulator.fold, h]
  · intro h; simp [Accumulator.fold, Nat.not_lt.mpr h]

/-! ## The Judge (R85, R92) -/

theorem mem_measuredBands (p : Plan) (r : UnitRecord) (i : BandId) : i ∈ measuredBands p r ↔ Measured p r i := by
  simp [measuredBands, Measured, Plan.mem_bandIds]

/-- The tests made for a band are those of Table 4-5. -/
theorem mem_bandTests (b : Band) (a : Accumulator) (t : BandTest) :
    t ∈ bandTests b a ↔ TestMade b a t.cls t.failed t.margin := by
  obtain ⟨c, f, m⟩ := t
  simp only [bandTests, TestMade, List.mem_append, Option.mem_toList, Option.map_eq_some_iff,
    BandTest.mk.injEq]
  constructor
  · rintro ((((⟨v, h, h1, h2, h3⟩ | ⟨v, h, h1, h2, h3⟩) | ⟨v, h, h1, h2, h3⟩) | ⟨v, h, h1, h2, h3⟩)
      | ⟨v, h, h1, h2, h3⟩)
    · exact Or.inl ⟨h1.symm, v, h, h2.symm, h3.symm⟩
    · exact Or.inr (Or.inl ⟨h1.symm, v, h, h2.symm, h3.symm⟩)
    · exact Or.inr (Or.inr (Or.inl ⟨h1.symm, v, h, h2.symm, h3.symm⟩))
    · exact Or.inr (Or.inr (Or.inr (Or.inl ⟨h1.symm, v, h, h2.symm, h3.symm⟩)))
    · exact Or.inr (Or.inr (Or.inr (Or.inr ⟨h1.symm, v, h, h2.symm, h3.symm⟩)))
  · rintro (⟨h1, v, h, h2, h3⟩ | ⟨h1, v, h, h2, h3⟩ | ⟨h1, v, h, h2, h3⟩ | ⟨h1, v, h, h2, h3⟩ | ⟨h1, v, h, h2, h3⟩)
    · exact Or.inl (Or.inl (Or.inl (Or.inl ⟨v, h, h1.symm, h2.symm, h3.symm⟩)))
    · exact Or.inl (Or.inl (Or.inl (Or.inr ⟨v, h, h1.symm, h2.symm, h3.symm⟩)))
    · exact Or.inl (Or.inl (Or.inr ⟨v, h, h1.symm, h2.symm, h3.symm⟩))
    · exact Or.inl (Or.inr ⟨v, h, h1.symm, h2.symm, h3.symm⟩)
    · exact Or.inr ⟨v, h, h1.symm, h2.symm, h3.symm⟩

/-- The selected entry accepts the set. -/
theorem selectEntry_some {rows : BankRows} {f : FailureSet} {i : Fin 16} (h : selectEntry rows f = some i) :
    rows.verdicts[i].accepts f = true :=
  List.find?_some (p := fun i : Fin 16 => rows.verdicts[i].accepts f) h

theorem selectEntry_none {rows : BankRows} {f : FailureSet} :
    selectEntry rows f = none ↔ ∀ i : Fin 16, rows.verdicts[i].accepts f = false := by
  simp [selectEntry, List.find?_eq_none, List.mem_finRange]

end Sys2Proof.Machine
end

