-- ==== Sys2Proof/Laws/Lock.lean ====
section
/-! SUPPORT. The level lock: levels of a component and their order, the move of the gain, and what the end of an interval
does (R35, R38, R39; log 26). -/

namespace Sys2Proof.Machine

/-! ## The component of an interval -/

theorem componentPower_square (f : Nat) (samples : List Sample) :
    ComponentSquare f samples (componentPower f samples) := by
  have h := leastLeft_fitTwo (v := sampleRow samples) (s := ToneRate.wave ⟨f, 96000⟩ 0 samples.length)
    (c := ToneRate.wave ⟨f, 96000⟩ (phaseTurn / 4) samples.length) (by simp) (by simp)
  exact ⟨_, _, _, _, by simp [ToneRate.wave], by simp [ToneRate.wave], h, rfl⟩

theorem componentPower_nonneg (f : Nat) (samples : List Sample) : 0 ≤ componentPower f samples := by
  unfold componentPower; positivity

/-! ## Levels -/

@[simp] theorem levelAtMost_iff {limit : Int} {square : ℚ} :
    levelAtMost limit square = true ↔ LevelAtMost limit square := by simp [levelAtMost, LevelAtMost]

@[simp] theorem levelAtLeast_iff {limit : Int} {square : ℚ} :
    levelAtLeast limit square = true ↔ LevelAtLeast limit square := by simp [levelAtLeast, LevelAtLeast]

/-- The two powers of ten of a limit are the one with its sign. -/
theorem ten_zpow (limit : Int) : (10 : ℚ) ^ limit * 10 ^ (-limit).toNat = 10 ^ limit.toNat := by
  rw [← zpow_natCast, ← zpow_natCast, ← zpow_add₀ (by norm_num)]
  congr 1
  omega

theorem levelAtMost_zpow {limit : Int} {square : ℚ} :
    LevelAtMost limit square ↔ square ^ 100 ≤ (32767 ^ 2) ^ 100 * (10 : ℚ) ^ limit := by
  rw [LevelAtMost, ← ten_zpow limit, ← mul_assoc, mul_le_mul_iff_left₀ (by positivity)]

theorem levelAtLeast_zpow {limit : Int} {square : ℚ} :
    LevelAtLeast limit square ↔ (32767 ^ 2) ^ 100 * (10 : ℚ) ^ limit ≤ square ^ 100 := by
  rw [LevelAtLeast, ← ten_zpow limit, ← mul_assoc, mul_le_mul_iff_left₀ (by positivity)]

/-- Limits of one level follow their order. -/
theorem LevelAtMost.mono {a b : Int} {square : ℚ} (h : LevelAtMost a square) (hab : a ≤ b) : LevelAtMost b square := by
  rw [levelAtMost_zpow] at h ⊢
  have := zpow_le_zpow_right₀ (by norm_num : (1 : ℚ) ≤ 10) hab
  exact h.trans (mul_le_mul_of_nonneg_left this (by positivity))

theorem LevelAtLeast.anti {a b : Int} {square : ℚ} (h : LevelAtLeast b square) (hab : a ≤ b) :
    LevelAtLeast a square := by
  rw [levelAtLeast_zpow] at h ⊢
  have := zpow_le_zpow_right₀ (by norm_num : (1 : ℚ) ≤ 10) hab
  exact (mul_le_mul_of_nonneg_left this (by positivity)).trans h

theorem LevelAtLeast.of_not_atMost {a : Int} {square : ℚ} (h : ¬ LevelAtMost a square) : LevelAtLeast a square := by
  rw [levelAtLeast_zpow]
  rw [levelAtMost_zpow] at h
  exact (not_le.mp h).le

/-! ## The move of the gain (R38) -/

theorem withinTolerance_iff {h : PlanHeader} {sense : ℚ} :
    withinTolerance h sense = true
      ↔ LevelAtLeast (h.senseTarget - h.lockTolerance) sense ∧ LevelAtMost (h.senseTarget + h.lockTolerance) sense := by
  simp [withinTolerance]

/-- The move is the difference of target and level, in whole steps of 0.1 dB, at most sixty of them. -/
theorem gainMove_moves (target : Int) (sense : ℚ) : GainMove target sense (gainMove target sense) := by
  constructor
  · intro h
    obtain ⟨h1, h2⟩ := largestWith_largest (p := fun m => levelAtMost (target - m) sense)
      (fun a b hab hb => by
        rw [levelAtMost_iff] at hb ⊢
        exact hb.mono (by omega)) 6 0 (by simpa using h)
    rw [levelAtMost_iff] at h1
    rw [gainMove, if_pos (levelAtMost_iff.mpr h)]
    generalize largestWith (fun m => levelAtMost (target - m) sense) 6 0 = m at h1 h2
    refine ⟨by omega, by omega, h1.mono (by omega), ?_⟩
    by_cases hm : 60 ≤ m
    · left; omega
    · refine .inr fun hc => ?_
      have hp := h2 (m + 1) (by omega) (levelAtMost_iff.mpr (by convert hc using 1; push_cast; omega))
      omega
  · intro h
    obtain ⟨h1, h2⟩ := largestWith_largest (p := fun m => levelAtLeast (target + m) sense)
      (fun a b hab hb => by
        rw [levelAtLeast_iff] at hb ⊢
        exact hb.anti (by omega)) 6 0 (by simpa using LevelAtLeast.of_not_atMost h)
    rw [levelAtLeast_iff] at h1
    rw [gainMove, if_neg (mt levelAtMost_iff.mp h)]
    generalize largestWith (fun m => levelAtLeast (target + m) sense) 6 0 = m at h1 h2
    refine ⟨by omega, by omega, h1.anti (by omega), ?_⟩
    by_cases hm : 60 ≤ m
    · left; omega
    · refine .inr fun hc => ?_
      have hp := h2 (m + 1) (by omega) (levelAtLeast_iff.mpr (by convert hc using 1; push_cast; omega))
      omega

/-! ## The end of an interval (R38, R39) -/

theorem ToneGenerator.afterInterval_in {t : ToneGenerator} {h : PlanHeader} {sense : ℚ}
    (hw : withinTolerance h sense = true) :
    t.afterInterval h sense
      = { t with inTolerance := t.inTolerance + 1, intervals := t.intervals + 1, sense := [], pilot := [] } :=
  if_pos hw

theorem ToneGenerator.afterInterval_out {t : ToneGenerator} {h : PlanHeader} {sense : ℚ}
    (hw : ¬ withinTolerance h sense = true) :
    t.afterInterval h sense
      = { t with
          inTolerance := 0
          intervals := t.intervals + 1
          sense := []
          pilot := []
          gain := movedGain t.gain (gainMove h.senseTarget sense) } :=
  if_neg hw

/-- Lock is reached at the third interval in tolerance, and not before. -/
theorem Device.lockInterval_reached {d : Device} {n : NestId} {h : PlanHeader}
    (hw : withinTolerance h (componentPower h.pilotFrequency (d.nest n).tone.sense) = true)
    (ht : 2 ≤ (d.nest n).tone.inTolerance) : d.lockInterval n h = d.lockReached n h := by
  simp [Device.lockInterval, hw, ht]

theorem Device.lockInterval_goes_on {d : Device} {n : NestId} {h : PlanHeader}
    (hw : withinTolerance h (componentPower h.pilotFrequency (d.nest n).tone.sense) = false
      ∨ (d.nest n).tone.inTolerance < 2) :
    d.lockInterval n h = d.setNest n
      { d.nest n with
        tone := (d.nest n).tone.afterInterval h (componentPower h.pilotFrequency (d.nest n).tone.sense) } := by
  have h0 : (withinTolerance h (componentPower h.pilotFrequency (d.nest n).tone.sense)
      && decide (2 ≤ (d.nest n).tone.inTolerance)) = false := by
    rcases hw with hw | hw
    · rw [hw]; rfl
    · rw [decide_eq_false (Nat.not_le.mpr hw), Bool.and_false]
  rw [Device.lockInterval, h0]
  rfl

end Sys2Proof.Machine
end

