-- ==== Sys2Proof/Laws/Results.lean ====
section
/-! SUPPORT. Words of lines, the order of the nests, the Result Ring, the posting of a verdict and MARKING (R101 to R108,
R172). -/

namespace Sys2Proof.Machine

/-! ## Words of lines -/

/-- The bit of a line word (Table 11-4). -/
theorem lineWord_getLsbD (f : NestId → Fin 4 → Bool) (n : NestId) (k : Fin 4) :
    (lineWord f).getLsbD (4 * n.val + k.val) = f n k := by
  have h1 : (4 * n.val + k.val) / 4 = n.val := by omega
  have h2 : (4 * n.val + k.val) % 4 = k.val := by omega
  simp only [lineWord, BitVec.getLsbD_ofFnLE]
  rw [dif_pos (by omega)]
  congr 1 <;> apply Fin.ext <;> assumption

/-! ## Every nest once -/

theorem mem_addNest (acc : List NestId) (n m : NestId) : m ∈ addNest acc n ↔ m ∈ acc ∨ m = n := by
  simp only [addNest]
  by_cases h : acc.contains n = true
  · rw [if_pos h]
    have : n ∈ acc := List.contains_iff_mem.mp h
    constructor
    · exact Or.inl
    · rintro (h | h)
      · exact h
      · rw [h]; exact this
  · rw [if_neg h]; simp

theorem nodup_addNest {acc : List NestId} (n : NestId) (h : acc.Nodup) : (addNest acc n).Nodup := by
  simp only [addNest]
  split
  · exact h
  · rename_i hc
    have : n ∉ acc := fun hm => hc (List.contains_iff_mem.mpr hm)
    rw [List.nodup_append]
    exact ⟨h, by simp, by intro a ha b hb; simp at hb; intro e; exact this (by rw [← hb, ← e]; exact ha)⟩

theorem mem_foldl_addNest (l acc : List NestId) (m : NestId) : m ∈ l.foldl addNest acc ↔ m ∈ acc ∨ m ∈ l := by
  induction l generalizing acc with
  | nil => simp
  | cons a l ih => rw [List.foldl_cons, ih, mem_addNest, List.mem_cons, or_assoc]

theorem nodup_foldl_addNest (l : List NestId) {acc : List NestId} (h : acc.Nodup) : (l.foldl addNest acc).Nodup := by
  induction l generalizing acc with
  | nil => exact h
  | cons a l ih => exact ih (nodup_addNest a h)

/-- The order of the nests names every nest (log 11). -/
theorem mem_nestOrder (order : List NestId) (n : NestId) : n ∈ nestOrder order := by
  simp only [nestOrder]
  rw [mem_foldl_addNest]
  right; simp

/-- The order of the nests names no nest twice. -/
theorem nodup_nestOrder (order : List NestId) : (nestOrder order).Nodup :=
  nodup_foldl_addNest _ List.nodup_nil

/-! ## Posting a verdict (R101, R105, R106) -/

/-- What the posting of a final verdict can do. -/
structure VerdictPosted (d e : Device) (n : NestId) (r : UnitRecord) (v : Verdict) : Prop where
  frame : e = { d with nests := e.nests, groups := e.groups, tables := e.tables, labels := e.labels,
                       yields := e.yields, calibration := e.calibration, notices := e.notices, pool := e.pool }
  labels : e.labels = d.labels.put
    { label := verdictLabel d.labels.counter n r v
      chain := if r.chainKept && !r.chain.blocks.isEmpty then some r.chain else none }
  pool : e.pool = if r.chainKept then d.pool else { d.pool with free := d.pool.free ++ r.chain.blocks }
  pins : (e.tables.bank r.bank).pins = (d.tables.bank r.bank).pins - 1
  yields : e.yields = { d.yields with
    live := d.yields.live.set n (d.yields.live[n].countLabel (verdictLabel d.labels.counter n r v)) }
  calibration : r.role ≠ .production → e.calibration = d.calibration
  self : ∃ q, e.nest n = { d.nest n with history := addEvent (d.nest n).history .labelled, record := q }
  others : ∀ m, m ≠ n → SameButStart (d.nest m) (e.nest m)
  absent : Absent e (d.groupOf n) n

theorem Device.postVerdict_spec (d : Device) (n : NestId) (r : UnitRecord) (v : Verdict) :
    VerdictPosted d (d.postVerdict n r v) n r v := by
  have hp := Device.postLabel_spec d n (verdictLabel d.labels.counter n r v)
    (if r.chainKept && !r.chain.blocks.isEmpty then some r.chain else none)
  generalize hP : d.postLabel n (verdictLabel d.labels.counter n r v)
    (if r.chainKept && !r.chain.blocks.isEmpty then some r.chain else none) = P at hp
  have hPn := hp.nest_same
  have hgo : ∀ m, P.groupOf m = d.groupOf m := by intro m; rw [hp.frame]; rfl
  have hPt : P.tables = d.tables := by rw [hp.frame]
  have hPp : P.pool = d.pool := by rw [hp.frame]
  -- the pool as the capture decision leaves it
  obtain ⟨Q, hQ, hQp⟩ : ∃ Q, (if r.chainKept then P else P.freeChain r.chain) = { P with pool := Q }
      ∧ Q = if r.chainKept then d.pool else { d.pool with free := d.pool.free ++ r.chain.blocks } := by
    by_cases h : r.chainKept = true
    · exact ⟨P.pool, by rw [if_pos h], by rw [if_pos h, hPp]⟩
    · exact ⟨_, by rw [if_neg h]; rfl, by rw [if_neg h]; simp only [CapturePool.freeChain, hPp]⟩
  have he := Device.endInTest_spec { P with pool := Q } n r
  generalize hE : ({ P with pool := Q } : Device).endInTest n r = E at he
  have hx : d.postVerdict n r v
      = E.setNest n { E.nest n with record := (E.nest n).record.map fun r => { r with chain := .empty } } := by
    simp only [Device.postVerdict, hP, hQ, hE, Device.modRecord_eq]
  rw [hx]
  obtain ⟨u, hu, hut, _⟩ := he.pin
  have h1 := he.frame
  have h2 := hp.frame
  have hEn : E.nest n = { P.nest n with record := (P.nest n).record.map fun r => { r with sub := .none } } := he.self
  refine ⟨?_, ?_, ?_, ?_, ?_, ?_, ?_, ?_, ?_⟩
  · cases d; cases P; cases E; simp_all [Device.setNest]
  · show E.labels = _; rw [h1]; exact hp.labels
  · show E.pool = _; rw [h1]; exact hQp
  · show (E.tables.bank r.bank).pins = _
    rw [hut, hu.pins]; show (P.tables.bank r.bank).pins - 1 = _; rw [hPt]
  · show E.yields = _; rw [h1]; exact hp.yields
  · intro hr; show E.calibration = _; rw [h1]; exact hp.calibration hr
  · exact ⟨_, by rw [Device.nest_setNest_same, hEn, hPn]⟩
  · intro m hm
    rw [Device.nest_setNest_ne _ _ hm]
    have k : SameButStart (P.nest m) (E.nest m) := he.others m
    rw [hp.nest_ne hm] at k; exact k
  · have ha : Absent E (d.groupOf n) n := by rw [← hgo]; exact he.absent
    refine ⟨ha.holder, ha.queue, ha.quiet, ?_⟩
    intro q hq
    rw [Device.nest_setNest_same] at hq
    cases hr' : (E.nest n).record with
    | none => rw [hr'] at hq; simp at hq
    | some z =>
      rw [hr'] at hq
      simp only [Option.map_some, Option.some.injEq] at hq
      rw [← hq]; exact ha.unheld z hr'

/-- MARKING is entered with the verdict's claims, and left at once where the action set does not name MARK (R108, R21).
-/
theorem Device.enterMarking_spec (d : Device) (n : NestId) (v : Verdict) :
    ∃ y, d.enterMarking n v = d.setNest n y
      ∧ y.state = (if actMark v.actions then .marking else d.afterUnit n)
      ∧ y.history = (d.nest n).history ∧ y.loopback = (d.nest n).loopback
      ∧ y.markClaim = actMark v.actions := by
  by_cases h : actMark v.actions = true
  · refine ⟨{ d.nest n with
        state := .marking, markClaim := actMark v.actions,
        gateClaim := (d.nest n).gateClaim || actGate v.actions,
        lampClaim := (d.nest n).lampClaim || actLamp v.actions, markTimer := 0 }, ?_, ?_, rfl, rfl, rfl⟩
    · simp only [Device.enterMarking, h, if_true, Device.modNest_eq]
    · simp [h]
  · have h' : actMark v.actions = false := by simpa using h
    obtain ⟨y, hy, hx⟩ := Device.exitTest_exits (d.setNest n { d.nest n with
        state := .marking, markClaim := false, gateClaim := (d.nest n).gateClaim || actGate v.actions,
        lampClaim := (d.nest n).lampClaim || actLamp v.actions, markTimer := 0 }) n
    rw [Device.nest_setNest_same] at hx
    refine ⟨y, ?_, ?_, hx.history, hx.loopback, by rw [hx.markClaim, h']⟩
    · simp only [Device.enterMarking, h', Device.modNest_eq, Device.endMarking, Bool.false_eq_true, if_false]
      rw [hy, Device.setNest_setNest]
    · rw [hx.state, h', if_neg Bool.false_ne_true]
      exact Device.afterUnit_congr rfl (by rw [Device.nest_setNest_same])

/-! ## Entries returned (R103) -/

/-- The return of `k` entries: pointer and count. -/
theorem Device.returnEntries_pointers (k : Nat) (d : Device) :
    (d.returnEntries k).labels.ret = d.labels.ret + Fin.ofNat 64 k
    ∧ (d.returnEntries k).labels.posted = d.labels.posted - k
    ∧ (d.returnEntries k).labels.post = d.labels.post ∧ (d.returnEntries k).labels.counter = d.labels.counter
    ∧ (d.returnEntries k).labels.waitQueue = d.labels.waitQueue
    ∧ d.returnEntries k = { d with labels := (d.returnEntries k).labels, pool := (d.returnEntries k).pool } := by
  induction k generalizing d with
  | zero => refine ⟨?_, rfl, rfl, rfl, rfl, rfl⟩; simp [Device.returnEntries]
  | succ k ih =>
    have h : d.returnEntry.labels = { d.labels with
          ring := d.labels.ring.set d.labels.ret none, ret := d.labels.ret + 1, posted := d.labels.posted - 1 }
        ∧ ∃ q, d.returnEntry = { d with labels := d.returnEntry.labels, pool := q } := by
      simp only [Device.returnEntry]
      split
      · exact ⟨rfl, _, rfl⟩
      · exact ⟨rfl, _, rfl⟩
    obtain ⟨h1, q, h2⟩ := h
    obtain ⟨i1, i2, i3, i4, i5, i6⟩ := ih d.returnEntry
    simp only [Device.returnEntries]
    refine ⟨?_, ?_, ?_, ?_, ?_, ?_⟩
    · rw [i1, h1]; apply Fin.ext; simp [Fin.val_add]; omega
    · rw [i2, h1]; simp only; omega
    · rw [i3, h1]
    · rw [i4, h1]
    · rw [i5, h1]
    · generalize Device.returnEntries k d.returnEntry = X at i6 ⊢
      exact i6.trans (congrArg (fun Z : Device => { Z with labels := X.labels, pool := X.pool }) h2)

end Sys2Proof.Machine
end

