-- ==== Sys2Proof/Laws/Verify.lean ====
section
/-! SUPPORT. Verification: the first row of a plan, and the first plan, that a search in increasing order finds; what each
check of Table 9-4 finds (R159). -/

namespace Sys2Proof.Machine

/-! ## The first of an order -/

/-- The first in order that satisfies a test. -/
theorem find_finRange {n : Nat} {test : Fin n → Bool} {i : Fin n} :
    (List.finRange n).find? test = some i ↔ test i = true ∧ ∀ j, j < i → ¬ test j = true := by
  rw [List.find?_eq_some_iff_getElem]
  constructor
  · rintro ⟨ht, k, hk, rfl, hj⟩
    refine ⟨ht, fun j hji hc => ?_⟩
    have := hj j.val (by simpa [Fin.lt_def] using hji)
    simp [hc] at this
  · rintro ⟨ht, hj⟩
    refine ⟨ht, i.val, by simp, by simp, fun j hji => ?_⟩
    have := hj ⟨j, by omega⟩ (by simpa [Fin.lt_def] using hji)
    simpa using this

/-- The first band of a plan that satisfies a test. -/
theorem Plan.find_bandIds {p : Plan} {test : BandId → Bool} {i : BandId} :
    p.bandIds.find? test = some i
      ↔ (i.val < p.header.bandCount ∧ test i = true)
        ∧ ∀ j, j < i → ¬ (j.val < p.header.bandCount ∧ test j = true) := by
  rw [Plan.bandIds, List.find?_filter, find_finRange]
  simp

/-- The first value in order. -/
theorem findSome_finRange {n : Nat} {α : Type} {f : Fin n → Option α} {x : α} :
    (List.finRange n).findSome? f = some x ↔ ∃ p, f p = some x ∧ ∀ q, q < p → f q = none := by
  rw [List.findSome?_eq_some_iff]
  constructor
  · rintro ⟨before, p, after, h, hp, hq⟩
    refine ⟨p, hp, fun q hqp => ?_⟩
    refine hq q ?_
    have hl : before.length = p.val := by
      have := congrArg (fun l => l[before.length]?) h
      simp only [List.getElem?_append_right (le_refl _), Nat.sub_self, List.getElem?_cons_zero] at this
      obtain ⟨h1, h2⟩ := List.getElem?_eq_some_iff.mp this
      simpa using congrArg Fin.val h2
    have := congrArg (fun l => l[q.val]?) h
    rw [List.getElem?_append_left (by rw [hl]; exact hqp)] at this
    refine List.mem_of_getElem? (this.symm.trans ?_)
    simp
  · rintro ⟨p, hp, hq⟩
    refine ⟨(List.finRange n).take p.val, p, (List.finRange n).drop (p.val + 1), ?_, hp, fun q hm => ?_⟩
    · conv_lhs => rw [← List.take_append_drop p.val (List.finRange n)]
      rw [List.drop_eq_getElem_cons (by simp)]
      simp
    · obtain ⟨k, hk, rfl⟩ := List.mem_iff_getElem.mp hm
      simp only [List.length_take, List.length_finRange] at hk
      refine hq _ ?_
      simp only [List.getElem_take, List.getElem_finRange, Fin.lt_def, Fin.val_cast]
      omega

/-- The first row of the first plan that a check finds, where its search of one plan finds the first row that fails. -/
theorem BankRows.findRow_spec {rows : BankRows} {r : Reason} {k : TableKind} {find : Plan → Option (Fin 32)}
    {fails : Plan → Fin 32 → Prop}
    (h : ∀ p i, find p = some i ↔ fails p i ∧ ∀ j, j < i → ¬ fails p j) (x : ErrorDetail) :
    rows.findRow r k find = some x
      ↔ ∃ (p : PlanId) (i : Fin 32), fails rows.plans[p] i
        ∧ (∀ (q : PlanId) (j : Fin 32), q < p ∨ (q = p ∧ j < i) → ¬ fails rows.plans[q] j)
        ∧ x = rowDetail r k p (some i) := by
  have hnone : ∀ p, find p = none ↔ ∀ i, ¬ fails p i := fun p => by
    constructor
    · intro hn i
      induction i using WellFoundedLT.induction with
      | ind i ih => exact fun hf => by simpa [hn] using (h p i).mpr ⟨hf, ih⟩
    · intro hf
      cases hp : find p with
      | none => rfl
      | some i => exact absurd ((h p i).mp hp).1 (hf i)
  rw [BankRows.findRow, findSome_finRange]
  constructor
  · rintro ⟨p, hp, hq⟩
    obtain ⟨i, hi, rfl⟩ := Option.map_eq_some_iff.mp hp
    obtain ⟨h1, h2⟩ := (h _ _).mp hi
    refine ⟨p, i, h1, ?_, rfl⟩
    rintro q j (hqp | ⟨rfl, hj⟩)
    · exact (hnone _).mp (Option.map_eq_none_iff.mp (hq q hqp)) j
    · exact h2 j hj
  · rintro ⟨p, i, h1, h2, rfl⟩
    refine ⟨p, ?_, fun q hqp => ?_⟩
    · rw [(h _ i).mpr ⟨h1, fun j hj => h2 p j (.inr ⟨rfl, hj⟩)⟩]; rfl
    · rw [(hnone _).mpr fun j => h2 q j (.inl hqp)]; rfl

end Sys2Proof.Machine
end

