-- ==== Sys2Proof/Tests/Slice0.lean ====
section
/-! SUPPORT. The model's own tests: ill-formed rows that the check refuses, values of the manual's worked examples, one
step of each family, and for every statement with hypotheses a state and operands that meet them. -/

-- One test after the other: checked at once, their threads would fill the memory that a check is given.
set_option Elab.async false

namespace Sys2Proof.Machine.Tests

/-! ## Ill-formed rows -/

def anyMeasures : Measures where
  fundamental := -200
  distortion := 100
  buzz := -500
  residueLevel := -700
  crest := 120
  inPhase := true

def noFields : MapFields where
  polarity := Vector.replicate 4 .unchanged
  debounce := Vector.replicate 4 none
  detector := Vector.replicate 4 .unchanged
  mode := Vector.replicate 4 .unchanged
  clampTimeout := none
  settle := none
  releaseTimeout := none

theorem test_illFormed_lossOrder : (Instr.nestLinkLoss [1, 2, 1]).wellFormed = false := by decide
theorem test_illFormed_resetOrder : (Instr.linkReset 0 (some 0xD5) [3, 3]).wellFormed = false := by decide
theorem test_illFormed_mapOrder :
    (Instr.fixtureMapWrite 0 0 noFields [.clampTimeout, .clampTimeout]).wellFormed = false := by decide
theorem test_illFormed_unknownType : (Instr.unknownType 0 0x1D).wellFormed = false := by decide
theorem test_illFormed_tableWrite : (Instr.tableWrite 0 0 0 0 (List.replicate 21 0)).wellFormed = false := by decide
theorem test_illFormed_lockTry :
    (Instr.lockIntervalEnd 0 0 0).wellFormed = false ∧ (Instr.lockIntervalEnd 0 5 0).wellFormed = false := by decide
theorem test_illFormed_lockInterval :
    (Instr.lockIntervalEnd 0 1 400).wellFormed = false ∧ (Instr.lockIntervalEnd 3 4 399).wellFormed = true := by decide
theorem test_illFormed_quietAttempt : (Instr.quietWindowClose 0 8).wellFormed = false := by decide
theorem test_illFormed_fundamental :
    (Instr.windowClose 0 { anyMeasures with fundamental := 32 }).wellFormed = false := by decide
theorem test_illFormed_residue :
    (Instr.windowClose 0 { anyMeasures with residueLevel := 32 }).wellFormed = false := by decide
theorem test_illFormed_crest : (Instr.windowClose 0 { anyMeasures with crest := -1 }).wellFormed = false := by decide
theorem test_wellFormed_window : (Instr.windowClose 0 anyMeasures).wellFormed = true := by decide

/-! ## Worked examples -/

/-- Section 9.11: the codes of a band row and their sums. -/
def exampleBand : Band where
  lower := 300
  upper := 1000
  responseLower := -30
  responseUpper := 30
  distortionLimit := 300
  buzzLimit := -400
  crestLimit := 150
  guardMargin := 10

theorem test_bandImage : exampleBand.image = [290, 989, 970, 1030, 299, 800, 150, 10] := by decide
theorem test_bandOf : bandOf [290, 989, 970, 1030, 299, 800, 150, 10] = some exampleBand := by decide
theorem test_bandSums : sumImages [exampleBand.image] = 4538 ∧ sumImages [Band.cleared.image] = 13599 := by decide
theorem test_clearedImages :
    planHeaderOf PlanHeader.cleared.image = some PlanHeader.cleared
    ∧ segmentOf Segment.cleared.image = some Segment.cleared ∧ bandOf Band.cleared.image = some Band.cleared
    ∧ referenceOf Reference.cleared.image = some Reference.cleared
    ∧ verdictOf VerdictEntry.cleared.image = some VerdictEntry.cleared := by decide

/-- Section 4.5: the chirp of 99 sub-windows. -/
def exampleChirp : Segment where
  kind := .chirp
  startFrequency := 100
  endFrequency := 10000
  level := -100
  duration := 1000
  settle := 10
  quiet := false
  capture := false

theorem test_chirpWindows : windowCount exampleChirp 1 = 99 ∧ windowCount exampleChirp 2 = 99 := by decide
theorem test_chirpFrequencies :
    subWindowFrequency exampleChirp 0 = 102 ∧ subWindowFrequency exampleChirp 48 = 955
    ∧ subWindowFrequency exampleChirp 49 = 1000 ∧ subWindowFrequency exampleChirp 98 = 9770 := by decide +kernel
theorem test_chirpLastSpan :
    (windowSpan exampleChirp 1 96 98).micEnd = 96000
    ∧ (windowSpan exampleChirp 1 96 98).micEnd - (windowSpan exampleChirp 1 96 98).micStart = 864 := by decide

/-- A tone crosses zero rising at phase 0, and peaks at full scale at 0.0 dBFS and at a tenth of it at -20.0 dBFS (R35,
R36); a chirp from 100 Hz to 10000 Hz stands at 1000 Hz, the geometric mean, half way, to one part in a million. -/
theorem test_tone_zero : toneSample 0 0 = 0 ∧ toneSample (-200) (phaseTurn / 2) = 0 := by decide +kernel
theorem test_tone_peak : toneSample 0 (phaseTurn / 4) = 32767 ∧ toneSample 0 (3 * (phaseTurn / 4)) = -32767 := by
  decide +kernel
theorem test_tone_level :
    toneAmplitude (-200) / 2 ^ 64 = 3276 ∧ sineMagnitude (phaseTurn / 12) * 1000000 / fixedOne = 499999 := by
  decide +kernel
theorem test_chirp_half_way :
    chirpAdvanceAt 100 10000 1000 500 / 2 ^ 16 = toneAdvance 1000 / 2 ^ 16
    ∨ chirpAdvanceAt 100 10000 1000 500 / 2 ^ 16 + 1 = toneAdvance 1000 / 2 ^ 16 := by decide +kernel

/-- Section 4.6: a judging with BUZZ. -/
def examplePlan : Plan :=
  { Plan.cleared with
    header := { PlanHeader.cleared with defined := true, bandCount := 3 }
    bands := ((Plan.cleared.bands.set 0
      { lower := 100, upper := 300, responseLower := -60, responseUpper := 60, distortionLimit := 1000,
        buzzLimit := -300, crestLimit := 200, guardMargin := 10 }).set 1
      { lower := 300, upper := 3000, responseLower := -30, responseUpper := 30, distortionLimit := 300,
        buzzLimit := -400, crestLimit := 150, guardMargin := 10 }).set 2
      { lower := 3000, upper := 10000, responseLower := -40, responseUpper := 40, distortionLimit := 500,
        buzzLimit := -350, crestLimit := 180, guardMargin := 5 } }

/-- A new unit of plan 0 on Bank A. -/
def unit : UnitRecord := newRecord .production 0 .bankA 1 [0x41] 7 CalRecord.reset

def measured (count : Nat) (low high : Int) (distortion : Nat) (buzz crest : Int) : Accumulator where
  minResponse := some low
  maxResponse := some high
  maxDistortion := some distortion
  maxBuzz := some buzz
  maxCrest := some crest
  windowCount := count
  uncorrectedSum := 0

def exampleUnit (buzz : Int) : UnitRecord :=
  { unit with accumulators := ((unit.accumulators.set 0 (measured 24 (-21) 30 400 (-410) 120)).set 1
      (measured 50 (-12) 26 250 (-432) 135)).set 2 (measured 26 (-31) 10 120 buzz 160) }

theorem test_distortionMargins :
    distortionMargin 1000 400 = 80 ∧ distortionMargin 300 250 = 16 ∧ distortionMargin 500 120 = 124 := by
  decide +kernel
theorem test_judgedBuzz :
    judgedFailures examplePlan (exampleUnit (-338)) = addFailure 0 .buzz
    ∧ worstBand examplePlan (exampleUnit (-338)) = some (2, -12) := by decide +kernel
theorem test_judgedMarginal :
    judgedFailures examplePlan (exampleUnit (-360)) = addFailure 0 .marginal
    ∧ worstBand examplePlan (exampleUnit (-360)) = some (1, 4) := by decide +kernel

/-- Section 12.6: the bids of LABELS at priority 8 and of CAL of nest 2 at priority 3. -/
theorem test_bids :
    (({ NoticeArbiter.reset with priorities := NoticeArbiter.reset.priorities.set 2 3 }.raise labelsSource).raise
      (calSource 2)).bid labelsSource = some 268
    ∧ (({ NoticeArbiter.reset with priorities := NoticeArbiter.reset.priorities.set 2 3 }.raise labelsSource).raise
      (calSource 2)).bid (calSource 2) = some 106
    ∧ (({ NoticeArbiter.reset with priorities := NoticeArbiter.reset.priorities.set 2 3 }.raise labelsSource).raise
      (calSource 2)).offered = some labelsSource := by decide

/-- Bytes of a whole message sum to 0 (R181). -/
theorem test_messageSum : sumBytes (messageBytes 0x1D 0x42 [0xD5]) = 0 := by decide

/-- A label record has 45 bytes (Table 11-6). -/
theorem test_labelBytes :
    (earlyEndLabel 5 2 unit).bytes = [0, 0, 0, 5, 2, 0, 0, 0, 0, 0, 1, 1, 0x41] ++ List.replicate 15 0
      ++ [0, 0, 0, 7, 2, 0xFF, 0, 0, 1, 0xFF, 0, 0, 0, 0, 0, 0, 0] := by decide

/-! ## Small states -/

/-- Bank A holds plan 0, defined, with a reference, and is ACTIVE. -/
def rows : BankRows where
  plans := Vector.replicate 8 { Plan.cleared with header := { PlanHeader.cleared with
    defined := true, referenceValid := true } }
  verdicts := Vector.replicate 16 { VerdictEntry.cleared with cls := .pass }

def loadedBank : Bank := { Bank.reset with rows := rows, state := .active, generation := 1 }

/-- Both links LOCKED and Bank A ACTIVE. -/
def ready : Device :=
  { Device.reset with
    nestPort := { NestPort.reset with locked := true }
    controllerPort := { ControllerPort.reset with locked := true }
    tables := { TableStore.reset with bankA := loadedBank, generationCounter := 1 } }

/-- A nest in a state, with or without a unit. -/
def nestIn (st : NestState) (r : Option UnitRecord) : Nest := { Nest.reset with state := st, record := r }

/-- `ready` with nest 0 as given. -/
def with0 (x : Nest) : Device := ready.setNest 0 x

/-- A state with these blocks. -/
def stateOf (d : Device) : State := { State.reset with dev := d }

/-- A state with one command at the head of the Command Queue, tag 9. -/
def headed (d : Device) (type : Byte) (body : List Byte) : State :=
  { State.reset with
    mgmt := { Management.reset with queue := [{ type := type, tag := 9, body := body }], credit := 1 }
    dev := d }

/-- The status of the reply that joined the Reply Queue last. -/
def lastStatus (o : Host.Outcome State Fault Refusal) : Option Status :=
  match o with
  | .next t => t.mgmt.replies.getLast?.map Reply.status
  | .fault _ => none
  | .refused _ => none

/-- The state of nest 0 after a step. -/
def nest0 (o : Host.Outcome State Fault Refusal) : Option NestState :=
  match o with
  | .next t => some (t.dev.nest 0).state
  | .fault _ => none
  | .refused _ => none

/-- The ring with label 5 posted at entry 0, with a chain of one block. -/
def postedRing : LabelUnit :=
  { LabelUnit.reset with
    ring := LabelUnit.reset.ring.set 0 (some
      { label := earlyEndLabel 5 0 unit
        chain := some { blocks := [3], fill := 100, status := .taken, recording := false } })
    post := 1
    posted := 1
    counter := 6 }

/-- A ring with no entry free. -/
def fullRing : LabelUnit := { LabelUnit.reset with posted := 64 }

def startBody : List Byte := [0, 0, 0, 0, 0, 0, 7, 1, 0x41] ++ List.replicate 15 0

def startFields : StartFields where
  nest := 0
  role := 0
  plan := 0
  lot := 7
  serialLength := 1
  serial := (Vector.replicate 16 0).set 0 0x41

theorem test_startFieldsOf : startFieldsOf startBody = some startFields := by decide

/-! ## One step of each family -/

theorem test_nestStart :
    nest0 (exec (.nestStart 9 startFields) (headed (with0 (nestIn .loaded none)) 0x03 startBody)) = some .clamping
    ∧ lastStatus (exec (.nestStart 9 startFields) (headed (with0 (nestIn .loaded none)) 0x03 startBody)) = some .ok := by
  decide
theorem test_nestStart_empty :
    lastStatus (exec (.nestStart 9 startFields) (headed ready 0x03 startBody)) = some .refusedState := by decide
theorem test_nestAbort :
    nest0 (exec (.nestAbort 9 0) (headed (with0 (nestIn .clamping (some unit))) 0x04 [0])) = some .empty := by decide
theorem test_nestAbort_badField :
    lastStatus (exec (.nestAbort 9 4) (headed ready 0x04 [4])) = some .badField := by decide
theorem test_badLength : lastStatus (exec (.nestAbort 9 0) (headed ready 0x04 [])) = some .badLength := by decide
theorem test_notAtHead : exec (.nestAbort 9 0) (headed ready 0x05 [0, 1, 1]) = .next (headed ready 0x05 [0, 1, 1]) :=
  rfl
theorem test_unknownType : lastStatus (exec (.unknownType 9 0x1E) (headed ready 0x1E [])) = some .unknownType :=
  by decide
theorem test_loopback :
    nest0 (exec (.loopback 9 0 (some true)) (headed ready 0x07 [0, 1])) = some .loaded := by decide
theorem test_bankCopy_refused :
    lastStatus (exec (.bankCopy 9) (headed Device.reset 0x10 [])) = some .refusedState := by decide
theorem test_bankSwitch_refused :
    lastStatus (exec (.bankSwitch 9) (headed ready 0x11 [])) = some .refusedState := by decide
theorem test_commit_notOpen :
    lastStatus (exec (.tableCommit 9 (some (0xD5, 0))) (headed ready 0x0F [0xD5, 0, 0])) = some .loadBlocked :=
  by decide
theorem test_counterRead_badField :
    lastStatus (exec (.counterRead 9 0 2) (headed ready 0x14 [0, 2])) = some .badField := by decide
theorem test_settleEnd :
    nest0 (exec (.settleEnd 0) (stateOf (with0 { nestIn .clamping (some unit) with settling := some (96, 96) })))
      = some .levelLock := by decide
theorem test_settleEnd_notDue :
    nest0 (exec (.settleEnd 0) (stateOf (with0 { nestIn .clamping (some unit) with settling := some (95, 96) })))
      = some .clamping := by decide
theorem test_judge_noMatch :
    exec (.judgeComplete 0) (stateOf { with0 (nestIn .judging (some unit)) with
      tables := { TableStore.reset with bankA := { loadedBank with
        rows := { rows with verdicts := Vector.replicate 16 { VerdictEntry.cleared with require := 1 } } } } })
      = .fault .noMatchingVerdict := rfl
theorem test_judge_final :
    nest0 (exec (.judgeComplete 0) (stateOf (with0 (nestIn .judging (some unit))))) = some .empty := by decide +kernel
theorem test_withFetchWord : State.reset.withFetchWord 16 3 = State.reset := rfl

/-! ## The hypotheses of the statements are met -/

/-- A row that answers a next state (QueueOfRows, RowsLeaveSamplesAndManagement, OnlyUnmatchedJudgingStops). -/
theorem test_hyp_rowAnswers :
    (∃ t, exec (.segmentEnd 0) (stateOf ready) = .next t) ∧ Instr.segmentEnd 0 ≠ .powerOnReset
    ∧ ∀ n m, Instr.segmentEnd 0 ≠ .windowClose n m := ⟨⟨_, rfl⟩, by decide, by intro n m h; cases h⟩

/-- Nest 0 in CLAMPING at the end of its settle, one label posted, one command waiting, one sample byte stored. -/
def busy : State :=
  { pending := [.settleEnd 0]
    mgmt := { Management.reset with queue := [{ type := 1, tag := 9, body := [0] }], credit := 1 }
    samples := [(5, 1)]
    dev := { with0 { nestIn .clamping (some unit) with settling := some (96, 96) } with
      tables := ready.tables.modBank .bankA fun x => { x with pins := 1 }
      labels := postedRing
      pool := { CapturePool.reset with free := (List.finRange 64).filter fun b => decide (b ≠ 3) }
      yields := { YieldCounters.reset with live := YieldCounters.reset.live.set 0 { Counters.zero with started := 1 } } } }

theorem test_hyp_invariants_step : ∃ t, step busy = .next t := ⟨_, rfl⟩
theorem test_hyp_memoryCanonical : MemoryCanonical busy := rfl
theorem test_hyp_credit : CreditKept busy := ⟨rfl, by decide, by decide, fun w h => by cases h⟩
theorem test_hyp_unitsKept : UnitsKept busy.dev := ⟨by decide, by decide, by decide, by decide⟩
theorem test_hyp_yields : YieldsKept busy :=
  ⟨test_hyp_unitsKept, fun n => by revert n; unfold Counters.Sums; decide⟩
theorem test_hyp_pins : PinsKept busy :=
  ⟨test_hyp_unitsKept, fun b => by cases b <;> decide +kernel, fun w h => by cases h⟩
theorem test_hyp_ring : RingKept busy := ⟨by decide, by decide, by decide +kernel, by decide +kernel⟩

/-- A check of every unit's record holds of each. -/
theorem forall_record {d : Device} {p : NestId → UnitRecord → Bool} (h : ∀ n, (d.nest n).record.all (p n) = true) :
    ∀ n r, (d.nest n).record = some r → p n r = true := by
  intro n r hr
  have := h n
  rw [hr] at this
  exact this

/-- A device of silent nests fits its drive modes. -/
theorem silent_fits {d : Device} (h : ∀ n, (d.nest n).tone.mode = .silent) (n : NestId) : d.DriveFits n := by
  rw [Device.DriveFits, h n]
  trivial

theorem test_hyp_arbiters : ArbitersKept busy := by
  refine ⟨test_hyp_unitsKept, forall_record (p := fun n r => r.sub.fits (busy.dev.nest n).state) (by decide),
    silent_fits (by decide), ?_, by decide, ?_, ?_, ?_⟩ <;> unfold Device.InSub <;> decide
theorem test_hyp_pool : PoolKept busy :=
  ⟨test_hyp_unitsKept, test_hyp_ring, by decide +kernel, by
    intro n r hs hr
    revert hs
    have : ∀ n, (busy.dev.nest n).state ≠ .marking := by decide
    exact fun hs => absurd hs (this n)⟩

/-- The blocks of `busy` meet what the reset statement asks of them. -/
theorem test_hyp_linkReset_blocks :
    (headed busy.dev 0x1D [0xD5]).Heads 0x1D 9 [0xD5] ∧ UnitsKept (headed busy.dev 0x1D [0xD5]).dev
    ∧ PinsKept (headed busy.dev 0x1D [0xD5]) ∧ ArbitersKept (headed busy.dev 0x1D [0xD5])
    ∧ (busy.dev.nest 0).state.testStage = true ∧ (busy.dev.nest 1).state.testStage = false :=
  ⟨rfl, test_hyp_unitsKept, test_hyp_pins, test_hyp_arbiters, rfl, rfl⟩

theorem test_hyp_linkReset :
    (headed ready 0x1D [0xD5]).Heads 0x1D 9 [0xD5] ∧ (headed ready 0x1D []).Heads 0x1D 9 []
    ∧ (headed ready 0x1D [0xD4]).Heads 0x1D 9 [0xD4] ∧ (0xD4 : Byte) ≠ 0xD5 := ⟨rfl, rfl, rfl, by decide⟩

/-- Nest 0 in LOADED owed the test, with plan 0 to auto-start. -/
def owed (locked : Bool) : Device :=
  { with0 { nestIn .loaded none with autoStart := some 0, autoTestOwed := true } with
    nestPort := { NestPort.reset with locked := locked } }

theorem test_hyp_autoStart :
    ((owed true).nest 0).autoTestOwed = true ∧ (∀ m, m ≠ 0 → ((owed true).nest m).autoTestOwed = false)
    ∧ ((owed true).nest 0).state = .loaded ∧ ((owed true).nest 0).autoStart = some 0
    ∧ ((owed true).nest 0).gateOpen = true ∧ ((owed true).nest 0).loopback = false
    ∧ (owed true).Startable 0 .production 0 .bankA := by unfold Device.Startable; decide +kernel
theorem test_hyp_autoStart_refused :
    ((owed false).nest 0).autoTestOwed = true ∧ (∀ m, m ≠ 0 → ((owed false).nest m).autoTestOwed = false)
    ∧ ((owed false).nest 0).state = .loaded ∧ ((owed false).nest 0).autoStart = some 0
    ∧ ((owed false).nest 0).gateOpen = true ∧ ((owed false).nest 0).loopback = false := by decide
theorem test_hyp_autoStart_code : (owed false).StartRefused 0 .production 0 .refusedState :=
  Or.inl ⟨by unfold Device.Seated; decide, rfl⟩

/-- A nest link frame with no line at high level. -/
def quietFrame : NestFrame where
  mic := Vector.replicate 4 1
  sense := Vector.replicate 4 2
  ambient := Vector.replicate 2 3
  fixture := 0

/-- Plan 0 of Bank A with this header and first segment. -/
def planned (h : PlanHeader) (x : Segment) (n : Nest) : Device :=
  { with0 n with tables := { ready.tables with bankA := { loadedBank with rows := { rows with
      plans := rows.plans.set 0 { rows.plans[0] with header := h, segments := (rows.plans[0]).segments.set 0 x } } } } }

/-- A lock pilot that has run `timer` frames. -/
def locking (timer intervals inTolerance : Nat) : ToneGenerator :=
  { ToneGenerator.reset with mode := .lock, timer := timer, intervals := intervals, inTolerance := inTolerance }

/-- A segment that has run `timer` frames with `k` windows closed. -/
def sweeping (timer k : Nat) : Nest :=
  { nestIn .sweeping (some { unit with sub := .running }) with
    tone := { ToneGenerator.reset with mode := .segment, timer := timer }
    engine := { window := none, closed := k } }

/-- A header with an acoustic delay of 1 ms. -/
def delayed : PlanHeader := { PlanHeader.cleared with defined := true, acousticDelay := 96 }

/-- A quiet check whose window has run `t` frames. -/
def measuring (t : Nat) : Nest :=
  { nestIn .quietCheck (some { unit with sub := .measuring }) with stageTimer := t }

theorem test_hyp_nestFrame :
    ready.frameDue = false ∧ Device.reset.frameDue = false ∧ ready.nestPort.locked = true
    ∧ Device.reset.nestPort.locked = false ∧ (ready.nest 0).loopback = false
    ∧ ((with0 { nestIn .loaded none with loopback := true }).nest 0).loopback = true := by decide +kernel

/-- Each timed event at the last frame before it is due, and at the frame at which it is due. -/
theorem test_frameDue_clamping :
    (with0 { nestIn .clamping (some unit) with clampTimer := 191999 }).frameDue = false
    ∧ (with0 { nestIn .clamping (some unit) with clampTimer := 192000 }).frameDue = true
    ∧ (with0 { nestIn .clamping (some unit) with settling := some (95, 96) }).frameDue = false
    ∧ (with0 { nestIn .clamping (some unit) with settling := some (96, 96) }).frameDue = true
    ∧ (with0 { nestIn .releasing none with releaseTimer := 191999 }).frameDue = false
    ∧ (with0 { nestIn .releasing none with releaseTimer := 192000 }).frameDue = true := by decide +kernel
theorem test_frameDue_judging :
    (with0 { nestIn .judging (some unit) with judgeTimer := 95 }).frameDue = false
    ∧ (with0 { nestIn .judging (some unit) with judgeTimer := 96 }).frameDue = true
    ∧ (with0 { nestIn .levelLock (some unit) with tone := locking 1919 0 0 }).frameDue = false
    ∧ (with0 { nestIn .levelLock (some unit) with tone := locking 1920 0 0 }).frameDue = true := by decide +kernel
theorem test_frameDue_quiet :
    (planned delayed Segment.cleared (measuring 4799)).frameDue = false
    ∧ (planned delayed Segment.cleared (measuring 4800)).frameDue = true
    ∧ (planned delayed Segment.cleared (measuring 4799)).planOf { unit with sub := .measuring }
        = { rows.plans[0] with header := delayed, segments := (rows.plans[0]).segments.set 0 Segment.cleared } := by
  decide +kernel
/-- The quiet check takes the sample that arrived ACOUSTIC DELAY frames before this one, and with 0 this one. -/
theorem test_delayedMic :
    ({ NestPort.reset with past := Vector.replicate 4 [8, 7, 6] } : NestPort).delayedMic 0 9 0 = 9
    ∧ ({ NestPort.reset with past := Vector.replicate 4 [8, 7, 6] } : NestPort).delayedMic 0 9 2 = 7
    ∧ ({ NestPort.reset with past := Vector.replicate 4 [8, 7, 6] } : NestPort).delayedMic 0 9 4 = 0 := by decide
theorem test_frameDue_lockLimit :
    (with0 { nestIn .levelLock (some unit) with tone := locking 47999 25 0 }).frameDue = false
    ∧ (with0 { nestIn .levelLock (some unit) with tone := locking 48000 25 0 }).frameDue = true
    ∧ (with0 { nestIn .quietCheck (some { unit with sub := .retryWait }) with stageTimer := 9599 }).frameDue = false
    ∧ (with0 { nestIn .quietCheck (some { unit with sub := .retryWait }) with stageTimer := 9600 }).frameDue = true := by
  decide +kernel
theorem test_frameDue_sync :
    ({ ready with nestPort := { ready.nestPort with missed := 7 } } : Device).frameDue = false
    ∧ ({ ready with nestPort := { ready.nestPort with missed := 8 } } : Device).frameDue = true
    ∧ ({ Device.reset with nestPort := { NestPort.reset with received := 15 } } : Device).frameDue = false := by
  decide +kernel
theorem test_frameDue_sweep :
    (planned delayed Segment.cleared (sweeping 9599 1)).frameDue = false
    ∧ (planned delayed Segment.cleared (sweeping 9600 1)).frameDue = true
    ∧ (planned delayed Segment.cleared (sweeping 96 0)).frameDue = false
    ∧ (windowSpan Segment.cleared 1 96 0).micStart = 96 ∧ 0 < windowCount Segment.cleared 1
    ∧ 9599 < (windowSpan Segment.cleared 1 96 0).micEnd
    ∧ (planned delayed Segment.cleared (sweeping 9599 0)).frameDue = false
    ∧ (planned delayed Segment.cleared (sweeping 9600 0)).frameDue = true := by decide +kernel
theorem test_frameDue_part :
    ({ ready with notices := { ready.notices with timer := some 9599 } } : Device).frameDue = false
    ∧ ({ ready with notices := { ready.notices with timer := some 9600 } } : Device).frameDue = true
    ∧ ({ ready with tables := { ready.tables with operation := .copy, operationTimer := 1919 } } : Device).frameDue = false
    ∧ ({ ready with tables := { ready.tables with operation := .copy, operationTimer := 1920 } } : Device).frameDue = true
    := by decide +kernel

/-- Two generators that drive: a silent frame of each mode, and the segments of each kind. -/
theorem test_hyp_driveSamples :
    (with0 { nestIn .levelLock (some unit) with tone := locking 0 0 0 }).frameDue = false
    ∧ (with0 { Nest.reset with tone := { ToneGenerator.reset with mode := .pass 1 } }).frameDue = false
    ∧ (∀ k ∈ [SegmentKind.pilot, .step, .chirp, .silence],
        (planned delayed { Segment.cleared with kind := k, settle := 10 } (sweeping 959 0)).frameDue = false
        ∧ (planned delayed { Segment.cleared with kind := k, settle := 10 } (sweeping 960 0)).frameDue = false)
    ∧ (959 : Nat) < 96 * 10 * 1 ∧ (960 : Nat) = 96 * 10 * 1 + 0 ∧ (0 : Nat) < 96 * 100 * 1 - 96 * 10 * 1 := by
  decide +kernel

/-- The link ports at the counts at which they change. -/
def ports (locked : Bool) (received missed : Nat) : Device :=
  { ready with
    nestPort := { NestPort.reset with locked := locked, received := received, missed := missed }
    controllerPort := { ControllerPort.reset with locked := locked, received := received, missed := missed } }

theorem test_hyp_linkLocks :
    (ports false 16 0).nestPort.locked = false ∧ 16 ≤ (ports false 16 0).nestPort.received
    ∧ (ports false 16 0).controllerPort.locked = false ∧ 16 ≤ (ports false 16 0).controllerPort.received := by decide
theorem test_hyp_linkLoss :
    (ports true 0 8).nestPort.locked = true ∧ 8 ≤ (ports true 0 8).nestPort.missed ∧ UnitsKept (ports true 0 8)
    ∧ (ports true 0 8).controllerPort.locked = true ∧ 8 ≤ (ports true 0 8).controllerPort.missed :=
  ⟨rfl, by decide, ⟨by decide, by decide, by decide, by decide⟩, rfl, by decide⟩
/-- A nest of each kind that the loss of the nest link meets. -/
theorem test_hyp_linkLoss_units :
    (NestState.clamping).testStage = true ∧ UnitsKept { (ports true 0 8).setNest 0 (nestIn .labelWait (some unit)) with
      labels := { fullRing with waitQueue := [0] } } := ⟨rfl, ⟨by decide, by decide, by decide, by decide⟩⟩

/-- Nests 0 and 1 end early in the order given, one entry free: the first takes it and the second is discarded. -/
def lossState : Device :=
  { ((ports true 0 8).setNest 0 (nestIn .clamping (some unit))).setNest 1 (nestIn .judging (some unit)) with
    labels := { fullRing with posted := 63 } }

theorem test_hyp_linkLoss_ends :
    UnitsKept lossState
    ∧ ((nestOrder [1]).filter fun m => (lossState.nest m).state.endsEarly)[0]? = some 1
    ∧ ((nestOrder [1]).filter fun m => (lossState.nest m).state.endsEarly)[1]? = some 0
    ∧ (lossState.nest 1).record = some unit ∧ lossState.labels.posted + 0 < 64 ∧ 64 ≤ lossState.labels.posted + 1 :=
  ⟨⟨by decide, by decide, by decide, by decide⟩, by decide, by decide, rfl, by decide, by decide⟩

theorem test_hyp_controllerFrame :
    (ports true 0 7).controllerPort.frameDue = false ∧ (ports true 0 8).controllerPort.frameDue = true
    ∧ (ports false 15 0).controllerPort.frameDue = false ∧ (ports false 16 0).controllerPort.frameDue = true
    ∧ 4 ≤ ({ isReply := true, bytes := [1, 2, 3, 4], left := [1, 2, 3, 4] } : Sending).left.length := by decide

theorem test_parser_rows :
    (240 : Nat) < (241 : Byte).toNat ∧ ¬ (240 : Nat) < (240 : Byte).toNat
    ∧ ([1, 9] : List Byte).length = 2 ∧ ([1, 9, 0] : List Byte).length = (([1, 9, 0] : List Byte).getD 2 0).toNat + 3
    ∧ ([1, 9, 1] : List Byte).length ≠ (([1, 9, 1] : List Byte).getD 2 0).toNat + 3 := by decide

theorem test_hyp_parser : ({ Management.reset with parser := .ready } : Management).parser = .ready
    ∧ (List.replicate 240 (0 : Byte)).length ≤ 240 := ⟨rfl, by rw [List.length_replicate]⟩
theorem test_hyp_messageTaken :
    ({ Management.reset with completed := [messageBytes 1 9 [0]], credit := 7 } : Management).completed
      = [messageBytes 1 9 [0]] ∧ sumBytes (messageBytes 1 9 [0]) = 0 ∧ sumBytes [1, 9, 1, 0, 0] ≠ 0 := by decide

/-- A reply that waits, and a LABELS flag. -/
def waitingReply : Reply where
  tag := 9
  type := 1
  status := .badField
  data := .none

theorem test_hyp_messageChoice :
    (ready.raise labelsSource).notices.offered = some labelsSource ∧ ready.notices.offered = none
    ∧ ready.controllerPort.locked = true ∧ Management.reset.sending = none ∧ Management.reset.idlePassed = true
    ∧ ({ Management.reset with replies := [waitingReply], consecutive := 3 } : Management).consecutive = 3
    ∧ ({ Management.reset with replies := [waitingReply], consecutive := 2 } : Management).consecutive < 3 := by decide
/-- Bodies of Table 11-7: an auto-start refusal, a cause with its plan, labels, a waiting nest, the links. -/
theorem test_noticeBodies :
    { ready with notices := { ready.notices with refusal := ready.notices.refusal.set 1 (some .noTables) } }.noticeBody 0
        (nestFaultSource 1) = [1, 0, 7]
    ∧ { ready with notices := { ready.notices with
        calCause := ready.notices.calCause.set 2 (some (.golden, some 3)) } }.noticeBody 0 (calSource 2)
        = [10, 1, 3, 0, 0, 0, 0, 0, 0, 0, 0]
    ∧ ready.noticeBody 0 labelsSource = [12, 0, 0, 0, 0, 0, 0, 0]
    ∧ { ready with labels := { ready.labels with waitQueue := [2] } }.noticeBody 0 ringFullSource
        = [13, 1, 2, 0xFF, 0xFF, 0xFF]
    ∧ ready.noticeBody 0 linkSource = [16, 3] ∧ ready.noticeBody 9 discardSource = [17, 9]
    ∧ ready.noticeBody 0 bankSource = [15, 4, 0, 0, 0, 0, 1] := by decide +kernel
theorem test_hyp_messageSent :
    ({ Management.reset with sending := some { isReply := true, bytes := [1], left := [] } } : Management).sending
      = some { isReply := true, bytes := [1], left := [] } := rfl

theorem test_hyp_heads :
    (headed ready 0x1E []).Heads 0x1E 9 [] ∧ isCommandType 0x1E = false ∧ isCommandType 0 = false
    ∧ (headed ready 0x03 []).Heads 0x03 9 [] ∧ (headed ready 0x04 []).Heads 0x04 9 []
    ∧ (headed ready 0x11 [0]).Heads 0x11 9 [0] ∧ (headed ready 0x02 []).Heads 0x02 9 []
    ∧ (headed ready 0x01 [1]).Heads 0x01 9 [1] := ⟨rfl, by decide, by decide, rfl, rfl, rfl, rfl, rfl⟩

theorem test_hyp_nestStart :
    (headed (with0 (nestIn .loaded none)) 0x03 startBody).Heads 0x03 9 startBody
    ∧ startFieldsOf startBody = some startFields ∧ startFields.nest.toNat = (0 : NestId).val
    ∧ startFields.role = roleCode .production ∧ startFields.plan.toNat = (0 : PlanId).val
    ∧ startFields.serialLength.toNat ≤ 16 ∧ serialFits startFields = true
    ∧ (∀ c ∈ startFields.serial.toList.take startFields.serialLength.toNat, 0x20 ≤ c.toNat ∧ c.toNat ≤ 0x7E)
    ∧ (with0 (nestIn .loaded none)).Startable 0
        ((with0 (nestIn .loaded none)).effectiveRole 0 .production) 0 .bankA :=
  ⟨rfl, by decide, rfl, rfl, rfl, by decide, by decide, by decide, by unfold Device.Startable; decide +kernel⟩
theorem test_hyp_nestStart_fields :
    startFieldsOf (startBody.set 0 4) = some { startFields with nest := 4 }
    ∧ startFieldsOf (startBody.set 1 3) = some { startFields with role := 3 }
    ∧ startFieldsOf (startBody.set 2 8) = some { startFields with plan := 8 }
    ∧ startFieldsOf (startBody.set 7 17) = some { startFields with serialLength := 17 }
    ∧ startFieldsOf (startBody.set 8 0x7F) = some { startFields with serial := startFields.serial.set 0 0x7F } := by
  decide

/-- A nest in LOADED with no bank ACTIVE, with plan 0 not defined, and with its record DUE. -/
def noTables : Device := { with0 (nestIn .loaded none) with tables := TableStore.reset }
def noPlan : Device :=
  { with0 (nestIn .loaded none) with tables := { TableStore.reset with bankA := { Bank.reset with state := .active } } }
def calDue : Device :=
  { with0 (nestIn .loaded none) with
    calibration := CalibrationStore.reset.setRecord 0 0 { CalRecord.reset with state := .due } }

theorem test_hyp_nestStart_refused :
    (noTables.nest 0).state = .loaded ∧ (noTables.nest 0).gateOpen = true ∧ noTables.nestPort.locked = true
    ∧ noTables.detects 0 .lid = false ∧ noTables.tables.activeBank = none
    ∧ noPlan.tables.activeBank = some .bankA
    ∧ (noPlan.tables.bank .bankA).rows.plans[0].header.defined = false
    ∧ calDue.tables.activeBank = some .bankA ∧ (calDue.tables.bank .bankA).rows.plans[0].header.defined = true
    ∧ calDue.effectiveRole 0 .production = .production ∧ (calDue.calibration.record 0 0).state = .due := by
  decide +kernel

/-- A nest in LOADED whose LID is inactive with its detector enabled, and one whose plan has no reference. -/
def lidOpen : Device :=
  { with0 (nestIn .loaded none) with
    fixture := ready.fixture.set 0 { FixtureLines.reset with map := { FixtureMap.reset with
      detector := Vector.replicate 4 true } } }
def noReference : Device := planned { PlanHeader.cleared with defined := true } Segment.cleared (nestIn .loaded none)

/-- Every reply of a refused start. -/
theorem test_hyp_startRefused :
    lidOpen.StartRefused 0 .production 0 .refusedState ∧ ready.StartRefused 0 .production 0 .refusedState
    ∧ noTables.StartRefused 0 .production 0 .noTables ∧ noPlan.StartRefused 0 .production 0 .badField
    ∧ calDue.StartRefused 0 .production 0 .refusedCal ∧ noReference.StartRefused 0 .golden 0 .badField := by
  refine ⟨Or.inl ⟨?_, rfl⟩, Or.inl ⟨?_, rfl⟩, Or.inr (Or.inl ⟨?_, rfl, rfl⟩),
    Or.inr (Or.inr ⟨.bankA, ?_, rfl, Or.inl ⟨?_, rfl⟩⟩),
    Or.inr (Or.inr ⟨.bankA, ?_, rfl, Or.inr (Or.inl ⟨?_, rfl, Or.inl ?_, rfl⟩)⟩),
    Or.inr (Or.inr ⟨.bankA, ?_, rfl, Or.inr (Or.inr ⟨?_, rfl, ?_, rfl⟩)⟩)⟩
  all_goals (try unfold Device.Seated); decide +kernel

theorem test_hyp_nestAbort :
    (headed (with0 (nestIn .judging (some unit))) 0x04 [0]).Heads 0x04 9 [BitVec.ofNat 8 (0 : NestId).val]
    ∧ ((with0 (nestIn .judging (some unit))).nest 0).state.endsEarly = true
    ∧ ((with0 (nestIn .judging (some unit))).nest 0).record = some unit
    ∧ (with0 (nestIn .judging (some unit))).labels.posted < 64
    ∧ 64 ≤ ({ with0 (nestIn .clamping (some unit)) with labels := fullRing } : Device).labels.posted :=
  ⟨rfl, rfl, rfl, by decide, by decide⟩
theorem test_hyp_nestAbort_elsewhere :
    (headed (with0 (nestIn .labelWait (some unit))) 0x04 [0]).Heads 0x04 9 [BitVec.ofNat 8 (0 : NestId).val]
    ∧ ((with0 (nestIn .labelWait (some unit))).nest 0).record = some unit
    ∧ ((with0 (nestIn .marking (some unit))).nest 0).state = .marking
    ∧ ((with0 (nestIn .done none)).nest 0).state = .done
    ∧ ((with0 (nestIn .fault none)).nest 0).state = .fault ∧ ((with0 (nestIn .fault none)).nest 0).autoStart = none :=
  ⟨rfl, rfl, rfl, rfl, rfl, rfl⟩

theorem test_hyp_nestGate :
    (headed ready 0x05 [0, 1, 0xFF]).Heads 0x05 9 [0, 1, 0xFF] ∧ [(0 : Byte), 1, 0xFF].length = 3
    ∧ (ready.nest 0).state ≠ .loaded ∧ applyGate .closed true = false ∧ applyAuto .off (some 0) = none
    ∧ applyGate .opened false = true ∧ applyAuto (.plan 0) none = some 0
    ∧ ((with0 (nestIn .loaded none)).nest 0).loopback = false := ⟨rfl, rfl, by decide, rfl, rfl, rfl, rfl, rfl⟩
theorem test_hyp_nestGate_start :
    ((with0 (nestIn .loaded none)).setNest 0 { (with0 (nestIn .loaded none)).nest 0 with
      gateOpen := true, autoStart := some 0 }).Startable 0 .production 0 .bankA := by
  unfold Device.Startable; decide +kernel

/-- Nest 0 waits out its retry, and nest 1 of the same group holds the permit, drives loud, or neither. -/
def arbited (holder : Option NestId) (queue : List NestId) (loud : Bool) (x : Nest) : Device :=
  { (with0 x).setNest 1 (nestIn .levelLock (some { unit with sub := .held })) with
    groups := ready.groups.set 0 { Group.reset with
      holder := holder, queue := queue, loud := (Vector.replicate 4 false).set 1 loud } }

theorem test_hyp_arbiter_quiet :
    ((arbited none [] false { nestIn .quietCheck (some { unit with sub := .retryWait }) with stageTimer := 9600 }).nest
      0).stageTimer = 9600
    ∧ (arbited none [] false (measuring 0)).groupOf 0 = 0
    ∧ (∀ m : NestId, m ≠ 0 → ((arbited none [] false (measuring 0)).group 0).loud[m] = false)
    ∧ ((arbited (some 1) [] false (measuring 0)).group 0).holder ≠ none
    ∧ ∃ m : NestId, m ≠ 0 ∧ ((arbited none [] true (measuring 0)).group 0).loud[m] = true :=
  ⟨rfl, rfl, by decide, by decide, 1, by decide, by decide⟩
theorem test_hyp_arbiter_loud :
    (Group.reset.threshold : Int) < min 0 ((ready.planOf unit).header.pilotLevel + 120)
    ∧ min 0 ((planned { PlanHeader.cleared with pilotLevel := -320 } Segment.cleared Nest.reset).planOf
        unit).header.pilotLevel + 120 ≤ Group.reset.threshold
    ∧ (∃ m, ((arbited (some 1) [] false (measuring 0)).group 0).holder = some m ∧ m ≠ 0)
    ∧ ∀ m, ((arbited none [] false (measuring 0)).group 0).holder = some m → m = 0 := by
  refine ⟨by decide +kernel, by decide +kernel, ⟨1, rfl, by decide⟩, by decide⟩
theorem test_hyp_arbiter_given_up :
    ((arbited (some 0) [] false { measuring 4800 with quietCount := 1, quietSquares := 32767 ^ 2 }).nest 0).isQuiet
        PlanHeader.cleared = false
    ∧ ((arbited (some 0) [] false (measuring 4800)).group 0).holder = some 0
    ∧ ((arbited (some 0) [] false (measuring 4800)).nest 1).record = some { unit with sub := .held }
    ∧ (({ unit with sub := .measuring } : UnitRecord).quietAttempts
        < ({ PlanHeader.cleared with quietRetries := 1 } : PlanHeader).quietRetries)
    ∧ ((arbited (some 0) [2] false (measuring 4800)).group 0).queue = 2 :: []
    ∧ (0 : NestId) ∉ ((arbited (some 0) [2] false (measuring 4800)).group 0).queue
    ∧ ∀ m : NestId, m ≠ 0 → m ≠ 2 → ((arbited (some 0) [2] false (measuring 4800)).group 0).loud[m] = false := by
  refine ⟨by decide +kernel, rfl, rfl, by decide, rfl, by decide, by decide⟩

theorem test_hyp_unitRead :
    (headed (with0 (nestIn .judging (some unit))) 0x06 [0, 1]).Heads 0x06 9 [0, 1] ∧ [(0 : Byte), 1].length = 2
    ∧ (3 : Byte).toNat ≤ 3 ∧ (ready.nest 0).record = none
    ∧ ((with0 (nestIn .judging (some unit))).nest 0).record = some unit
    ∧ (31 : BandId).val / 8 = (3 : Byte).toNat := ⟨rfl, rfl, by decide, rfl, rfl, rfl⟩

theorem test_hyp_loopback_passThrough :
    (headed ready 0x07 [0, 1]).Heads 0x07 9 [0, 1] ∧ (headed ready 0x08 [0, 1]).Heads 0x08 9 [0, 1]
    ∧ (ready.nest 0).state = .empty ∧ (ready.nest 0).autoStart = none
    ∧ ((with0 (nestIn .fault none)).nest 0).state ≠ .empty ∧ ((with0 (nestIn .fault none)).nest 0).state ≠ .loaded
    ∧ ready.controllerPort.locked = true ∧ Device.reset.controllerPort.locked = false
    ∧ ((with0 { Nest.reset with tone := { ToneGenerator.reset with mode := .pass 1 } }).nest 0).tone.mode = .pass 1
    ∧ (headed ready 0x09 [0, 0, 1, 0]).Heads 0x09 9 [0, 0, 1, 0] :=
  ⟨rfl, rfl, rfl, rfl, by decide, by decide, rfl, rfl, rfl, rfl⟩

/-- OFF changes nothing on a nest that is not in PASS (R49). -/
theorem test_passOff :
    exec (.passThrough 9 0 (some .off)) (headed ready 0x08 [0, 2])
      = .next ((headed ready 0x08 [0, 2]).repliedWith 0x08 9 .ok .none ready) := rfl

theorem test_hyp_groupMap :
    (headed ready 0x1A [0, 1, 1, 0, 0, 120]).Heads 0x1A 9 [0, 1, 1, 0, 0, 120]
    ∧ (∀ n : NestId, ((#v[0, 1, 1, 0] : Vector Byte 4)[n]).toNat ≤ 1)
    ∧ (∀ g : GroupId, -600 ≤ (#v[-600, 0] : Vector Int 2)[g] ∧ (#v[-600, 0] : Vector Int 2)[g] ≤ 0
        ∧ (#v[-600, 0] : Vector Int 2)[g] % 5 = 0)
    ∧ (∀ n, (ready.nest n).state.inTest = false)
    ∧ ∃ n, ((with0 (nestIn .labelWait (some unit))).nest n).state.inTest = true :=
  ⟨rfl, by decide, by decide, by decide, ⟨0, rfl⟩⟩

/-- `ready` with the posted ring. -/
def posted : Device := { ready with labels := postedRing }

theorem test_hyp_ring_commands :
    (headed posted 0x0A [0, 1]).Heads 0x0A 9 [0, 1] ∧ (headed posted 0x0B [0]).Heads 0x0B 9 [0]
    ∧ (∀ j : Nat, j < 1 → (posted.labels.ring[(0 : EntryId) + Fin.ofNat 64 j]).isSome = true)
    ∧ (∃ j : Nat, j < 2 ∧ posted.labels.ring[(0 : EntryId) + Fin.ofNat 64 j] = none)
    ∧ posted.labels.Contiguous ∧ (posted.labels.ring[(0 : EntryId)]).isSome = true ∧ posted.labels.waitQueue = []
    ∧ posted.labels.ring[(63 : EntryId)] = none :=
  ⟨rfl, rfl, by decide, ⟨1, by decide, by decide⟩, test_hyp_ring, by decide, rfl, by decide⟩

/-- A nest in LABEL_WAIT stands in the Ring Wait Queue as the first entry is returned. -/
theorem test_hyp_ringReturn : UnitsKept posted ∧ (0 - posted.labels.ret : EntryId).val + 1 = 1 :=
  ⟨⟨by decide, by decide, by decide, by decide⟩, rfl⟩

/-- A final verdict of class PASS with MARK. -/
def passVerdict : Verdict where
  cls := .pass
  bin := some 0
  entry := some 0
  actions := 1
  markPulse := 10
  override := .inherit

/-- Nest 2 waits for an entry, and one is free. -/
def granting : Device :=
  { ready.setNest 2 (nestIn .labelWait (some { unit with verdict := some passVerdict })) with
    labels := { fullRing with posted := 63, waitQueue := [2] } }

theorem test_hyp_grant :
    granting.labels.waitQueue = [2] ∧ granting.labels.posted < 64
    ∧ (granting.nest 2).record = some { unit with verdict := some passVerdict } ∧ (granting.nest 2).state = .labelWait :=
  ⟨rfl, by decide, rfl, rfl⟩

/-- The posted ring with nest 2 waiting for an entry. -/
def postedWaiting : Device :=
  { posted.setNest 2 (nestIn .labelWait (some { unit with verdict := some passVerdict })) with
    labels := { postedRing with waitQueue := [2] } }

theorem test_hyp_ringReturn_waiting :
    UnitsKept postedWaiting ∧ postedWaiting.labels.waitQueue[0]? = some 2
    ∧ ∀ n ∈ postedWaiting.labels.waitQueue, ∃ r v, (postedWaiting.nest n).record = some r ∧ r.verdict = some v := by
  refine ⟨⟨by decide, by decide, by decide, by decide⟩, rfl, fun n h => ?_⟩
  rw [List.mem_singleton.mp h]
  exact ⟨_, passVerdict, rfl, rfl⟩

theorem test_hyp_capture :
    posted.labels.chainOf 5 = some (0, { blocks := [3], fill := 100, status := .taken, recording := false })
    ∧ (headed posted 0x0C (bytes32 5 ++ [0, 63])).Heads 0x0C 9 (bytes32 5 ++ [0, 63])
    ∧ (headed posted 0x0D (bytes32 5)).Heads 0x0D 9 (bytes32 5) ∧ bytes32 5 = [0, 0, 0, 5] :=
  ⟨by decide +kernel, rfl, rfl, by decide⟩
theorem test_captureBody :
    lastStatus (exec (.captureRelease 9 5) (headed posted 0x0D [0, 0, 0, 5])) = some .ok
    ∧ exec (.captureRelease 9 5) (headed posted 0x0D [0, 0, 0, 6]) = .next (headed posted 0x0D [0, 0, 0, 6]) :=
  ⟨by decide +kernel, rfl⟩

theorem test_hyp_counters :
    (headed ready 0x13 [1]).Heads 0x13 9 [1] ∧ (headed ready 0x14 [3, 1]).Heads 0x14 9 [3, 1]
    ∧ 3 < (4 : Byte).toNat ∧ 1 < (2 : Byte).toNat
    ∧ (∃ t, exec (.segmentEnd 0) (stateOf ready) = .next t) := ⟨rfl, rfl, by decide, by decide, ⟨_, rfl⟩⟩

theorem test_hyp_correction :
    (headed ready 0x15 [0, 0]).Heads 0x15 9 [0, 0] ∧ (headed ready 0x16 [0, 0]).Heads 0x16 9 [0, 0]
    ∧ ((with0 (nestIn .judging (some unit))).nest 0).state.inTest = true ∧ unit.plan = 0
    ∧ (ready.nest 0).state.inTest = false ∧ ready.tables.activeBank = some .bankA
    ∧ Device.reset.tables.activeBank = none ∧ ready.activeReferenceValid 0 = true
    ∧ (ready.calibration.record 0 0).state = .notRequired := by
  refine ⟨rfl, rfl, rfl, rfl, rfl, rfl, rfl, ?_, ?_⟩ <;> decide +kernel

theorem test_hyp_drift :
    (headed ready 0x1B [0, 0, 10, 0, 10]).Heads 0x1B 9 [0, 0, 10, 0, 10] ∧ [(0 : Byte), 0, 10, 0, 10].length = 5
    ∧ ∀ k : NestId, (ready.calibration.drift[k]).limit ≤ (ready.calibration.drift[k]).length :=
  ⟨rfl, rfl, by decide⟩

def noticeBody : List Byte := [15, 0, 8, 8, 8, 8, 8, 8, 8, 32, 3, 0xE8, 63]
def noticePriorities : Vector Byte 9 := #v[15, 0, 8, 8, 8, 8, 8, 8, 8]

theorem test_hyp_noticeConfig :
    (headed ready 0x1C noticeBody).Heads 0x1C 9 noticeBody ∧ noticeBody.length = 13
    ∧ noticeFieldsOf noticeBody
        = some (Vector.ofFn (fun i => some noticePriorities[i]), some 32, some 1000, some 63)
    ∧ (∀ i : Fin 9, (noticePriorities[i]).toNat ≤ 15) := ⟨rfl, rfl, by decide, by decide⟩

/-- Bank B in a state beside the ACTIVE Bank A, with an operation. -/
def standbyB (st : BankState) (op : Operation) : Device :=
  { ready with tables := { ready.tables with
      bankB := { Bank.reset with state := st, fingerprints := some (Vector.replicate 8 1) }
      bankA := { loadedBank with fingerprints := some ((Vector.replicate 8 1).set 0 2) }
      operation := op } }

theorem test_hyp_tableWrite :
    (headed (standbyB .ready .none) 0x0E [3, 7, 31, 5, 120, 0, 1]).Heads 0x0E 9 [3, 7, 31, 5, 120, 0, 1]
    ∧ lengthFits 0x0E [3, 7, 31, 5, 120, 0, 1] = true
    ∧ tableBodyIs 3 7 31 [1400, 1] [3, 7, 31, 5, 120, 0, 1] = true
    ∧ rowChange 3 7 32 [1400, 1] = none ∧ (rowChange 3 7 31 [1400, 1]).isSome = true
    ∧ (standbyB .ready .none).tables.blocked = false ∧ (standbyB .ready .none).tables.standby = some .bankB
    ∧ (standbyB .retiring .none).tables.standby = none
    ∧ ({ ready.tables with sequenceError := true } : TableStore).blocked = true :=
  ⟨rfl, by decide, by decide, rfl, by decide, rfl, rfl, rfl, rfl⟩

/-- Rows within their ranges, at the ends of them. -/
theorem test_hyp_tableRows :
    PlanHeader.cleared.InRange ∧ Segment.cleared.InRange ∧ exampleBand.InRange ∧ VerdictEntry.cleared.InRange
    ∧ OnSteps (-1000) 1 400 (-1000) ∧ OnSteps (-1000) 1 400 400
    ∧ (rowChange 0 7 0 PlanHeader.cleared.image).isSome = true
    ∧ (rowChange 1 0 23 Segment.cleared.image).isSome = true ∧ (rowChange 2 7 31 exampleBand.image).isSome = true
    ∧ (rowChange 4 0 15 VerdictEntry.cleared.image).isSome = true ∧ rowChange 4 1 0 VerdictEntry.cleared.image = none := by
  refine ⟨?_, ?_, ?_, ?_, ?_, ?_, ?_, ?_, ?_, ?_, rfl⟩
  · unfold PlanHeader.InRange OnSteps; decide +kernel
  · unfold Segment.InRange OnSteps; decide +kernel
  · unfold Band.InRange OnSteps; decide +kernel
  · unfold VerdictEntry.InRange; decide +kernel
  · unfold OnSteps; decide
  · unfold OnSteps; decide
  all_goals decide +kernel

theorem test_hyp_bankCopy :
    (headed (standbyB .opened .none) 0x10 []).Heads 0x10 9 [] ∧ (standbyB .opened .none).tables.operation = .none
    ∧ (standbyB .opened .none).tables.activeBank = some .bankA
    ∧ (standbyB .opened .copy).tables.operation = .copy ∧ (standbyB .opened .copy).tables.standby = some .bankB
    ∧ ({ Management.reset with held := some (9, 0x10) } : Management).held = some (9, 0x10) :=
  ⟨rfl, rfl, rfl, rfl, rfl, rfl⟩

theorem test_hyp_tableCommit :
    (headed (standbyB .opened .none) 0x0F [0xD5, 1, 2]).Heads 0x0F 9 [0xD5, 1, 2]
    ∧ (headed (standbyB .opened .none) 0x0F [0xD4, 1, 2]).Heads 0x0F 9 [0xD4, 1, 2] ∧ (0xD4 : Byte) ≠ 0xD5
    ∧ (headed (standbyB .opened .none) 0x0F []).Heads 0x0F 9 []
    ∧ ((standbyB .opened .none).tables.bank .bankB).state = .opened
    ∧ ((standbyB .ready .none).tables.bank .bankB).state ≠ .opened := ⟨rfl, rfl, by decide, rfl, rfl, by decide⟩

theorem test_hyp_verification :
    (standbyB .verifying (.commit 7)).tables.operation = .commit 7
    ∧ (standbyB .verifying (.commit 7)).tables.standby = some .bankB
    ∧ (((standbyB .verifying (.commit 7)).tables.bank .bankB).rows.verify 7).isSome = true :=
  ⟨rfl, rfl, by decide +kernel⟩

/-- Rows that pass every check of Table 9-4: plan 0 alone, one STEP at 10 Hz, one band from 10 to 11 Hz. -/
def goodRows : BankRows :=
  { Bank.reset.rows with plans := Bank.reset.rows.plans.set 0 { Plan.cleared with
      header := { PlanHeader.cleared with defined := true }
      segments := Plan.cleared.segments.set 0
        { Segment.cleared with kind := .step, startFrequency := 10, endFrequency := 10 } } }

theorem test_hyp_verification_succeeds : goodRows.verify goodRows.checksum = none := by decide +kernel

/-- The good rows with plan 0 changed. -/
def goodRowsWith (f : Plan → Plan) : BankRows := { goodRows with plans := goodRows.plans.set 0 (f goodRows.plans[0]) }

/-- A plan with another first segment. -/
def withSegment (x : Segment) (p : Plan) : Plan := { p with segments := p.segments.set 0 x }

/-- What verification finds in rows whose checksum is declared right. -/
def finding (r : BankRows) : Option ErrorDetail := r.verify r.checksum

/-- Checks 2 to 4 of Table 9-4. -/
theorem test_verify_plans :
    finding Bank.reset.rows = some (reasonDetail .noPlan)
    ∧ finding (goodRowsWith (withSegment { Segment.cleared with kind := .silence }))
        = some (rowDetail .noDrivenSegment .planHeader 0 none)
    ∧ finding (goodRowsWith fun p => { p with header := { p.header with bandCount := 2 } })
        = some (rowDetail .bandOrder .band 0 (some 1)) := by decide +kernel
/-- Checks 5 to 8 of Table 9-4. -/
theorem test_verify_rows :
    finding (goodRowsWith (withSegment { Segment.cleared with kind := .step, startFrequency := 11 }))
      = some (rowDetail .bandUnreached .band 0 (some 0))
    ∧ finding (goodRowsWith fun p => { p with header := { p.header with referenceValid := true } })
        = some (rowDetail .referenceMissing .reference 0 (some 0))
    ∧ finding { goodRows with plans := goodRows.plans.set 7 { Plan.cleared with
        references := Plan.cleared.references.set 31 { present := true, response := 0 } } }
        = some (rowDetail .referenceExtra .reference 7 (some 31))
    ∧ finding { goodRows with verdicts := goodRows.verdicts.set 15 { VerdictEntry.cleared with require := 1 } }
        = some { reasonDetail .noCatchAll with kind := some .verdict, row := some 15 } := by decide +kernel

theorem test_hyp_bankSwitch :
    (headed (standbyB .ready .none) 0x11 []).Heads 0x11 9 [] ∧ (standbyB .ready .none).tables.blocked = false
    ∧ ((standbyB .ready .none).tables.bank .bankB).state = .ready
    ∧ ((standbyB .ready .none).tables.bank .bankA).fingerprints = some ((Vector.replicate 8 1).set 0 2)
    ∧ ((standbyB .ready .none).tables.bank .bankB).fingerprints = some (Vector.replicate 8 1)
    ∧ ((Vector.replicate 8 1).set 0 2 : Vector Word16 8)[0] ≠ (Vector.replicate 8 1 : Vector Word16 8)[0]
    ∧ ((Vector.replicate 8 1).set 0 2 : Vector Word16 8)[7] = (Vector.replicate 8 1 : Vector Word16 8)[7]
    ∧ (headed ready 0x12 []).Heads 0x12 9 [] := ⟨rfl, rfl, rfl, rfl, rfl, by decide, by decide, rfl⟩

/-- Map fields that leave everything, but for a debounce time. -/
def mapFields (debounce : Option Nat) : MapFields where
  polarity := Vector.replicate 4 .unchanged
  debounce := (Vector.replicate 4 none).set 0 debounce
  detector := Vector.replicate 4 .unchanged
  mode := Vector.replicate 4 .unchanged
  clampTimeout := none
  settle := none
  releaseTimeout := none

theorem test_hyp_fixtureCommands :
    (headed ready 0x17 [0xFF, 0xFF]).Heads 0x17 9 [0xFF, 0xFF] ∧ (headed ready 0x18 [0, 1]).Heads 0x18 9 [0, 1]
    ∧ (headed ready 0x19 (List.replicate 23 0)).Heads 0x19 9 (List.replicate 23 0)
    ∧ (List.replicate 23 (0 : Byte)).length = 23
    ∧ mapFits (mapFields (some 51)) = false ∧ mapFits (mapFields (some 50)) = true
    ∧ mapTurns (mapFields (some 50)) (ready.map 0) = false ∧ (ready.nest 0).state.testStage = false
    ∧ (∀ i, changedItem (mapFields none) (ready.map 0) i = false)
    ∧ mapTurns { mapFields none with mode := (Vector.replicate 4 .unchanged).set 0 (.given .manual) } (ready.map 0) = true
    ∧ mapFits { mapFields none with mode := (Vector.replicate 4 .unchanged).set 0 (.given .manual) } = true :=
  ⟨rfl, rfl, rfl, rfl, by decide, by decide, by decide, rfl,
    by rintro (l | _ | _) <;> first | rfl | (cases l <;> decide), by decide, by decide⟩

/-- A map write that makes a debounce or a timeout due. -/
def mapDevice (x : Nest) : Device :=
  { with0 x with fixture := ready.fixture.set 0 { FixtureLines.reset with count := Vector.replicate 4 480 } }

theorem test_hyp_mapDue :
    (mapFields (some 5)).debounce[inputIndex .present] = some 5
    ∧ 5 ≠ ((mapDevice Nest.reset).map 0).debounce[inputIndex .present]
    ∧ argDiffers (mapFields (some 5)).polarity[inputIndex .present]
        ((mapDevice Nest.reset).map 0).polarity[inputIndex .present] = false
    ∧ 96 * 5 ≤ ((mapDevice Nest.reset).fixture[(0 : NestId)]).count[inputIndex .present]
    ∧ (∀ k : Fin 4, { mapFields none with clampTimeout := some 500, releaseTimeout := some 500 }.debounce[k] = none)
    ∧ mapFits { mapFields none with clampTimeout := some 500, releaseTimeout := some 500 } = true
    ∧ 500 ≠ ((mapDevice Nest.reset).map 0).clampTimeout ∧ 500 ≠ ((mapDevice Nest.reset).map 0).releaseTimeout
    ∧ 96 * 500 ≤ ((mapDevice { nestIn .clamping (some unit) with clampTimer := 48000 }).nest 0).clampTimer
    ∧ 96 * 500 ≤ ((mapDevice { nestIn .releasing none with releaseTimer := 48000 }).nest 0).releaseTimer
    ∧ ((mapDevice { nestIn .clamping (some unit) with clampTimer := 48000 }).nest 0).settling = none := by
  refine ⟨?_, ?_, ?_, ?_, ?_, ?_, ?_, ?_, ?_, ?_, rfl⟩ <;> decide

/-- A nest whose input has differed for the default debounce time, at these taken levels. -/
def debounced (x : Nest) (taken : Vector Bool 4) : Device :=
  { with0 x with
    fixture := ready.fixture.set 0 { FixtureLines.reset with taken := taken, count := Vector.replicate 4 960 } }

theorem test_hyp_inputChange :
    (debounced Nest.reset (Vector.replicate 4 false)).nestPort.locked = true
    ∧ (∀ l, 1 ≤ ((debounced Nest.reset (Vector.replicate 4 false)).fixture[(0 : NestId)]).count[inputIndex l]
      ∧ 96 * ((debounced Nest.reset (Vector.replicate 4 false)).map 0).debounce[inputIndex l]
        ≤ ((debounced Nest.reset (Vector.replicate 4 false)).fixture[(0 : NestId)]).count[inputIndex l])
    ∧ (debounced Nest.reset (Vector.replicate 4 false)).taken 0 .present = false
    ∧ (debounced Nest.reset (Vector.replicate 4 true)).taken 0 .clamped = true
    ∧ ((debounced (nestIn .clamping (some unit)) (Vector.replicate 4 false)).map 0).settle ≠ 0
    ∧ ((debounced (nestIn .clamping (some unit)) (Vector.replicate 4 false)).nest 0).settling = none
    ∧ ((debounced (nestIn .releasing none) (Vector.replicate 4 true)).nest 0).loopback = false :=
  ⟨rfl, by intro l; cases l <;> decide, rfl, by decide, by decide, rfl, rfl⟩

/-- The losses: each stage with its part lost, and LID with and without its detector. -/
theorem test_hyp_inputLoss :
    (∀ l, (debounced (nestIn .sweeping (some unit)) (Vector.replicate 4 true)).taken 0 l = true)
    ∧ ((debounced (nestIn .sweeping (some unit)) (Vector.replicate 4 true)).nest 0).state.endsEarly = true
    ∧ ((debounced (nestIn .labelWait (some unit)) (Vector.replicate 4 true)).nest 0).record = some unit
    ∧ ((debounced (nestIn .marking (some unit)) (Vector.replicate 4 true)).nest 0).state ≠ .clamping
    ∧ (debounced Nest.reset (Vector.replicate 4 true)).detects 0 .lid = false
    ∧ ({ lidOpen with fixture := lidOpen.fixture.set 0 { lidOpen.fixture[0] with
          taken := Vector.replicate 4 true } } : Device).detects 0 .lid = true :=
  ⟨by intro l; cases l <;> decide, rfl, rfl, by decide, by decide, by decide⟩

theorem test_hyp_timers :
    (96 * (ready.map 0).clampTimeout ≤ 192000 ∧ 96 * (ready.map 0).releaseTimeout ≤ 192000)
    ∧ ((with0 { nestIn .clamping (some unit) with clampTimer := 192000 }).nest 0).settling = none
    ∧ ((with0 { nestIn .releasing none with releaseTimer := 192000 }).nest 0).state = .releasing
    ∧ ((with0 { nestIn .marking (some { unit with verdict := some passVerdict }) with
          markClaim := true, markTimer := 960 }).nest 0).markClaim = true
    ∧ 96 * passVerdict.markPulse ≤ 960
    ∧ ({ NoticeArbiter.reset with timer := some 9600 } : NoticeArbiter).timer = some 9600
    ∧ 96 * NoticeArbiter.reset.coalescingTime ≤ 9600 := by decide

/-- A lock pilot of 24,000 Hz at -20.0 dBFS, with the sense level to be -20.0 ± 0.5 dBFS. -/
def lockHeader : PlanHeader :=
  { PlanHeader.cleared with
    defined := true, pilotFrequency := 24000, pilotLevel := -200, senseTarget := -200, lockTolerance := 5
    noSignalFloor := -400 }

/-- One turn of 24,000 Hz with a peak. -/
def quarterTurns (peak : Int) : List Sample := [0, peak, 0, -peak].map (BitVec.ofInt 16)

/-- Nest 0 at the end of an interval that took these peaks from its two channels, after some intervals in tolerance. -/
def lockNest (sense pilot : Int) (inTolerance : Nat) : Device :=
  planned lockHeader Segment.cleared { nestIn .levelLock (some { unit with sub := .locking }) with
    tone := { locking 1920 0 inTolerance with sense := quarterTurns sense, pilot := quarterTurns pilot } }

/-- The gain, the in-tolerance count and the state of nest 0 after the row. -/
def lockOutcome (d : Device) : Option (Int × Nat × NestState) :=
  match exec (.lockIntervalEnd 0 1 0) (stateOf d) with
  | .next t => some ((t.dev.nest 0).tone.gain, (t.dev.nest 0).tone.inTolerance, (t.dev.nest 0).state)
  | _ => none

theorem test_hyp_levelLock :
    ((lockNest 0 0 2).nest 0).tone.mode = .lock ∧ ((lockNest 0 0 2).nest 0).state = .levelLock
    ∧ 1920 * (0 + 1) ≤ 96 * lockHeader.lockTimeout * unit.dwell ∧ ((lockNest 0 0 2).planOf unit).header = lockHeader
    ∧ ((lockNest 0 0 2).nest 0).loopback = false
    ∧ 96 * lockHeader.lockTimeout * unit.dwell ≤ 48000 ∧ 48000 < 1920 * (25 + 1) := by
  refine ⟨rfl, rfl, ?_, ?_, rfl, ?_, ?_⟩ <;> decide +kernel
/-- The bounds of the tolerance lie between the peaks 3093 and 3094, and 3470 and 3471: 20.5 and 19.5 dB below 32,767.
-/
theorem test_lockTolerance :
    lockOutcome (lockNest 3094 0 0) = some (0, 1, .levelLock) ∧ lockOutcome (lockNest 3470 0 1) = some (0, 2, .levelLock)
    ∧ lockOutcome (lockNest 3093 0 2) = some (5, 0, .levelLock)
    ∧ lockOutcome (lockNest 3471 0 2) = some (-5, 0, .levelLock) := by decide +kernel
/-- Silence moves the gain by +6.0 dB, and full scale by -6.0 dB (R38). -/
theorem test_lockMove :
    lockOutcome (lockNest 0 0 0) = some (60, 0, .levelLock) ∧ lockOutcome (lockNest 32767 0 0) = some (-60, 0, .levelLock)
    ∧ withinTolerance lockHeader (componentPower 24000 (quarterTurns (-3277))) = true := by decide +kernel
/-- The third interval in tolerance, with the pilot at the floor of 40.0 dB below -20.0 dBFS, and below it (R39). -/
theorem test_lockReached :
    lockOutcome (lockNest 3277 33 2) = some (0, 0, .quietCheck)
    ∧ lockOutcome (lockNest 3277 32 2) = some (0, 0, .judging) := by decide +kernel
/-- A row that names another interval changes nothing (log 2). -/
theorem test_lockInterval_other :
    exec (.lockIntervalEnd 0 1 1) (stateOf (lockNest 0 0 2)) = .next (stateOf (lockNest 0 0 2)) := rfl
/-- A lock pilot takes a sample of each channel every frame (R38, R39). -/
theorem test_lockSamples :
    (lockNest 1 2 0).toneAfterFrame 0 7 9
      = { (((lockNest 1 2 0).nest 0).tone) with
          timer := 1921, phase := 24000 * 2 ^ 32, sense := [0, 1, 0, -1, 7], pilot := [0, 2, 0, -2, 9] } := by
  decide +kernel

theorem test_hyp_quietCheck :
    ((with0 (measuring 4800)).nest 0).state = .quietCheck ∧ 4800 * unit.dwell ≤ 4800
    ∧ (measuring 4800).isQuiet PlanHeader.cleared = true
    ∧ { measuring 4800 with quietCount := 2, quietSquares := 32767 ^ 2 / 1000000 }.isQuiet PlanHeader.cleared = true
    ∧ { measuring 4800 with quietCount := 2, quietSquares := 32767 ^ 2 / 1000000 + 1 }.isQuiet PlanHeader.cleared = false
    ∧ PlanHeader.cleared.quietRetries ≤ unit.quietAttempts ∧ unit.quietAttempts < 1 := by decide +kernel

theorem test_hyp_windowClose :
    ((with0 (sweeping 9600 0)).nest 0).tone.mode = .segment
    ∧ 0 < windowCount Segment.cleared 1 ∧ (windowSpan Segment.cleared 1 0 0).micEnd ≤ 9600
    ∧ (windowSpan Segment.cleared 1 0 0).isEmpty = false
    ∧ (windowSpan { Segment.cleared with duration := 1 } 1 1 0).isEmpty = true
    ∧ PlanHeader.cleared.resweeps < unit.resweeps + 1 ∧ unit.resweeps + 1 ≤ 1 := by decide
theorem test_hyp_windowClose_capture :
    ({ Segment.cleared with capture := true } : Segment).capture = true
    ∧ ({ PlanHeader.cleared with capturePolicy := .always } : PlanHeader).capturePolicy ≠ .none
    ∧ unit.chain.fill ≤ 4096 ∧ goodRows.plans[0].bandAt 10 = some 0
    ∧ (goodRows.plans[0].segments[(0 : Fin 24)]).kind = .step := by decide +kernel

/-- Nest 0 at the end of a window of this kind at 12,000 Hz that took these ambient samples. -/
def guarded (k : SegmentKind) (ambient : List Sample) : Device :=
  planned { PlanHeader.cleared with defined := true } { Segment.cleared with kind := k, startFrequency := 12000 }
    { sweeping 9600 0 with
      engine :=
        { window := some (OpenWindow.mk 0 0 0 9600 0 9600 .none [1] ambient 1 1 (ambient.map sampleSquare).sum)
          closed := 0 } }

/-- One turn of a tone of 12,000 Hz, with an offset of every sample. -/
def turnWith (offset : Int) : List Sample :=
  [0, 7071, 10000, 7071, 0, -7071, -10000, -7071].map fun x => BitVec.ofInt 16 (x + offset)

/-- The ambient level at its limit of -40.0 dBFS, a square of 53,683 a sample: all of it for a SILENCE window; a loud
tone of the drive's frequency is left out of a driven one, and what is beside it decides (R63; log 39). -/
theorem test_hyp_windowVoid :
    (guarded .silence [231]).windowIsVoid 0 unit = false ∧ (guarded .silence [232]).windowIsVoid 0 unit = true
    ∧ (guarded .silence (turnWith 0)).windowIsVoid 0 unit = true
    ∧ (guarded .step (turnWith 0)).windowIsVoid 0 unit = false
    ∧ (guarded .step (turnWith 231)).windowIsVoid 0 unit = false
    ∧ (guarded .step (turnWith 232)).windowIsVoid 0 unit = true := by decide +kernel
/-- A tone of the drive, and one at its fifth harmonic, are left out; an offset is not. A range of frequencies is
equally spaced tones from one end to the other; one of 2500 Hz over 96 samples, three multiples of 1000 Hz, is eight. -/
theorem test_excludedSquares :
    excludedSquares 12000 12000 (turnWith 0) = 0 ∧ excludedSquares 12000 12000 (turnWith 100) = 80000
    ∧ excludedSquares 2400 2400 (turnWith 0) ≤ 1
    ∧ driveRange PlanHeader.cleared { exampleChirp with duration := 26 } 0 = (100, 10000)
    ∧ rangeRates 500 500 96 3 = [⟨1500, 96000⟩]
    ∧ (rangeRates 500 3000 96 1).map ToneRate.turns = [3500, 6000, 8500, 11000, 13500, 16000, 18500, 21000]
    ∧ (rangeRates 500 3000 96 1).map ToneRate.frames = List.replicate 8 (96000 * 7) := by decide +kernel

/-- The signal of a window: the drive in loopback, none where every sample is 0 (section 4.2, R79). -/
theorem test_windowSignal :
    ((guarded .step []).nest 0).windowSignal = .sound ∧ Nest.reset.windowSignal = .none
    ∧ { (guarded .step []).nest 0 with loopback := true }.windowSignal = .drive
    ∧ heldFundamental .none (-100) anyMeasures = -1200 ∧ heldFundamental .drive (-100) anyMeasures = -100
    ∧ heldFundamental .sound (-100) { anyMeasures with fundamental := 21 } = 0
    ∧ silenceBuzz .drive (-1000) anyMeasures = -1200 ∧ silenceBuzz .none 0 anyMeasures = -1200
    ∧ silenceBuzz .sound (-100) anyMeasures = -600 := by decide +kernel

/-- A chirp of 16 ms in one sub-window, and one of 35 ms in three, lie in the range of the frequency clause. -/
theorem test_hyp_chirp :
    windowCount { exampleChirp with duration := 26 } 1 = 1 ∧ windowCount { exampleChirp with duration := 45 } 1 = 3
    ∧ max 1 (16 / 10) = 1 ∧ max 1 (35 / 10) = 3
    ∧ subWindowFrequency { exampleChirp with duration := 26 } 0 = 1000
    ∧ (10 ≤ exampleChirp.startFrequency ∧ exampleChirp.endFrequency ≤ 24000) := by decide +kernel

/-- A SILENCE segment after a STEP segment feeds the band of the step. -/
def silentPlan : Plan :=
  { examplePlan with segments := (Plan.cleared.segments.set 0
      { Segment.cleared with kind := .step, startFrequency := 300 }) }
theorem test_hyp_silence :
    silenceFeeds silentPlan (silentPlan.segmentBefore 1) = (some 300, [1])
    ∧ silenceFeeds silentPlan (silentPlan.segmentBefore 0) = (none, [])
    ∧ (silentPlan.segments[(1 : Fin 24)]).kind = .silence := by decide +kernel
/-- The window carries the range of that band; with an empty residue it feeds none and carries no frequency (R68, R73).
-/
theorem test_silence_frequency :
    silentPlan.openFrequency 1 Segment.cleared 0 = .range 300 3000
    ∧ silentPlan.openFrequency 0 Segment.cleared 0 = .none
    ∧ silenceBands silentPlan (some { Segment.cleared with kind := .step, startFrequency := 4799 }) = [2]
    ∧ silenceBands silentPlan (some { Segment.cleared with kind := .step, startFrequency := 4800 }) = []
    ∧ silenceBands silentPlan (some { Segment.cleared with kind := .chirp, startFrequency := 10000 }) = [1, 2] := by
  decide +kernel

/-- A captured window: a chain of one block with room for one sample, below a limit of two blocks, and one block free.
-/
def capturing : State :=
  stateOf { planned { PlanHeader.cleared with defined := true, capturePolicy := .always, captureBlockLimit := 2 }
      { Segment.cleared with capture := true } { sweeping 9600 0 with
        record := some { unit with
          sub := .running
          chain := { blocks := [3], fill := 4095, status := .taken, recording := true } }
        engine := { window := some { OpenWindow.mk 0 0 0 9600 0 9600 .none [1, 2] [3, 4] 5 2 25 with index := 0 }
                    closed := 0 } } with
    pool := { CapturePool.reset with free := (List.finRange 64).filter fun b => decide (b ≠ 3) } }

theorem test_hyp_windowCaptured :
    PoolKept capturing ∧ (capturing.dev.nest 0).state = .sweeping ∧ (capturing.dev.nest 0).tone.mode = .segment
    ∧ 0 < windowCount { Segment.cleared with capture := true } 1
    ∧ (windowSpan { Segment.cleared with capture := true } 1 0 0).micEnd ≤ 9600
    ∧ (windowSpan { Segment.cleared with capture := true } 1 0 0).isEmpty = false
    ∧ ((capturing.dev.nest 0).record.map fun r => r.chain.sampleCount) = some 4095
    ∧ capturing.dev.windowIsVoid 0 unit = false
    ∧ (capturing.dev.nest 0).windowSamples = [1, 2] := by
  refine ⟨⟨⟨by decide, by decide, by decide, by decide⟩, ⟨by decide, by decide, by decide +kernel, by decide +kernel⟩,
    by decide +kernel, fun n r hs _ => ?_⟩, rfl, rfl, by decide, by decide, by decide, by decide, by decide +kernel, rfl⟩
  have : ∀ n, (capturing.dev.nest n).state ≠ .marking := by decide
  exact absurd hs (this n)
/-- The chain crosses into the free block: two samples join it. -/
theorem test_windowCaptured :
    (match exec (.windowClose 0 anyMeasures) capturing with
      | .next t => (t.dev.nest 0).record.map fun r => (r.chain.blocks, r.chain.fill, r.chain.status)
      | _ => none) = some ([3, 0], 1, .taken) := by decide +kernel

theorem test_hyp_segmentEnd :
    durationFrames Segment.cleared 1 ≤ 9600 ∧ windowCount Segment.cleared 1 ≤ 1
    ∧ PlanHeader.cleared.segmentCount ≤ (0 : Fin 24).val + 1 := by decide

theorem test_hyp_judging :
    ((with0 (nestIn .judging (some unit))).nest 0).state = .judging ∧ unit.role ≠ .golden
    ∧ selectEntry rows (judgedFailures ((with0 (nestIn .judging (some unit))).planOf unit) unit) = some 0
    ∧ (rows.verdicts[(0 : Fin 16)]).retest = false
    ∧ selectEntry { rows with verdicts := Vector.replicate 16 { VerdictEntry.cleared with retest := true } }
        (judgedFailures ((with0 (nestIn .judging (some unit))).planOf unit) unit) = some 0
    ∧ unit.tries - 1 < 1 ∧ PlanHeader.cleared.retestLimit ≤ unit.tries - 1
    ∧ 64 ≤ fullRing.posted ∧ fullRing.waitQueue = [] ∧ LabelUnit.reset.posted < 64 := by
  refine ⟨rfl, by decide, ?_, ?_, ?_, ?_⟩ <;> decide +kernel

/-- Nest 0 in JUDGING with every output claimed by the entry, its CLAMPED and PRESENT taken as given. -/
def marked (actions : ActionSet) (level : Bool) : Device :=
  { with0 (nestIn .judging (some unit)) with
    tables := { ready.tables with bankA := { loadedBank with rows := { rows with
      verdicts := Vector.replicate 16 { VerdictEntry.cleared with cls := .pass, actions := actions, bin := 5 } } } }
    fixture := ready.fixture.set 0 { FixtureLines.reset with taken := Vector.replicate 4 level } }

/-- The state and the claims of nest 0 after the row. -/
def claims (o : Host.Outcome State Fault Refusal) : Option (NestState × Bool × Bool × Bool) :=
  match o with
  | .next t => some ((t.dev.nest 0).state, (t.dev.nest 0).markClaim, (t.dev.nest 0).gateClaim, (t.dev.nest 0).lampClaim)
  | _ => none

/-- MARKING makes the claims of the action set, and without MARK ends in its step; EMPTY withdraws them (R21, R108). -/
theorem test_markingClaims :
    claims (exec (.judgeComplete 0) (stateOf (marked 7 true))) = some (.marking, true, true, true)
    ∧ claims (exec (.judgeComplete 0) (stateOf (marked 4 true))) = some (.releasing, false, false, true)
    ∧ claims (exec (.judgeComplete 0) (stateOf (marked 6 false))) = some (.empty, false, false, false) := by
  decide +kernel
/-- A PRODUCTION PASS of bin 5 raises LABELLED and BIN 5 (R113). -/
theorem test_labelCounted :
    (match exec (.judgeComplete 0) (stateOf (marked 0 true)) with
      | .next t => some t.dev.yields.live[0]
      | _ => none) = some { Counters.zero with labelled := 1, bins := Counters.zero.bins.set 5 1 }
    ∧ Counters.zero.countLabel (earlyEndLabel 1 0 unit) = { Counters.zero with labelled := 1, voided := 1 } := by
  decide +kernel
/-- The CLAMP line follows the test stages in SEQUENCER mode and the manual level in MANUAL mode (R4, R171). -/
theorem test_lineState :
    (with0 (nestIn .clamping (some unit))).lineState 0 0 = true ∧ (with0 (nestIn .releasing none)).lineState 0 0 = false
    ∧ ({ with0 (nestIn .clamping (some unit)) with fixture := ready.fixture.set 0 { FixtureLines.reset with
        map := { FixtureLines.reset.map with mode := Vector.replicate 4 .manual } } } : Device).lineState 0 0 = false
    ∧ (with0 { nestIn .marking (some unit) with markClaim := true }).lines = 0x0003 := by decide +kernel

/-- The capture decision of Table 5-2, row by row. -/
theorem test_captureKept :
    (∀ c p, captureKept .suppress p c = false) ∧ (∀ o c, captureKept o .none c = false)
    ∧ (∀ c, captureKept .force .onFail c = true ∧ captureKept .force .always c = true
        ∧ captureKept .inherit .always c = true)
    ∧ captureKept .inherit .onFail .fail = true ∧ captureKept .inherit .onFail .void = true
    ∧ captureKept .inherit .onFail .pass = false := by
  refine ⟨?_, ?_, ?_, rfl, rfl, rfl⟩
  · intro c p; cases p <;> rfl
  · intro o c; cases o <;> rfl
  · intro c; exact ⟨rfl, rfl, rfl⟩

/-- A distortion at its limit passes with 0.0 dB; one just above it fails with 0.0 dB rounded, taken as -0.1 (R85). -/
theorem test_distortionMargin_edges :
    distortionMargin 300 300 = 0 ∧ distortionMargin 300 301 = -1 ∧ distortionMargin 10000 1 = 800
    ∧ distortionMargin 1 10000 = -800 := by decide +kernel

/-- Nest 0 in JUDGING with a drift window that a posting fills, and plan 0's record OK. -/
def drifting (w : DriftWindow) : Device :=
  { with0 (nestIn .judging (some unit)) with calibration :=
      { CalibrationStore.reset.setRecord 0 0 { CalRecord.reset with state := .ok } with
        drift := CalibrationStore.reset.drift.set 0 w } }

theorem test_hyp_posting :
    unit.role = .production ∧ ({ unit with role := .engineering } : UnitRecord).role ≠ .golden
    ∧ ((drifting { labels := 99, marginals := 10, length := 100, limit := 10 }).calibration.drift[(0 : NestId)]).length
        ≤ 99 + 1
    ∧ (98 + 1 < 100) ∧ (10 : Nat) ≤ 10
    ∧ ((drifting { labels := 99, marginals := 10, length := 100, limit := 10 }).calibration.record 0 0).state = .ok
    ∧ (drifting { labels := 99, marginals := 10, length := 100, limit := 10 }).activeReferenceValid 0 = true
    ∧ NoticeArbiter.reset.labelsPosted ≠ 0xFFFFFFFF
    ∧ hasFailure (judgedFailures ((with0 (nestIn .judging (some unit))).planOf unit) unit) .marginal = false := by
  decide +kernel

/-- A GOLDEN unit of plan 0. -/
def goldenUnit : UnitRecord := { unit with role := .golden, generation := 0 }

theorem test_hyp_golden :
    ((with0 (nestIn .judging (some goldenUnit))).nest 0).record = some goldenUnit ∧ goldenUnit.role = .golden
    ∧ goldenUnit.generation = ((with0 (nestIn .judging (some goldenUnit))).calibration.record 0 goldenUnit.plan).stamp
    ∧ ({ goldenUnit with generation := 1 } : UnitRecord).generation
        ≠ ((with0 (nestIn .judging (some goldenUnit))).calibration.record 0 goldenUnit.plan).stamp
    ∧ hasFailure (addUnmeasured ((with0 (nestIn .judging (some goldenUnit))).planOf goldenUnit) goldenUnit
        (addFailure 0 .noise)) .noise = true := by
  refine ⟨rfl, rfl, ?_, ?_, ?_⟩ <;> decide +kernel

/-- A golden mean that divides evenly, and one that leaves a remainder. -/
theorem test_hyp_goldenMean :
    ({ measured 4 0 0 1 0 0 with uncorrectedSum := -8 } : Accumulator).mean = some (-2)
    ∧ (-8 : Int) % (4 : Nat) = 0 ∧ (-9 : Int) % (4 : Nat) ≠ 0 ∧ (-9 : Int) / (4 : Nat) = -3
    ∧ (1 : Nat) ≤ (measured 4 0 0 1 0 0).windowCount := by decide

/-- A golden unit carries no worst band (R97). -/
theorem test_goldenLabel :
    (verdictLabel 1 0 { goldenUnit with worst := some (0, 1) } (goldenVerdict .pass)).worst = none
    ∧ (verdictLabel 1 0 { unit with worst := some (0, 1) } passVerdict).worst = some (0, 1) := by decide

end Sys2Proof.Machine.Tests
end

/-! COUNTER READ (O44). Its reply is read off the snapshot set, and no row but COUNTER SNAPSHOT and power-on reset
writes that set or its number (R118). The second half is a frame fact: `Device.lastSnapshot` is pushed through every
operation of the blocks, then through every row. -/

namespace Sys2Proof.Machine

/-! ## The last snapshot -/

/-- The snapshot set with its number: what COUNTER READ reports from (R118). -/
def Device.lastSnapshot (d : Device) : Vector Counters 4 × Word32 := (d.yields.snapshot, d.yields.number)

theorem Device.lastSnapshot_eq_iff {d e : Device} :
    e.lastSnapshot = d.lastSnapshot ↔ e.yields.snapshot = d.yields.snapshot ∧ e.yields.number = d.yields.number :=
  Prod.mk_inj

/-- A fold of operations that keep the last snapshot keeps it. -/
theorem foldl_lastSnapshot {α : Type} {f : Device → α → Device}
    (h : ∀ d a, (f d a).lastSnapshot = d.lastSnapshot) (l : List α) (d : Device) :
    (l.foldl f d).lastSnapshot = d.lastSnapshot :=
  List.foldlRecOn l f (motive := fun e => e.lastSnapshot = d.lastSnapshot) rfl fun e he a _ => (h e a).trans he

/-! ## Changes of one block -/

@[simp] theorem Device.setNest_lastSnapshot (d : Device) (n : NestId) (x : Nest) :
    (d.setNest n x).lastSnapshot = d.lastSnapshot := rfl
@[simp] theorem Device.modNest_lastSnapshot (d : Device) (n : NestId) (f : Nest → Nest) :
    (d.modNest n f).lastSnapshot = d.lastSnapshot := rfl
@[simp] theorem Device.modRecord_lastSnapshot (d : Device) (n : NestId) (f : UnitRecord → UnitRecord) :
    (d.modRecord n f).lastSnapshot = d.lastSnapshot := rfl
@[simp] theorem Device.addHistory_lastSnapshot (d : Device) (n : NestId) (e : HistoryEvent) :
    (d.addHistory n e).lastSnapshot = d.lastSnapshot := rfl
@[simp] theorem Device.setState_lastSnapshot (d : Device) (n : NestId) (st : NestState) :
    (d.setState n st).lastSnapshot = d.lastSnapshot := rfl
@[simp] theorem Device.addFailureTo_lastSnapshot (d : Device) (n : NestId) (c : FailureClass) :
    (d.addFailureTo n c).lastSnapshot = d.lastSnapshot := rfl
@[simp] theorem Device.silence_lastSnapshot (d : Device) (n : NestId) :
    (d.silence n).lastSnapshot = d.lastSnapshot := rfl
@[simp] theorem Device.raise_lastSnapshot (d : Device) (i : SourceId) :
    (d.raise i).lastSnapshot = d.lastSnapshot := rfl
@[simp] theorem Device.raiseCal_lastSnapshot (d : Device) (n : NestId) (k : CalCause) (p : Option PlanId) :
    (d.raiseCal n k p).lastSnapshot = d.lastSnapshot := rfl
@[simp] theorem Device.freeChain_lastSnapshot (d : Device) (c : Chain) :
    (d.freeChain c).lastSnapshot = d.lastSnapshot := rfl
@[simp] theorem Device.modLines_lastSnapshot (d : Device) (n : NestId) (f : FixtureLines → FixtureLines) :
    (d.modLines n f).lastSnapshot = d.lastSnapshot := rfl

/-- A count goes to the live set alone (R111). -/
@[simp] theorem Device.count_lastSnapshot (d : Device) (n : NestId) (f : Counters → Counters) :
    (d.count n f).lastSnapshot = d.lastSnapshot := rfl

@[simp] theorem Device.guardWindow_lastSnapshot (d : Device) (n : NestId) (a : AmbientLevel) (b : Bool) :
    (d.guardWindow n a b).lastSnapshot = d.lastSnapshot := by
  rw [(d.guardWindow_frame n a b).1]; rfl

/-! ## Starts -/

theorem StartsOnly.lastSnapshot {d e : Device} (h : StartsOnly d e) : e.lastSnapshot = d.lastSnapshot := by
  rw [h.frame]; rfl

@[simp] theorem Device.presentStart_lastSnapshot (d : Device) (n : NestId) :
    (d.presentStart n).lastSnapshot = d.lastSnapshot := (d.presentStart_startsOnly n).lastSnapshot

@[simp] theorem Device.leaveArbiter_lastSnapshot (d : Device) (n : NestId) :
    (d.leaveArbiter n).lastSnapshot = d.lastSnapshot := (d.leaveArbiter_startsOnly n).lastSnapshot

@[simp] theorem Device.enterLevelLock_lastSnapshot (d : Device) (n : NestId) :
    (d.enterLevelLock n).lastSnapshot = d.lastSnapshot := by
  rw [(d.enterLevelLock_spec n).frame]; rfl

@[simp] theorem Device.clampedTaken_lastSnapshot (d : Device) (n : NestId) :
    (d.clampedTaken n).lastSnapshot = d.lastSnapshot := by
  simp only [Device.clampedTaken]
  split <;> simp

/-- A start counts STARTED in the live set (R10). -/
@[simp] theorem Device.startUnit_lastSnapshot (d : Device) (n : NestId) (role : Role) (p : PlanId) (serial : List Byte)
    (lot : Word32) (b : BankId) : (d.startUnit n role p serial lot b).lastSnapshot = d.lastSnapshot := by
  obtain ⟨_, _, _, _, hyields, _, _⟩ := d.startUnit_starts n role p serial lot b
  simp [Device.lastSnapshot, hyields]

@[simp] theorem Device.autoStartTest_lastSnapshot (d : Device) (n : NestId) :
    (d.autoStartTest n).lastSnapshot = d.lastSnapshot := by
  simp only [Device.autoStartTest]
  split
  · rfl
  · split
    · split
      · simp
      · rfl
    · rfl

/-! ## States without a unit -/

@[simp] theorem Device.enterEmpty_lastSnapshot (d : Device) (n : NestId) :
    (d.enterEmpty n).lastSnapshot = d.lastSnapshot := rfl

@[simp] theorem Device.enterFault_lastSnapshot (d : Device) (n : NestId) :
    (d.enterFault n).lastSnapshot = d.lastSnapshot := rfl

@[simp] theorem Device.enterLoaded_lastSnapshot (d : Device) (n : NestId) :
    (d.enterLoaded n).lastSnapshot = d.lastSnapshot := by simp [Device.enterLoaded]

@[simp] theorem Device.enterDone_lastSnapshot (d : Device) (n : NestId) :
    (d.enterDone n).lastSnapshot = d.lastSnapshot := by simp [Device.enterDone_eq]

@[simp] theorem Device.enterReleasing_lastSnapshot (d : Device) (n : NestId) :
    (d.enterReleasing n).lastSnapshot = d.lastSnapshot := by
  obtain ⟨y, h, _⟩ := d.enterReleasing_exits n
  simp [h]

@[simp] theorem Device.exitTest_lastSnapshot (d : Device) (n : NestId) :
    (d.exitTest n).lastSnapshot = d.lastSnapshot := by
  obtain ⟨y, h, _⟩ := d.exitTest_exits n
  simp [h]

@[simp] theorem Device.leaveFault_lastSnapshot (d : Device) (n : NestId) :
    (d.leaveFault n).lastSnapshot = d.lastSnapshot := by
  simp only [Device.leaveFault]
  split <;> simp

/-! ## Labels and the end of a unit -/

/-- A label is counted in the live set (R101, R113). -/
@[simp] theorem Device.postLabel_lastSnapshot (d : Device) (n : NestId) (l : Label) (chain : Option Chain) :
    (d.postLabel n l chain).lastSnapshot = d.lastSnapshot := by
  simp [Device.lastSnapshot, (d.postLabel_spec n l chain).yields]

@[simp] theorem Device.postVerdict_lastSnapshot (d : Device) (n : NestId) (r : UnitRecord) (v : Verdict) :
    (d.postVerdict n r v).lastSnapshot = d.lastSnapshot := by
  simp [Device.lastSnapshot, (d.postVerdict_spec n r v).yields]

@[simp] theorem Device.endInTest_lastSnapshot (d : Device) (n : NestId) (r : UnitRecord) :
    (d.endInTest n r).lastSnapshot = d.lastSnapshot := by
  rw [(d.endInTest_spec n r).frame]; rfl

@[simp] theorem Device.discardUnit_lastSnapshot (d : Device) (n : NestId) (r : UnitRecord) :
    (d.discardUnit n r).lastSnapshot = d.lastSnapshot := Device.endInTest_lastSnapshot _ n r

@[simp] theorem Device.afterEnd_lastSnapshot (d : Device) (n : NestId) (cause : FailureClass) :
    (d.afterEnd n cause).lastSnapshot = d.lastSnapshot := by
  obtain ⟨y, a, h, _⟩ := d.afterEnd_spec n cause
  rw [h]; rfl

@[simp] theorem Device.earlyEnd_lastSnapshot (d : Device) (n : NestId) (cause : FailureClass) :
    (d.earlyEnd n cause).lastSnapshot = d.lastSnapshot := by
  cases hr : (d.nest n).record with
  | none => simp [Device.earlyEnd, hr]
  | some r =>
    rw [Device.earlyEnd_eq cause hr, Device.afterEnd_lastSnapshot]
    split <;> simp

@[simp] theorem Device.enterMarking_lastSnapshot (d : Device) (n : NestId) (v : Verdict) :
    (d.enterMarking n v).lastSnapshot = d.lastSnapshot := by
  obtain ⟨y, h, _⟩ := d.enterMarking_spec n v
  simp [h]

@[simp] theorem Device.finalVerdict_lastSnapshot (d : Device) (n : NestId) (v : Verdict) (stale : Bool) :
    (d.finalVerdict n v stale).lastSnapshot = d.lastSnapshot := by
  simp only [Device.finalVerdict]
  split
  · rfl
  · split
    · simp
    · split <;> rfl

theorem Device.grantClaim_lastSnapshot (d : Device) (n : NestId) :
    (d.grantClaim n).lastSnapshot = d.lastSnapshot := by
  simp only [Device.grantClaim]
  split
  · rfl
  · split
    · rfl
    · split <;> simp

theorem Device.grantEntry_lastSnapshot (d : Device) : d.grantEntry.lastSnapshot = d.lastSnapshot := by
  simp only [Device.grantEntry]
  split
  · rfl
  · split
    · exact Device.grantClaim_lastSnapshot _ _
    · rfl

@[simp] theorem Device.grantEntries_lastSnapshot (k : Nat) (d : Device) :
    (Device.grantEntries k d).lastSnapshot = d.lastSnapshot := by
  induction k generalizing d with
  | zero => rfl
  | succ k ih => rw [Device.grantEntries, ih, Device.grantEntry_lastSnapshot]

/-! ## Fixture changes -/

@[simp] theorem Device.fixtureLoss_lastSnapshot (d : Device) (n : NestId) :
    (d.fixtureLoss n).lastSnapshot = d.lastSnapshot := by
  simp only [Device.fixtureLoss, Device.endMarking]
  split <;> simp

@[simp] theorem Device.presentChange_lastSnapshot (d : Device) (n : NestId) (level : Bool) :
    (d.presentChange n level).lastSnapshot = d.lastSnapshot := by
  simp only [Device.presentChange]
  split <;> simp

@[simp] theorem Device.clampedChange_lastSnapshot (d : Device) (n : NestId) (level : Bool) :
    (d.clampedChange n level).lastSnapshot = d.lastSnapshot := by
  simp only [Device.clampedChange]
  split
  · split <;> simp
  all_goals simp

@[simp] theorem Device.sequencerChange_lastSnapshot (d : Device) (n : NestId) (l : InputLine) (level : Bool) :
    (d.sequencerChange n l level).lastSnapshot = d.lastSnapshot := by
  simp only [Device.sequencerChange]
  split
  · rfl
  · cases l with
    | present => simp
    | clamped => simp
    | lid => dsimp only; split <;> simp
    | aux => rfl

@[simp] theorem Device.takeLevel_lastSnapshot (d : Device) (n : NestId) (l : InputLine) :
    (d.takeLevel n l).lastSnapshot = d.lastSnapshot := by
  simp only [Device.takeLevel, Device.sequencerChange_lastSnapshot]
  split <;> rfl

theorem Device.takeItem_lastSnapshot (d : Device) (n : NestId) (i : DueItem) :
    (d.takeItem n i).lastSnapshot = d.lastSnapshot := by
  cases i <;> simp only [Device.takeItem, Device.clampTimeout, Device.releaseTimeout] <;> split <;> simp

@[simp] theorem Device.mapWrite_lastSnapshot (d : Device) (n : NestId) (f : MapFields) (order : List DueItem) :
    (d.mapWrite n f order).lastSnapshot = d.lastSnapshot :=
  foldl_lastSnapshot (fun e i => e.takeItem_lastSnapshot n i) _ _

/-! ## The stages of a unit -/

@[simp] theorem Device.enterJudging_lastSnapshot (d : Device) (n : NestId) :
    (d.enterJudging n).lastSnapshot = d.lastSnapshot := by simp [Device.enterJudging]

@[simp] theorem Device.failStage_lastSnapshot (d : Device) (n : NestId) (c : FailureClass) (e : HistoryEvent) :
    (d.failStage n c e).lastSnapshot = d.lastSnapshot := by simp [Device.failStage]

@[simp] theorem Device.enterQuietCheck_lastSnapshot (d : Device) (n : NestId) :
    (d.enterQuietCheck n).lastSnapshot = d.lastSnapshot := by simp [Device.enterQuietCheck]

@[simp] theorem Device.enterSweeping_lastSnapshot (d : Device) (n : NestId) :
    (d.enterSweeping n).lastSnapshot = d.lastSnapshot := by simp [Device.enterSweeping]

@[simp] theorem Device.lockInterval_lastSnapshot (d : Device) (n : NestId) (h : PlanHeader) :
    (d.lockInterval n h).lastSnapshot = d.lastSnapshot := by
  simp only [Device.lockInterval, Device.lockReached]
  split
  · split <;> simp
  · simp

@[simp] theorem Device.quietClose_lastSnapshot (d : Device) (n : NestId) (r : UnitRecord) :
    (d.quietClose n r).lastSnapshot = d.lastSnapshot := by
  simp only [Device.quietClose]
  split
  · simp
  · split <;> simp

@[simp] theorem Device.voidWindow_lastSnapshot (d : Device) (n : NestId) (r : UnitRecord) :
    (d.voidWindow n r).lastSnapshot = d.lastSnapshot := by
  simp only [Device.voidWindow]
  split <;> simp

@[simp] theorem Device.endSegment_lastSnapshot (d : Device) (n : NestId) (r : UnitRecord) :
    (d.endSegment n r).lastSnapshot = d.lastSnapshot := by
  simp only [Device.endSegment]
  split <;> simp

/-- A retest counts RETESTS in the live set (R18). -/
@[simp] theorem Device.actOnEntry_lastSnapshot (d : Device) (n : NestId) (r : UnitRecord) (i : Fin 16)
    (e : VerdictEntry) : (d.actOnEntry n r i e).lastSnapshot = d.lastSnapshot := by
  simp only [Device.actOnEntry, Device.retest]
  split <;> simp

@[simp] theorem Device.replaceCal_lastSnapshot (d : Device) (n : NestId) (p : PlanId) (c : CalRecord)
    (cause : CalCause) : (d.replaceCal n p c cause).lastSnapshot = d.lastSnapshot := by
  simp only [Device.replaceCal]
  split <;> rfl

@[simp] theorem Device.goldenComplete_lastSnapshot (d : Device) (n : NestId) (r : UnitRecord) :
    (d.goldenComplete n r).lastSnapshot = d.lastSnapshot := by
  simp only [Device.goldenComplete, Device.finalVerdict_lastSnapshot, Device.modRecord_lastSnapshot]
  split <;> simp

theorem State.acceptWindow_lastSnapshot (s : State) (n : NestId) (r : UnitRecord) (m : Measures) :
    (s.acceptWindow n r m).dev.lastSnapshot = s.dev.lastSnapshot := by
  simp only [State.acceptWindow]
  split
  · dsimp only; split <;> rfl
  · rfl

theorem State.closeWindow_lastSnapshot (s : State) (n : NestId) (r : UnitRecord) (m : Measures) :
    (s.closeWindow n r m).dev.lastSnapshot = s.dev.lastSnapshot := by
  simp only [State.closeWindow]
  split
  · rfl
  · split
    · simp
    · simp [State.acceptWindow_lastSnapshot]

/-! ## The resets and the links -/

theorem Device.linkResetNest_lastSnapshot (d : Device) (n : NestId) :
    (d.linkResetNest n).lastSnapshot = d.lastSnapshot := by
  simp only [Device.linkResetNest]
  generalize he : (d.silence n).modNest n _ = e
  have h : e.lastSnapshot = d.lastSnapshot := by rw [← he]; rfl
  cases (e.nest n).state <;> dsimp only
  case clamping | levelLock | quietCheck | sweeping | judging | labelWait | fault => split <;> simp [h]
  case marking => simp [h]
  case empty | loaded | releasing | done => exact h

theorem Device.linkReset_lastSnapshot (d : Device) (order : List NestId) :
    (d.linkReset order).lastSnapshot = d.lastSnapshot :=
  foldl_lastSnapshot Device.linkResetNest_lastSnapshot _ d

theorem Device.autoStartOwed_lastSnapshot (d : Device) (n : NestId) :
    (d.autoStartOwed n).lastSnapshot = d.lastSnapshot := by
  simp only [Device.autoStartOwed]
  split
  · split <;> simp
  · rfl

theorem Device.linkLossNest_lastSnapshot (d : Device) (n : NestId) :
    (d.linkLossNest n).lastSnapshot = d.lastSnapshot := by
  cases hst : (d.nest n).state <;> simp only [Device.linkLossNest, hst]
  case clamping | levelLock | quietCheck | sweeping | judging => simp
  case labelWait => split <;> simp
  case marking | releasing => simp

@[simp] theorem State.discardMessage_lastSnapshot (s : State) :
    s.discardMessage.dev.lastSnapshot = s.dev.lastSnapshot := by
  simp only [State.discardMessage]
  split <;> simp

@[simp] theorem State.dropPartMessage_lastSnapshot (s : State) :
    s.dropPartMessage.dev.lastSnapshot = s.dev.lastSnapshot := by
  simp only [State.dropPartMessage]
  split <;> simp

@[simp] theorem State.feedByte_lastSnapshot (s : State) (b : Option Byte) :
    (s.feedByte b).dev.lastSnapshot = s.dev.lastSnapshot := by
  cases hp : s.mgmt.parser <;> cases b <;> simp only [State.feedByte, hp]
  case receiving.none => simp
  case receiving.some =>
    split
    · simp
    · split <;> rfl

theorem State.feedBytes_lastSnapshot (l : List (Option Byte)) (s : State) :
    (l.foldl State.feedByte s).dev.lastSnapshot = s.dev.lastSnapshot :=
  List.foldlRecOn l State.feedByte (motive := fun t => t.dev.lastSnapshot = s.dev.lastSnapshot) rfl
    fun t ht b _ => (t.feedByte_lastSnapshot b).trans ht

theorem State.receiveFrame_lastSnapshot (s : State) (frame : Option ControllerFrame) :
    (s.receiveFrame frame).dev.lastSnapshot = s.dev.lastSnapshot := by
  delta State.receiveFrame
  dsimp only
  split
  · rw [State.feedBytes_lastSnapshot]; rfl
  · split
    · rw [State.feedBytes_lastSnapshot]; rfl
    · rfl
  · rfl

theorem State.sendFrame_lastSnapshot (s : State) : s.sendFrame.dev.lastSnapshot = s.dev.lastSnapshot := rfl

/-! ## Messages -/

theorem State.takeMessage_lastSnapshot (s : State) (bytes : List Byte) :
    (s.takeMessage bytes).dev.lastSnapshot = s.dev.lastSnapshot := by
  simp only [State.takeMessage]
  split
  · simp
  · split <;> simp

theorem Device.consumeDetail_lastSnapshot (d : Device) (i : SourceId) :
    (d.consumeDetail i).lastSnapshot = d.lastSnapshot := by
  simp only [Device.consumeDetail]
  split
  · rfl
  · split
    · rfl
    · split
      · rfl
      · split <;> rfl

@[simp] theorem State.sendNotice_lastSnapshot (s : State) (i : SourceId) :
    (s.sendNotice i).dev.lastSnapshot = s.dev.lastSnapshot := Device.consumeDetail_lastSnapshot _ i

@[simp] theorem State.sendReply_lastSnapshot (s : State) (r : Reply) (rest : List Reply) :
    (s.sendReply r rest).dev.lastSnapshot = s.dev.lastSnapshot := rfl

@[simp] theorem State.releaseHeld_lastSnapshot (s : State) (st : Status) (data : ReplyData) :
    (s.releaseHeld st data).dev.lastSnapshot = s.dev.lastSnapshot := by
  simp only [State.releaseHeld]
  split <;> rfl

/-- A command keeps the last snapshot where its action does. -/
theorem State.runCommand_lastSnapshot {s : State} {type tag : Byte} {agrees : List Byte → Bool}
    {act : Device → Answer} (h : (act s.dev).dev.lastSnapshot = s.dev.lastSnapshot) :
    (s.runCommand type tag agrees act).dev.lastSnapshot = s.dev.lastSnapshot := by
  rcases s.runCommand_cases type tag agrees act with e | ⟨_, _, _, _, _, e | e⟩ <;> rw [e]
  · rfl
  · exact h

/-! ## The actions of the commands -/

@[simp] theorem Answer.ok_dev (d : Device) (data : ReplyData) : (Answer.ok d data).dev = d := rfl
@[simp] theorem Answer.refuse_dev (d : Device) (st : Status) : (Answer.refuse d st).dev = d := rfl

@[simp] theorem Device.startCommand_lastSnapshot (d : Device) (n : NestId) (role : Role) (p : PlanId)
    (serial : List Byte) (lot : Word32) : (d.startCommand n role p serial lot).dev.lastSnapshot = d.lastSnapshot := by
  simp only [Device.startCommand]
  split <;> simp

theorem Device.nestStart_lastSnapshot (f : StartFields) (d : Device) :
    (d.nestStart f).dev.lastSnapshot = d.lastSnapshot := by
  simp only [Device.nestStart]
  split
  · split <;> simp
  · rfl

@[simp] theorem Device.abortNest_lastSnapshot (d : Device) (n : NestId) :
    (d.abortNest n).lastSnapshot = d.lastSnapshot := by
  cases hst : (d.nest n).state <;> simp only [Device.abortNest, hst]
  case clamping | levelLock | quietCheck | sweeping | judging => simp
  case labelWait => split <;> simp
  case marking => exact d.exitTest_lastSnapshot n
  case fault => simp

@[simp] theorem Device.setGate_lastSnapshot (d : Device) (n : NestId) (gate : GateArg) (auto : AutoArg) :
    (d.setGate n gate auto).lastSnapshot = d.lastSnapshot := by
  simp only [Device.setGate]
  split <;> simp

@[simp] theorem Device.loopbackOff_lastSnapshot (d : Device) (n : NestId) :
    (d.loopbackOff n).lastSnapshot = d.lastSnapshot := by
  simp only [Device.loopbackOff]
  split <;> simp

@[simp] theorem Device.returnEntries_lastSnapshot (k : Nat) (d : Device) :
    (Device.returnEntries k d).lastSnapshot = d.lastSnapshot := by
  obtain ⟨_, _, _, _, _, hframe⟩ := d.returnEntries_pointers k
  rw [hframe]; rfl

@[simp] theorem Device.noticeConfig_lastSnapshot (d : Device) (priorities : Vector (Option Byte) 9)
    (count : Option Byte) (time : Option Word16) (threshold : Option Byte) :
    (d.noticeConfig priorities count time threshold).lastSnapshot = d.lastSnapshot := by
  simp only [Device.noticeConfig]
  split <;> rfl

theorem Device.tableWrite_lastSnapshot (kind plan row : Byte) (codes : List Nat) (d : Device) :
    (d.tableWrite kind plan row codes).dev.lastSnapshot = d.lastSnapshot := by
  simp only [Device.tableWrite]
  split
  · rfl
  · split
    · rfl
    · split
      · rfl
      · split <;> rfl

theorem Device.bankCopy_lastSnapshot (d : Device) : d.bankCopy.dev.lastSnapshot = d.lastSnapshot := by
  simp only [Device.bankCopy]
  split
  · rfl
  · split
    · rfl
    · split <;> rfl

theorem Device.tableCommit_lastSnapshot (body : Option (Byte × Word16)) (d : Device) :
    (d.tableCommit body).dev.lastSnapshot = d.lastSnapshot := by
  simp only [Device.tableCommit]
  split
  · rfl
  · split
    · rfl
    · split
      · rfl
      · split
        · rfl
        · split
          · rfl
          · split <;> rfl

theorem Device.restamp_lastSnapshot (d : Device) (old : Option Bank) (new : Bank) :
    (d.restamp old new).lastSnapshot = d.lastSnapshot :=
  foldl_lastSnapshot (fun e n => by split <;> rfl) _ _

theorem Device.bankSwitch_lastSnapshot (d : Device) : d.bankSwitch.dev.lastSnapshot = d.lastSnapshot := by
  simp only [Device.bankSwitch]
  split
  · rfl
  · split
    · rfl
    · split
      · exact Device.restamp_lastSnapshot _ _ _
      · rfl

/-! ## The rows -/

/-- A row that answers a next state leaves the snapshot set and its number as they are. -/
def KeepsSnapshot (s : State) (o : Host.Outcome State Fault Refusal) : Prop :=
  ∀ t, o = .next t → t.dev.lastSnapshot = s.dev.lastSnapshot

theorem KeepsSnapshot.of_eq {s t : State} (h : t.dev.lastSnapshot = s.dev.lastSnapshot) :
    KeepsSnapshot s (.next t) := by
  rintro _ ⟨⟩
  exact h

/-- A row that acts where its event is due, and changes nothing elsewhere (log 2). -/
theorem KeepsSnapshot.due {s t : State} {p : Prop} [Decidable p] (h : t.dev.lastSnapshot = s.dev.lastSnapshot) :
    KeepsSnapshot s (.next (if p then t else s)) := by
  refine .of_eq ?_
  split
  · exact h
  · rfl

/-- A command row (R184). -/
theorem KeepsSnapshot.command {s : State} {type tag : Byte} {agrees : List Byte → Bool} {act : Device → Answer}
    (h : ∀ d, (act d).dev.lastSnapshot = d.lastSnapshot) :
    KeepsSnapshot s (.next (s.runCommand type tag agrees act)) :=
  .of_eq (State.runCommand_lastSnapshot (h s.dev))

theorem execNestLinkLoss_keeps (order : List NestId) (s : State) : KeepsSnapshot s (execNestLinkLoss order s) :=
  .due (foldl_lastSnapshot Device.linkLossNest_lastSnapshot _ _)

theorem execControllerLinkFrame_keeps (frame : Option ControllerFrame) (s : State) :
    KeepsSnapshot s (execControllerLinkFrame frame s) := by
  refine .of_eq ?_
  split
  · rfl
  · rw [State.sendFrame_lastSnapshot, State.receiveFrame_lastSnapshot]

theorem execMessageReceived_keeps (s : State) : KeepsSnapshot s (execMessageReceived s) := by
  refine .of_eq ?_
  split
  · rfl
  · rw [State.takeMessage_lastSnapshot]

theorem execMessageChoice_keeps (s : State) : KeepsSnapshot s (execMessageChoice s) := by
  refine .due ?_
  split
  · simp
  · split <;> simp
  · simp
  · rfl

theorem execMessageSent_keeps (s : State) : KeepsSnapshot s (execMessageSent s) := by
  refine .of_eq ?_
  split
  · rfl
  · split <;> rfl

theorem execUnknownType_keeps (tag type : Byte) (s : State) : KeepsSnapshot s (execUnknownType tag type s) := by
  refine .of_eq ?_
  split
  · rfl
  · split <;> rfl

theorem execLinkReset_keeps (tag : Byte) (confirm : Option Byte) (order : List NestId) (s : State) :
    KeepsSnapshot s (execLinkReset tag confirm order s) := by
  refine .of_eq ?_
  split
  · rfl
  · split
    · exact (Device.linkReset_lastSnapshot _ order).trans s.dropPartMessage_lastSnapshot
    · exact State.runCommand_lastSnapshot rfl

theorem execAutoStartAfterReset_keeps (s : State) : KeepsSnapshot s (execAutoStartAfterReset s) :=
  .of_eq (foldl_lastSnapshot Device.autoStartOwed_lastSnapshot _ _)

theorem execStatusRead_keeps (tag : Byte) (historyClear : Option Bool) (s : State) :
    KeepsSnapshot s (execStatusRead tag historyClear s) := by
  refine .command fun d => ?_
  cases historyClear with
  | none => rfl
  | some clear => cases clear <;> rfl

theorem execNestAbort_keeps (tag nest : Byte) (s : State) : KeepsSnapshot s (execNestAbort tag nest s) := by
  refine .command fun d => ?_
  split <;> simp

theorem execNestGate_keeps (tag nest : Byte) (gate : Option GateArg) (auto : Option AutoArg) (s : State) :
    KeepsSnapshot s (execNestGate tag nest gate auto s) := by
  refine .command fun d => ?_
  split <;> simp

theorem execUnitRead_keeps (tag nest : Byte) (clear : Option Bool) (page : Byte) (s : State) :
    KeepsSnapshot s (execUnitRead tag nest clear page s) := by
  refine .command fun d => ?_
  split
  · split
    · rw [Answer.ok_dev]; split <;> rfl
    · rfl
  · rfl

theorem execLoopback_keeps (tag nest : Byte) (on : Option Bool) (s : State) :
    KeepsSnapshot s (execLoopback tag nest on s) := by
  refine .command fun d => ?_
  split
  · split
    · rw [Answer.ok_dev]; split <;> simp [Device.loopbackOn]
    · rfl
  · rfl

theorem execPassThrough_keeps (tag nest : Byte) (source : Option PassArg) (s : State) :
    KeepsSnapshot s (execPassThrough tag nest source s) := by
  refine .command fun d => ?_
  split
  · split <;> rfl
  · rfl
  · rfl

theorem execMonitorSelect_keeps (tag : Byte) (first second : Option MonitorSel) (s : State) :
    KeepsSnapshot s (execMonitorSelect tag first second s) := by
  refine .command fun d => ?_
  split <;> rfl

theorem execGroupMapWrite_keeps (tag : Byte) (groups : Vector Byte 4) (thresholds : Vector Int 2) (s : State) :
    KeepsSnapshot s (execGroupMapWrite tag groups thresholds s) := by
  refine .command fun d => ?_
  split
  · rfl
  · split <;> rfl

theorem execRingRead_keeps (tag start count : Byte) (s : State) : KeepsSnapshot s (execRingRead tag start count s) := by
  refine .command fun d => ?_
  split
  · rfl
  · split
    · split <;> rfl
    · rfl

theorem execRingReturn_keeps (tag index : Byte) (s : State) : KeepsSnapshot s (execRingReturn tag index s) := by
  refine .command fun d => ?_
  split
  · rfl
  · split <;> simp

theorem execCaptureFetch_keeps (tag : Byte) (label : Word32) (block chunk : Byte) (s : State) :
    KeepsSnapshot s (execCaptureFetch tag label block chunk s) := by
  refine .command fun d => ?_
  split
  · rfl
  · split
    · rfl
    · split <;> rfl

theorem execCaptureRelease_keeps (tag : Byte) (label : Word32) (s : State) :
    KeepsSnapshot s (execCaptureRelease tag label s) := by
  refine .command fun d => ?_
  split <;> rfl

theorem execCounterRead_keeps (tag nest page : Byte) (s : State) :
    KeepsSnapshot s (execCounterRead tag nest page s) := by
  refine .command fun d => ?_
  split
  · rfl
  · split <;> rfl

theorem execCorrectionRead_keeps (tag nest plan : Byte) (s : State) :
    KeepsSnapshot s (execCorrectionRead tag nest plan s) := by
  refine .command fun d => ?_
  split <;> rfl

theorem execCorrectionClear_keeps (tag nest plan : Byte) (s : State) :
    KeepsSnapshot s (execCorrectionClear tag nest plan s) := by
  refine .command fun d => ?_
  split
  · split <;> simp [Device.clearCorrection]
  · rfl

theorem execDriftSettingsWrite_keeps (tag : Byte) (nests : Option DriftSel) (length limit : Option Nat) (s : State) :
    KeepsSnapshot s (execDriftSettingsWrite tag nests length limit s) := by
  refine .command fun d => ?_
  split
  · rfl
  · split <;> rfl

theorem execNoticeConfig_keeps (tag : Byte) (priorities : Vector (Option Byte) 9) (count : Option Byte)
    (time : Option Word16) (threshold : Option Byte) (s : State) :
    KeepsSnapshot s (execNoticeConfig tag priorities count time threshold s) := by
  refine .command fun d => ?_
  split <;> simp

theorem execFixtureMapWrite_keeps (tag nest : Byte) (fields : MapFields) (order : List DueItem) (s : State) :
    KeepsSnapshot s (execFixtureMapWrite tag nest fields order s) := by
  refine .command fun d => ?_
  split
  · rfl
  · split
    · rfl
    · split <;> simp

theorem execBankCopyComplete_keeps (s : State) : KeepsSnapshot s (execBankCopyComplete s) := by
  refine .of_eq ?_
  split
  · rw [State.releaseHeld_lastSnapshot]; rfl
  · rfl

theorem execVerificationComplete_keeps (s : State) : KeepsSnapshot s (execVerificationComplete s) := by
  refine .of_eq ?_
  split
  · dsimp only
    split <;> rw [State.releaseHeld_lastSnapshot] <;> rfl
  · rfl

theorem execControllerLinkHoldover_keeps (s : State) : KeepsSnapshot s (execControllerLinkHoldover s) :=
  .due s.dropPartMessage_lastSnapshot

theorem execSettleEnd_keeps (nest : NestId) (s : State) : KeepsSnapshot s (execSettleEnd nest s) :=
  .due (Device.enterLevelLock_lastSnapshot _ nest)

theorem execClampTimeout_keeps (nest : NestId) (s : State) : KeepsSnapshot s (execClampTimeout nest s) :=
  .due (s.dev.earlyEnd_lastSnapshot nest .fixture)

theorem execLockIntervalEnd_keeps (nest : NestId) (tryNumber interval : Nat) (s : State) :
    KeepsSnapshot s (execLockIntervalEnd nest tryNumber interval s) := by
  refine .of_eq ?_
  split
  · rfl
  · split <;> simp

theorem execLockTimeout_keeps (nest : NestId) (s : State) : KeepsSnapshot s (execLockTimeout nest s) := by
  refine .of_eq ?_
  split
  · rfl
  · split <;> simp

theorem execQuietWindowClose_keeps (nest : NestId) (attempt : Nat) (s : State) :
    KeepsSnapshot s (execQuietWindowClose nest attempt s) := by
  refine .of_eq ?_
  split
  · rfl
  · split <;> simp

theorem execQuietRetryWaitEnd_keeps (nest : NestId) (s : State) : KeepsSnapshot s (execQuietRetryWaitEnd nest s) := by
  refine .of_eq ?_
  split
  · rfl
  · split <;> simp

theorem execWindowClose_keeps (nest : NestId) (measures : Measures) (s : State) :
    KeepsSnapshot s (execWindowClose nest measures s) := by
  refine .of_eq ?_
  split
  · rfl
  · split
    · exact s.closeWindow_lastSnapshot nest _ measures
    · rfl

theorem execSegmentEnd_keeps (nest : NestId) (s : State) : KeepsSnapshot s (execSegmentEnd nest s) := by
  refine .of_eq ?_
  split
  · rfl
  · split <;> simp

theorem execJudgeComplete_keeps (nest : NestId) (s : State) : KeepsSnapshot s (execJudgeComplete nest s) := by
  simp only [execJudgeComplete]
  split
  · split
    · exact .of_eq (by simp)
    all_goals
      split
      · rintro _ ⟨⟩
      · exact .of_eq (by simp)
  · exact .of_eq rfl

/-- Every row but power-on reset and the two forms of COUNTER SNAPSHOT keeps the snapshot set and its number. -/
theorem exec_keepsSnapshot {c : Instr} (hreset : c ≠ .powerOnReset) (hsnap : ∀ tag b, c ≠ .counterSnapshot tag b)
    (hclear : ∀ tag, c ≠ .counterSnapshotClear tag) (s : State) : KeepsSnapshot s (exec c s) := by
  cases c with
  | powerOnReset => exact absurd rfl hreset
  | counterSnapshot tag b => exact absurd rfl (hsnap tag b)
  | counterSnapshotClear tag => exact absurd rfl (hclear tag)
  | nestLinkFrame frame => exact .due rfl
  | nestLinkLocked => exact .due rfl
  | nestLinkLoss order => exact execNestLinkLoss_keeps order s
  | controllerLinkFrame frame => exact execControllerLinkFrame_keeps frame s
  | controllerLinkLocked => exact .due rfl
  | controllerLinkHoldover => exact execControllerLinkHoldover_keeps s
  | messageReceived => exact execMessageReceived_keeps s
  | messageChoice => exact execMessageChoice_keeps s
  | messageSent => exact execMessageSent_keeps s
  | unknownType tag type => exact execUnknownType_keeps tag type s
  | statusRead tag historyClear => exact execStatusRead_keeps tag historyClear s
  | versionRead tag => exact .command fun _ => rfl
  | nestStart tag fields => exact .command fun d => d.nestStart_lastSnapshot fields
  | nestAbort tag nest => exact execNestAbort_keeps tag nest s
  | nestGate tag nest gate auto => exact execNestGate_keeps tag nest gate auto s
  | unitRead tag nest clear page => exact execUnitRead_keeps tag nest clear page s
  | loopback tag nest on => exact execLoopback_keeps tag nest on s
  | passThrough tag nest source => exact execPassThrough_keeps tag nest source s
  | monitorSelect tag first second => exact execMonitorSelect_keeps tag first second s
  | ringRead tag start count => exact execRingRead_keeps tag start count s
  | ringReturn tag index => exact execRingReturn_keeps tag index s
  | captureFetch tag label block chunk => exact execCaptureFetch_keeps tag label block chunk s
  | captureRelease tag label => exact execCaptureRelease_keeps tag label s
  | tableWrite tag kind plan row codes => exact .command fun d => d.tableWrite_lastSnapshot kind plan row _
  | tableCommit tag body => exact .command fun d => d.tableCommit_lastSnapshot body
  | bankCopy tag => exact .command Device.bankCopy_lastSnapshot
  | bankSwitch tag => exact .command Device.bankSwitch_lastSnapshot
  | loadStatusClear tag => exact .command fun _ => rfl
  | counterRead tag nest page => exact execCounterRead_keeps tag nest page s
  | correctionRead tag nest plan => exact execCorrectionRead_keeps tag nest plan s
  | correctionClear tag nest plan => exact execCorrectionClear_keeps tag nest plan s
  | fixtureSet tag outputs => exact .command fun _ => rfl
  | fixtureClear tag outputs => exact .command fun _ => rfl
  | fixtureMapWrite tag nest fields order => exact execFixtureMapWrite_keeps tag nest fields order s
  | groupMapWrite tag groups thresholds => exact execGroupMapWrite_keeps tag groups thresholds s
  | driftSettingsWrite tag nests length limit => exact execDriftSettingsWrite_keeps tag nests length limit s
  | noticeConfig tag priorities count time threshold =>
    exact execNoticeConfig_keeps tag priorities count time threshold s
  | linkReset tag confirm order => exact execLinkReset_keeps tag confirm order s
  | inputChangeTaken nest line => exact .due (s.dev.takeLevel_lastSnapshot nest line)
  | settleEnd nest => exact execSettleEnd_keeps nest s
  | clampTimeout nest => exact execClampTimeout_keeps nest s
  | releaseTimeout nest => exact .due rfl
  | lockIntervalEnd nest tryNumber interval => exact execLockIntervalEnd_keeps nest tryNumber interval s
  | lockTimeout nest => exact execLockTimeout_keeps nest s
  | quietWindowClose nest attempt => exact execQuietWindowClose_keeps nest attempt s
  | quietRetryWaitEnd nest => exact execQuietRetryWaitEnd_keeps nest s
  | windowClose nest measures => exact execWindowClose_keeps nest measures s
  | segmentEnd nest => exact execSegmentEnd_keeps nest s
  | judgeComplete nest => exact execJudgeComplete_keeps nest s
  | markPulseEnd nest => exact .due (s.dev.exitTest_lastSnapshot nest)
  | bankCopyComplete => exact execBankCopyComplete_keeps s
  | verificationComplete => exact execVerificationComplete_keeps s
  | coalescingTimerExpiry => exact .due rfl
  | autoStartAfterReset => exact execAutoStartAfterReset_keeps s

/-! ## The reply of COUNTER READ -/

/-- A nest number of a body above 3 names no nest. -/
theorem nestOf_none {b : Byte} (h : 3 < b.toNat) : nestOf b = none := dif_neg (by omega)

/-- A COUNTER READ body is a nest and a page (Table 11-1). -/
theorem lengthFits_counterRead {body : List Byte} (hl : body.length = 2) : lengthFits 0x14 body = true :=
  lengthFits_of_mem (by decide) (by rw [hl]; decide)

/-- COUNTER READ at its execution, of a page of a nest (R118). -/
theorem exec_counterRead_ok {s : State} {tag nest page : Byte} {body : List Byte} {n : NestId}
    (hs : s.Heads 0x14 tag body) (hl : body.length = 2) (hn : nestOf nest = some n) (hp : page.toNat ≤ 1) :
    exec (.counterRead tag nest page) s = .next (s.repliedWith 0x14 tag .ok
      (.counters s.dev.yields.number nest page (s.dev.yields.snapshot[n].page page.toNat)) s.dev) := by
  change Host.Outcome.next (s.runCommand _ _ _ _) = _
  rw [State.runCommand_heads hs (lengthFits_counterRead hl) rfl]
  simp only [hn, if_pos hp, State.answered_ok]

/-- COUNTER READ at its execution, with a field out of range (R118). -/
theorem exec_counterRead_badField {s : State} {tag nest page : Byte} {body : List Byte}
    (hs : s.Heads 0x14 tag body) (hl : body.length = 2) (h : 3 < nest.toNat ∨ 1 < page.toNat) :
    exec (.counterRead tag nest page) s = .next (s.repliedWith 0x14 tag .badField .none s.dev) := by
  change Host.Outcome.next (s.runCommand _ _ _ _) = _
  rw [State.runCommand_heads hs (lengthFits_counterRead hl) rfl]
  cases hn : nestOf nest with
  | none => rfl
  | some n =>
    have hpage : ¬ page.toNat ≤ 1 := by
      rcases h with h | h
      · rw [nestOf_none h] at hn; cases hn
      · omega
    simp only [if_neg hpage, State.answered_refuse]

/-- Settles O44: the replies are `exec_counterRead_ok` and `exec_counterRead_badField`, the frame of the other rows is
`exec_keepsSnapshot`, and power-on reset takes the reset values of the Yield Counters (R111). -/
theorem counterReadFromSnapshot : Obligations.CounterReadFromSnapshot := by
  refine ⟨fun s tag n body hs hl => ⟨?_, ?_, ?_⟩, ?_, fun s => ?_⟩
  · exact exec_counterRead_ok hs hl (nestOf_ofNat n) (by decide)
  · exact exec_counterRead_ok hs hl (nestOf_ofNat n) (by decide)
  · exact fun nest page h => exec_counterRead_badField hs hl h
  · exact fun c s t h hreset hsnap hclear =>
      Device.lastSnapshot_eq_iff.mp (exec_keepsSnapshot hreset hsnap hclear s t h)
  · exact ⟨_, rfl, rfl, fun n => Vector.getElem_replicate n.isLt⟩

end Sys2Proof.Machine

/-! VERSION READ (O28). Taken at the head of the Command Queue with its empty body, it answers the version data of the
part and leaves the device as it was (R187). -/

namespace Sys2Proof.Machine

/-- A VERSION READ body is empty (Table 11-1). -/
theorem lengthFits_versionRead : lengthFits 0x02 [] = true := lengthFits_of_mem (by decide) (by decide)

/-- VERSION READ at its execution, in any state of the device (R187). -/
theorem exec_versionRead_ok {s : State} {tag : Byte} (hs : s.Heads 0x02 tag []) :
    exec (.versionRead tag) s = .next (s.repliedWith 0x02 tag .ok (.version versionBytes) s.dev) := by
  change Host.Outcome.next (s.runCommand _ _ _ _) = _
  rw [State.runCommand_heads hs lengthFits_versionRead rfl, State.answered_ok]

/-- The samples of a capture block, as VERSION READ sends them (R187, R181). -/
theorem bytes16_captureSamples : bytes16 4096 = [0x10, 0x00] := by decide

/-- Settles O28: the revision byte is the part's own constant (log 19), the same in every state, and the reply is
`exec_versionRead_ok` with the count of samples written out in bytes. -/
theorem versionReadReplies : Obligations.VersionReadReplies := by
  refine ⟨Config.revisionByte, fun s tag hs => ?_⟩
  rw [exec_versionRead_ok hs, versionBytes, bytes16_captureSamples]
  rfl

end Sys2Proof.Machine

/-! What a row can do to the units (O6, O9, O10, O11, O12). `Accounts` is what the invariants of the units, the ring, the
yield counters, the pins and the capture blocks read of the part; `Accounts.Step` lists once what can happen to it, with
the condition under which each happens, and each invariant is then a case analysis over these steps. -/

namespace Sys2Proof.Machine

/-! ## The accounts of the part -/

/-- What the invariants of the units read: each nest's state, its unit's bank and capture blocks, its MARK claim, the
Label Unit, the counters, the Free List, and each bank's state and pin count. -/
structure Accounts where
  state : NestId → NestState
  unit : NestId → Option (BankId × List BlockId)
  mark : NestId → Bool
  labels : LabelUnit
  live : Vector Counters 4
  snapshot : Vector Counters 4
  free : List BlockId
  bank : BankId → BankState × Nat
  operation : Operation

/-- The accounts of a device. -/
def Device.accounts (d : Device) : Accounts where
  state n := (d.nest n).state
  unit n := (d.nest n).record.map fun r => (r.bank, r.chain.blocks)
  mark n := (d.nest n).markClaim
  labels := d.labels
  live := d.yields.live
  snapshot := d.yields.snapshot
  free := d.pool.free
  bank b := ((d.tables.bank b).state, (d.tables.bank b).pins)
  operation := d.tables.operation

/-- The ACTIVE bank (R152). -/
def Accounts.activeBank (a : Accounts) : Option BankId :=
  if (a.bank .bankA).1 = .active then some .bankA else if (a.bank .bankB).1 = .active then some .bankB else none

/-- The standby bank (R153). -/
def Accounts.standby (a : Accounts) : Option BankId :=
  match a.activeBank with
  | none => some .bankA
  | some .bankA => if (a.bank .bankB).1 = .retiring then none else some .bankB
  | some .bankB => if (a.bank .bankA).1 = .retiring then none else some .bankA

theorem Device.accounts_activeBank (d : Device) : d.accounts.activeBank = d.tables.activeBank := rfl
theorem Device.accounts_standby (d : Device) : d.accounts.standby = d.tables.standby := by
  simp only [Accounts.standby, TableStore.standby, Device.accounts_activeBank]
  rfl

/-! ## What can happen -/

/-- A bank after the fall of a pin (R6, R164). -/
def unpinned (x : BankState × Nat) : BankState × Nat :=
  (if x.1 = .retiring ∧ x.2 - 1 = 0 then .opened else x.1, x.2 - 1)

/-- A bank that was ACTIVE, after a switch (R163). -/
def retired (x : BankState × Nat) : BankState × Nat := (if 0 < x.2 then .retiring else .opened, x.2)

/-- The ring and the Free List after the return of the entry at the return pointer (R103). -/
def Accounts.returnEntry (a : Accounts) : Accounts :=
  { a with
    labels := { a.labels with
      ring := a.labels.ring.set a.labels.ret none, ret := a.labels.ret + 1, posted := a.labels.posted - 1 }
    free := a.free ++ entryBlocks a.labels.ring[a.labels.ret] }

/-- The return of a number of entries. -/
def Accounts.returnEntries : Nat → Accounts → Accounts
  | 0, a => a
  | k + 1, a => Accounts.returnEntries k a.returnEntry

/-- Nest `n` with its unit ended: it stands in MARKING, holds a unit without blocks, and pins its bank no more. -/
def Accounts.endUnit (a : Accounts) (n : NestId) (b : BankId) : Accounts :=
  { a with
    state := Function.update a.state n .marking
    unit := Function.update a.unit n (some (b, []))
    bank := Function.update a.bank b (unpinned (a.bank b)) }

/-- One thing that can happen to the accounts, with the condition under which it does. An operation in flight stays. -/
inductive Accounts.Step : Accounts → Accounts → Prop
  /-- a nest moves between states without a unit, or between the stages CLAMPING to JUDGING -/
  | move (a : Accounts) (n : NestId) (st : NestState)
      (h : ((a.state n).testStage = false ∧ st.testStage = false)
        ∨ ((a.state n).endsEarly = true ∧ st.endsEarly = true)) :
      Step a { a with state := Function.update a.state n st }
  /-- a start is taken (R10) -/
  | start (a : Accounts) (n : NestId) (b : BankId) (hs : a.state n = .loaded) (hb : (a.bank b).1 = .active) :
      Step a { a with
        state := Function.update a.state n .clamping
        unit := Function.update a.unit n (some (b, []))
        live := a.live.set n (startCounted a.live[n])
        bank := Function.update a.bank b ((a.bank b).1, (a.bank b).2 + 1) }
  /-- a window is captured (R141) -/
  | capture (a : Accounts) (n : NestId) (b : BankId) (old new free : List BlockId) (hs : (a.state n).endsEarly = true)
      (hu : a.unit n = some (b, old)) (hc : new ++ free = old ++ a.free) :
      Step a { a with unit := Function.update a.unit n (some (b, new)), free := free }
  /-- a retest: the chain is freed and RETESTS counted (R18) -/
  | retest (a : Accounts) (n : NestId) (b : BankId) (blocks : List BlockId) (hs : (a.state n).endsEarly = true)
      (hu : a.unit n = some (b, blocks)) :
      Step a { a with
        unit := Function.update a.unit n (some (b, []))
        free := a.free ++ blocks
        live := a.live.set n { a.live[n] with retests := a.live[n].retests + 1 } }
  /-- a nest joins the Ring Wait Queue (R105) -/
  | wait (a : Accounts) (n : NestId) (hs : a.state n = .judging) :
      Step a { a with
        state := Function.update a.state n .labelWait
        labels := { a.labels with waitQueue := a.labels.waitQueue ++ [n] } }
  /-- nests leave the Ring Wait Queue (R106) -/
  | dequeue (a : Accounts) (q : List NestId) (hq : q.Sublist a.labels.waitQueue) :
      Step a { a with labels := { a.labels with waitQueue := q } }
  /-- a label is posted, for a stage that ends or for the head of the Ring Wait Queue, and the unit's chain attached to
  it or freed (R101, R106, R24) -/
  | post (a : Accounts) (n : NestId) (b : BankId) (blocks free : List BlockId) (e : RingEntry) (q : List NestId)
      (hs : ((a.state n).endsEarly = true ∧ q = a.labels.waitQueue) ∨ a.labels.waitQueue = n :: q)
      (hu : a.unit n = some (b, blocks)) (hf : a.labels.posted < 64) (hl : e.label.number = a.labels.counter)
      (hc : (entryBlocks (some e) = blocks ∧ free = a.free)
        ∨ (entryBlocks (some e) = [] ∧ free = a.free ++ blocks)) :
      Step a { a.endUnit n b with
        labels := { a.labels with waitQueue := q }.put e
        live := a.live.set n (a.live[n].countLabel e.label)
        free := free }
  /-- a unit is discarded (R25) -/
  | discard (a : Accounts) (n : NestId) (b : BankId) (blocks : List BlockId) (hs : (a.state n).inTest = true)
      (hu : a.unit n = some (b, blocks)) :
      Step a { a.endUnit n b with
        labels := { a.labels with waitQueue := a.labels.waitQueue.filter fun m => decide (m ≠ n) }
        live := a.live.set n { a.live[n] with discarded := a.live[n].discarded + 1 }
        free := a.free ++ blocks }
  /-- a nest that is not in test leaves MARKING or where it stands, and its record is gone (R21) -/
  | leave (a : Accounts) (n : NestId) (st : NestState) (hs : (a.state n).inTest = false) (h : st.testStage = false) :
      Step a { a with
        state := Function.update a.state n st
        unit := Function.update a.unit n none
        mark := Function.update a.mark n false }
  /-- MARKING claims MARK, or does not (R108) -/
  | claim (a : Accounts) (n : NestId) (m : Bool) (hs : a.state n = .marking) :
      Step a { a with mark := Function.update a.mark n m }
  /-- a nest in a test stage that is without a unit, which is nowhere met, leaves it -/
  | unitless (a : Accounts) (n : NestId) (st : NestState) (hs : (a.state n).testStage = true) (hu : a.unit n = none) :
      Step a { a with state := Function.update a.state n st, mark := Function.update a.mark n false }
  /-- entries are returned up to one that is posted (R103) -/
  | giveBack (a : Accounts) (i : EntryId) (hi : a.labels.ring[i].isSome = true) :
      Step a (a.returnEntries (a.labels.spanTo i))
  /-- the chain of a posted entry is freed (R146) -/
  | release (a : Accounts) (i : EntryId) (e : RingEntry) (he : a.labels.ring[i] = some e) :
      Step a { a with
        labels := { a.labels with ring := a.labels.ring.set i (some { e with chain := none }) }
        free := a.free ++ entryBlocks (some e) }
  /-- COUNTER SNAPSHOT (R115) -/
  | snapshot (a : Accounts) : Step a { a with snapshot := a.live }
  /-- the live set is cleared with the units in test carried (R116) -/
  | clear (a : Accounts) :
      Step a { a with live := Vector.ofFn fun n =>
        { Counters.zero with started := if (a.state n).inTest then 1 else 0 } }
  /-- the standby bank is written (R156) -/
  | write (a : Accounts) (b : BankId) (hb : a.standby = some b) :
      Step a { a with bank := Function.update a.bank b (openedState (a.bank b).1, (a.bank b).2) }
  /-- BANK SWITCH (R163) -/
  | switch (a : Accounts) (b : BankId) (hb : a.standby = some b) (hs : (a.bank b).1 = .ready) :
      Step a { a with bank := fun c => if c = b then (.active, 0) else
        if a.activeBank = some c then retired (a.bank c) else a.bank c }

theorem Accounts.Step.operation {a b : Accounts} (h : a.Step b) : b.operation = a.operation := by
  cases h <;> try rfl
  case giveBack i hi =>
    have keep : ∀ k (a : Accounts), (a.returnEntries k).operation = a.operation := by
      intro k
      induction k with
      | zero => exact fun _ => rfl
      | succ k ih => exact fun a => ih a.returnEntry
    exact keep _ _

/-- Steps in a row. -/
def Accounts.Steps : Accounts → Accounts → Prop := Relation.ReflTransGen Accounts.Step

/-- An invariant that every step keeps is kept by steps in a row. -/
theorem Accounts.Steps.keeps {P : Accounts → Prop} (hP : ∀ a b, P a → a.Step b → P b) {a b : Accounts}
    (h : a.Steps b) (ha : P a) : P b := by
  induction h with
  | refl => exact ha
  | tail _ hstep ih => exact hP _ _ ih hstep

/-! ## Units (R2, R105, R108) -/

/-- A nest holds a unit exactly in the test stages, claims MARK in MARKING alone, and waits in LABEL_WAIT. -/
structure Accounts.Units (a : Accounts) : Prop where
  unit : ∀ n, (a.unit n).isSome = (a.state n).testStage
  mark : ∀ n, a.mark n = true → a.state n = .marking
  once : a.labels.waitQueue.Nodup
  waits : ∀ n ∈ a.labels.waitQueue, a.state n = .labelWait

theorem unitsKept_iff (d : Device) : UnitsKept d ↔ d.accounts.Units := by
  constructor
  · rintro ⟨h1, h2, h3, h4⟩
    exact ⟨fun n => by simpa [Device.accounts] using h1 n, h2, h3, h4⟩
  · rintro ⟨h1, h2, h3, h4⟩
    exact ⟨fun n => by have := h1 n; simpa [Device.accounts] using this, h2, h3, h4⟩

theorem NestState.testStage_of_inTest {st : NestState} (h : st.inTest = true) : st.testStage = true := by
  cases st <;> first | rfl | exact absurd h (by decide)
theorem NestState.inTest_of_endsEarly {st : NestState} (h : st.endsEarly = true) : st.inTest = true := by
  cases st <;> first | rfl | exact absurd h (by decide)
theorem NestState.inTest_of_not_testStage {st : NestState} (h : st.testStage = false) : st.inTest = false := by
  cases st <;> first | rfl | exact absurd h (by decide)

@[simp] theorem Accounts.returnEntries_state (k : Nat) (a : Accounts) : (a.returnEntries k).state = a.state := by
  induction k generalizing a with
  | zero => rfl
  | succ k ih => exact ih a.returnEntry
@[simp] theorem Accounts.returnEntries_unit (k : Nat) (a : Accounts) : (a.returnEntries k).unit = a.unit := by
  induction k generalizing a with
  | zero => rfl
  | succ k ih => exact ih a.returnEntry
@[simp] theorem Accounts.returnEntries_mark (k : Nat) (a : Accounts) : (a.returnEntries k).mark = a.mark := by
  induction k generalizing a with
  | zero => rfl
  | succ k ih => exact ih a.returnEntry
@[simp] theorem Accounts.returnEntries_waitQueue (k : Nat) (a : Accounts) :
    (a.returnEntries k).labels.waitQueue = a.labels.waitQueue := by
  induction k generalizing a with
  | zero => rfl
  | succ k ih => exact ih a.returnEntry
@[simp] theorem Accounts.returnEntries_live (k : Nat) (a : Accounts) : (a.returnEntries k).live = a.live := by
  induction k generalizing a with
  | zero => rfl
  | succ k ih => exact ih a.returnEntry
@[simp] theorem Accounts.returnEntries_snapshot (k : Nat) (a : Accounts) :
    (a.returnEntries k).snapshot = a.snapshot := by
  induction k generalizing a with
  | zero => rfl
  | succ k ih => exact ih a.returnEntry
@[simp] theorem Accounts.returnEntries_bank (k : Nat) (a : Accounts) : (a.returnEntries k).bank = a.bank := by
  induction k generalizing a with
  | zero => rfl
  | succ k ih => exact ih a.returnEntry

/-- A nest that is in another state than LABEL_WAIT does not wait. -/
theorem Accounts.Units.not_waiting {a : Accounts} (h : a.Units) {n : NestId} (hs : a.state n ≠ .labelWait) :
    n ∉ a.labels.waitQueue := fun hn => hs (h.waits n hn)

/-- The units stay whole when nest `n`, which does not wait, changes state, unit and MARK claim together. -/
theorem Accounts.Units.of_update {a b : Accounts} (h : a.Units) (n : NestId)
    (hs : ∀ m, m ≠ n → b.state m = a.state m) (hu : ∀ m, m ≠ n → b.unit m = a.unit m)
    (hm : ∀ m, m ≠ n → b.mark m = a.mark m) (hq : b.labels.waitQueue.Sublist a.labels.waitQueue)
    (hn : (b.unit n).isSome = (b.state n).testStage) (hk : b.mark n = true → b.state n = .marking)
    (hw : n ∉ b.labels.waitQueue ∨ b.state n = .labelWait) : b.Units := by
  refine ⟨fun m => ?_, fun m hm' => ?_, h.once.sublist hq, fun m hm' => ?_⟩
  · by_cases e : m = n
    · subst e; exact hn
    · rw [hs m e, hu m e, h.unit m]
  · by_cases e : m = n
    · subst e; exact hk hm'
    · rw [hs m e]; exact h.mark m (hm m e ▸ hm')
  · by_cases e : m = n
    · subst e
      exact hw.resolve_left fun k => k hm'
    · rw [hs m e]; exact h.waits m (hq.subset hm')

theorem Accounts.Step.units {a b : Accounts} (h : a.Units) (hstep : a.Step b) : b.Units := by
  have ne : ∀ {α : Type} (f : NestId → α) (n m : NestId) (v : α), m ≠ n → Function.update f n v m = f m :=
    fun f n m v e => Function.update_of_ne e v f
  cases hstep with
  | move n st hm =>
    refine h.of_update n (fun m e => ne _ n m _ e) (fun _ _ => rfl) (fun _ _ => rfl) (List.Sublist.refl _) ?_ ?_ ?_
    · have hu := h.unit n
      rcases hm with ⟨h1, h2⟩ | ⟨h1, h2⟩
      · simpa [h2, h1] using hu
      · simpa [NestState.testStage_of_inTest (NestState.inTest_of_endsEarly h1),
          NestState.testStage_of_inTest (NestState.inTest_of_endsEarly h2)] using hu
    · intro hk
      have := h.mark n hk
      rcases hm with ⟨h1, _⟩ | ⟨h1, _⟩ <;> rw [this] at h1 <;> exact absurd h1 (by decide)
    · refine Or.inl (h.not_waiting fun e => ?_)
      rcases hm with ⟨h1, _⟩ | ⟨h1, _⟩ <;> rw [e] at h1 <;> exact absurd h1 (by decide)
  | start n b hs hb =>
    refine h.of_update n (fun m e => ne _ n m _ e) (fun m e => ne _ n m _ e) (fun _ _ => rfl) (List.Sublist.refl _)
      ?_ ?_ (Or.inl (h.not_waiting (by rw [hs]; decide)))
    · simp [NestState.testStage]
    · intro hk; have := h.mark n hk; rw [hs] at this; cases this
  | capture n b old new free hs hu hc =>
    refine h.of_update n (fun _ _ => rfl) (fun m e => ne _ n m _ e) (fun _ _ => rfl) (List.Sublist.refl _)
      ?_ (h.mark n) (Or.inl (h.not_waiting (by intro e; rw [e] at hs; exact absurd hs (by decide))))
    simp [NestState.testStage_of_inTest (NestState.inTest_of_endsEarly hs)]
  | retest n b blocks hs hu =>
    refine h.of_update n (fun _ _ => rfl) (fun m e => ne _ n m _ e) (fun _ _ => rfl) (List.Sublist.refl _)
      ?_ (h.mark n) (Or.inl (h.not_waiting (by intro e; rw [e] at hs; exact absurd hs (by decide))))
    simp [NestState.testStage_of_inTest (NestState.inTest_of_endsEarly hs)]
  | wait n hs =>
    have hn : n ∉ a.labels.waitQueue := h.not_waiting (by rw [hs]; decide)
    refine ⟨fun m => ?_, fun m hk => ?_, ?_, fun m hm => ?_⟩
    · by_cases e : m = n
      · subst e
        have := h.unit m
        simpa [hs, NestState.testStage] using this
      · simpa [e] using h.unit m
    · have := h.mark m hk
      have e : m ≠ n := by intro e; subst e; rw [hs] at this; cases this
      simpa [e] using this
    · exact List.nodup_append.mpr ⟨h.once, List.nodup_singleton n, by
        intro m hm k hk; rw [List.mem_singleton.mp hk]; exact fun e => hn (e ▸ hm)⟩
    · by_cases e : m = n
      · subst e; simp
      · simp only [List.mem_append, List.mem_singleton, e, or_false] at hm
        simpa [e] using h.waits m hm
  | dequeue q hq => exact ⟨h.unit, h.mark, h.once.sublist hq, fun n hn => h.waits n (hq.subset hn)⟩
  | post n b blocks free e q hs hu hf hl hc =>
    have hq : q.Sublist a.labels.waitQueue ∧ n ∉ q := by
      rcases hs with ⟨hs, rfl⟩ | hs
      · exact ⟨List.Sublist.refl _, h.not_waiting fun e => by rw [e] at hs; exact absurd hs (by decide)⟩
      · have hd := h.once
        rw [hs] at hd ⊢
        exact ⟨List.sublist_cons_self n q, (List.nodup_cons.mp hd).1⟩
    exact h.of_update n (fun m e => ne _ n m _ e) (fun m e => ne _ n m _ e) (fun _ _ => rfl) hq.1
      (by simp [Accounts.endUnit, NestState.testStage]) (by simp [Accounts.endUnit]) (Or.inl hq.2)
  | discard n b blocks hs hu =>
    exact h.of_update n (fun m e => ne _ n m _ e) (fun m e => ne _ n m _ e) (fun _ _ => rfl) List.filter_sublist
      (by simp [Accounts.endUnit, NestState.testStage]) (by simp [Accounts.endUnit])
      (Or.inl fun k => by simpa using (List.mem_filter.mp k).2)
  | leave n st hs hst =>
    exact h.of_update n (fun m e => ne _ n m _ e) (fun m e => ne _ n m _ e) (fun m e => ne _ n m _ e)
      (List.Sublist.refl _) (by simp [hst]) (by simp) (Or.inl (h.not_waiting fun k => by rw [k] at hs; cases hs))
  | claim n m hs =>
    exact h.of_update n (fun _ _ => rfl) (fun _ _ => rfl) (fun m e => ne _ n m _ e) (List.Sublist.refl _) (h.unit n)
      (fun _ => hs) (Or.inl (h.not_waiting (by rw [hs]; decide)))
  | unitless n st hs hu =>
    have := h.unit n
    rw [hs, hu] at this
    cases this
  | giveBack i hi => exact ⟨by simpa using h.unit, by simpa using h.mark, by simpa using h.once, by simpa using h.waits⟩
  | release i e he => exact ⟨h.unit, h.mark, h.once, h.waits⟩
  | snapshot => exact ⟨h.unit, h.mark, h.once, h.waits⟩
  | clear => exact ⟨h.unit, h.mark, h.once, h.waits⟩
  | write b hb => exact ⟨h.unit, h.mark, h.once, h.waits⟩
  | switch b hb hs => exact ⟨h.unit, h.mark, h.once, h.waits⟩

end Sys2Proof.Machine

namespace Sys2Proof.Machine

/-! ## The Result Ring (R99, R100) -/

/-- A posting fills the entry after the last one posted (R101). -/
theorem LabelUnit.Contiguous.put {u : LabelUnit} (h : u.Contiguous) {e : RingEntry} (hf : u.posted < 64)
    (he : e.label.number = u.counter) : (u.put e).Contiguous := by
  obtain ⟨h1, h2, h3, h4⟩ := h
  have hpost : (u.post - u.ret).val = u.posted := by
    have : u.post - u.ret = Fin.ofNat 64 u.posted := by rw [h2]; abel
    rw [this]; simp [Nat.mod_eq_of_lt hf]
  have hsucc : (Fin.ofNat 64 (u.posted + 1) : EntryId) = Fin.ofNat 64 u.posted + 1 := by
    apply Fin.ext; simp [Fin.val_add, Fin.ofNat]
  have hval : ∀ i : EntryId, i ≠ u.post → ((i - u.ret).val < u.posted + 1 ↔ (i - u.ret).val < u.posted) := by
    intro i hi
    have : (i - u.ret).val ≠ u.posted := fun e => hi (by
      have : i - u.ret = u.post - u.ret := Fin.ext (e.trans hpost.symm)
      exact sub_left_injective this)
    omega
  refine ⟨by simp only [LabelUnit.put]; omega, ?_, fun i => ?_, fun i x hx => ?_⟩
  · simp only [LabelUnit.put, h2, hsucc]; abel
  · by_cases e : i = u.post
    · subst e; simp [LabelUnit.put, hpost]
    · have hv : u.post.val ≠ i.val := fun k => e (Fin.ext k.symm)
      have := h3 i
      simp only [LabelUnit.put, Fin.getElem_fin, Vector.getElem_set_ne _ _ hv, hval i e]
      simpa using this
  · by_cases e' : i = u.post
    · subst e'
      simp only [LabelUnit.put, Fin.getElem_fin, Vector.getElem_set_self, Option.some.injEq] at hx
      subst hx
      simp [LabelUnit.put, hpost, he]
    · have hv : u.post.val ≠ i.val := fun k => e' (Fin.ext k.symm)
      simp only [LabelUnit.put, Fin.getElem_fin, Vector.getElem_set_ne _ _ hv] at hx ⊢
      have hlt : (i - u.ret).val < u.posted := by
        have := h3 i
        simp only [Fin.getElem_fin, hx, Option.isSome_some] at this
        simpa using this.symm
      rw [h4 i x hx]
      have : u.posted + 1 - (i - u.ret).val = (u.posted - (i - u.ret).val) + 1 := by omega
      have one : (1#32 : Word32) = 1 := rfl
      rw [this, BitVec.ofNat_add, one]
      ring

/-- An entry index that is not 0 follows another. -/
theorem val_sub_one_add_one : ∀ k : EntryId, k.val ≠ 0 → (k - 1).val + 1 = k.val := by decide

/-- A return frees the first entry posted (R103). -/
theorem LabelUnit.Contiguous.return {u : LabelUnit} (h : u.Contiguous) (hp : 0 < u.posted) :
    LabelUnit.Contiguous { u with ring := u.ring.set u.ret none, ret := u.ret + 1, posted := u.posted - 1 } := by
  obtain ⟨h1, h2, h3, h4⟩ := h
  have hpos : ∀ i : EntryId, i ≠ u.ret → (i - (u.ret + 1)).val + 1 = (i - u.ret).val := by
    intro i hi
    have h0 : (i - u.ret).val ≠ 0 := fun e => hi (by
      have : i - u.ret = 0 := Fin.ext e
      exact sub_eq_zero.mp this)
    have e : i - (u.ret + 1) = (i - u.ret) - 1 := by abel
    rw [e]
    exact val_sub_one_add_one _ h0
  have hself : ((u.ret - (u.ret + 1) : EntryId)).val = 63 := by
    have : u.ret - (u.ret + 1) = -1 := by abel
    rw [this]; rfl
  have hone : (Fin.ofNat 64 u.posted : EntryId) = 1 + Fin.ofNat 64 (u.posted - 1) := by
    apply Fin.ext
    simp only [Fin.val_add, Fin.ofNat]
    show u.posted % 64 = (1 + (u.posted - 1) % 64) % 64
    omega
  refine ⟨by show u.posted - 1 ≤ 64; omega, ?_, fun i => ?_, fun i x hx => ?_⟩
  · show u.post = u.ret + 1 + _
    rw [h2, hone]; abel
  · by_cases e : i = u.ret
    · subst e
      have : ¬ 63 < u.posted - 1 := by omega
      simp [this]
    · have hv : u.ret.val ≠ i.val := fun k => e (Fin.ext k.symm)
      have h3i := h3 i
      have := hpos i e
      simp only [Fin.getElem_fin, Vector.getElem_set_ne _ _ hv] at h3i ⊢
      rw [h3i]
      exact decide_eq_decide.mpr (by omega)
  · by_cases e : i = u.ret
    · subst e; simp at hx
    · have hv : u.ret.val ≠ i.val := fun k => e (Fin.ext k.symm)
      simp only [Fin.getElem_fin, Vector.getElem_set_ne _ _ hv] at hx
      have h4i := h4 i x hx
      have := hpos i e
      have hn : u.posted - (i - u.ret).val = u.posted - 1 - (i - (u.ret + 1)).val := by omega
      show _ = u.counter - BitVec.ofNat 32 (u.posted - 1 - (i - (u.ret + 1)).val)
      rw [h4i, hn]

/-- Entries are returned up to one that is posted: the ring stays contiguous (R103). -/
theorem Accounts.returnEntries_contiguous (k : Nat) {a : Accounts} (h : a.labels.Contiguous)
    (hk : k ≤ a.labels.posted) : (a.returnEntries k).labels.Contiguous := by
  induction k generalizing a with
  | zero => exact h
  | succ k ih =>
    have hr : a.returnEntry.labels.Contiguous := h.return (by omega)
    exact ih hr (by show k ≤ a.labels.posted - 1; omega)

/-- No more entries are returned than are posted (R103). -/
theorem LabelUnit.Contiguous.spanTo_le {u : LabelUnit} (h : u.Contiguous) {i : EntryId}
    (hi : u.ring[i].isSome = true) : u.spanTo i ≤ u.posted := by
  have := h.2.2.1 i
  rw [hi] at this
  have : (i - u.ret).val < u.posted := by simpa using this.symm
  exact this

theorem Accounts.Step.contiguous {a b : Accounts} (h : a.labels.Contiguous) (hstep : a.Step b) :
    b.labels.Contiguous := by
  cases hstep with
  | post n b blocks free e q hs hu hf hl hc => exact LabelUnit.Contiguous.put (u := { a.labels with waitQueue := q }) h hf hl
  | giveBack i hi => exact Accounts.returnEntries_contiguous _ h (h.spanTo_le hi)
  | release i e he =>
    obtain ⟨h1, h2, h3, h4⟩ := h
    refine ⟨h1, h2, fun j => ?_, fun j x hx => ?_⟩
    · rw [← h3 j]
      by_cases k : i = j
      · subst k; simp only [Fin.getElem_fin] at he; simp [he]
      · have hv : i.val ≠ j.val := fun e => k (Fin.ext e)
        simp [Vector.getElem_set_ne _ _ hv]
    · by_cases k : i = j
      · subst k
        simp only [Fin.getElem_fin, Vector.getElem_set_self, Option.some.injEq] at hx
        subst hx
        exact h4 i e he
      · have hv : i.val ≠ j.val := fun e => k (Fin.ext e)
        simp only [Fin.getElem_fin, Vector.getElem_set_ne _ _ hv] at hx
        exact h4 j x hx
  | wait | dequeue | discard => exact h
  | move | start | capture | retest | leave | claim | unitless | snapshot | clear | write | switch => exact h

/-! ## Yield Counters (R114) -/

/-- The sum of sixteen counters of which one has risen. -/
theorem sum_set_add_one (l : List Word32) (i : Nat) (h : i < l.length) :
    (l.set i (l[i] + 1)).foldr (· + ·) 0 = l.foldr (· + ·) 0 + 1 := by
  induction l generalizing i with
  | nil => exact absurd h (by simp)
  | cons x l ih =>
    cases i with
    | zero => simp only [List.set_cons_zero, List.foldr_cons, List.getElem_cons_zero]; ring
    | succ i =>
      have := ih i (by simpa using h)
      simp only [List.set_cons_succ, List.foldr_cons, List.getElem_cons_succ, this]; ring

/-- A BIN counter that rises raises their sum. -/
theorem binSum_set (c e : Counters) (i : Fin 16) (h : e.bins = c.bins.set i (c.bins[i] + 1)) :
    e.binSum = c.binSum + 1 := by
  have := sum_set_add_one c.bins.toList i.val (by simp)
  rw [Counters.binSum, h, Vector.toList_set]
  exact this

/-- A counted label raises LABELLED and one of the counters it is the sum of (R113, R114). -/
theorem Counters.Sums.countLabel {c : Counters} (h : c.Sums) (l : Label) : (c.countLabel l).Sums := by
  have h' : c.labelled = c.binSum + c.voided + c.golden + c.engineering := h
  rw [Counters.countLabel_eq]
  rcases hr : l.role with _ | _ | _
  case production =>
    rcases hb : l.bin with _ | i
    · show c.labelled + 1 = c.binSum + (c.voided + 1) + c.golden + c.engineering
      rw [h']; ring
    · show c.labelled + 1 = Counters.binSum _ + c.voided + c.golden + c.engineering
      rw [binSum_set c _ i rfl, h']; ring
  case golden =>
    show c.labelled + 1 = c.binSum + c.voided + (c.golden + 1) + c.engineering
    rw [h']; ring
  case engineering =>
    show c.labelled + 1 = c.binSum + c.voided + c.golden + (c.engineering + 1)
    rw [h']; ring

/-- Both relations of R114. -/
structure Accounts.Yields (a : Accounts) : Prop where
  units : a.Units
  started : ∀ n : NestId, a.live[n].started
    = a.live[n].labelled + a.live[n].discarded + if (a.state n).inTest then 1 else 0
  live : ∀ n : NestId, a.live[n].Sums
  snapshot : ∀ n : NestId, a.snapshot[n].Sums

theorem yieldsKept_iff (s : State) : YieldsKept s ↔ s.dev.accounts.Yields := by
  constructor
  · rintro ⟨h, k⟩
    exact ⟨(unitsKept_iff _).mp h, fun n => (k n).1, fun n => (k n).2.1, fun n => (k n).2.2⟩
  · rintro ⟨h1, h2, h3, h4⟩
    exact ⟨(unitsKept_iff _).mpr h1, fun n => ⟨h2 n, h3 n, h4 n⟩⟩

theorem Counters.Sums.of_same {c e : Counters} (h : c.Sums) (h1 : e.labelled = c.labelled) (h2 : e.bins = c.bins)
    (h3 : e.voided = c.voided) (h4 : e.golden = c.golden) (h5 : e.engineering = c.engineering) : e.Sums := by
  simp only [Counters.Sums, Counters.binSum, h1, h2, h3, h4, h5]; exact h

/-- Where nest `n` alone changes its state and its counters, the others keep both relations. -/
theorem Accounts.Yields.of_update {a b : Accounts} (h : a.Yields) (hb : b.Units) (n : NestId) (c : Counters)
    (hs : ∀ m, m ≠ n → (b.state m).inTest = (a.state m).inTest) (hl : b.live = a.live.set n c)
    (hsnap : b.snapshot = a.snapshot) (hc : c.started = c.labelled + c.discarded + if (b.state n).inTest then 1 else 0)
    (hsum : c.Sums) : b.Yields := by
  have live_ne : ∀ m : NestId, m ≠ n → b.live[m] = a.live[m] := fun m e => by
    have hv : n.val ≠ m.val := fun k => e (Fin.ext k.symm)
    simp [hl, Vector.getElem_set_ne _ _ hv]
  have live_same : b.live[n] = c := by simp [hl]
  refine ⟨hb, fun m => ?_, fun m => ?_, fun m => by rw [hsnap]; exact h.snapshot m⟩
  · by_cases e : m = n
    · subst e; rw [live_same]; exact hc
    · rw [live_ne m e, hs m e]; exact h.started m
  · by_cases e : m = n
    · subst e; rw [live_same]; exact hsum
    · rw [live_ne m e]; exact h.live m

/-- Where no nest enters or leaves the test, and no counter changes, both relations stand. -/
theorem Accounts.Yields.of_same {a b : Accounts} (h : a.Yields) (hb : b.Units)
    (hs : ∀ m, (b.state m).inTest = (a.state m).inTest) (hl : b.live = a.live) (hsnap : b.snapshot = a.snapshot) :
    b.Yields :=
  ⟨hb, fun m => by rw [hl, hs m]; exact h.started m, fun m => by rw [hl]; exact h.live m,
    fun m => by rw [hsnap]; exact h.snapshot m⟩

theorem Accounts.Step.yields {a b : Accounts} (h : a.Yields) (hstep : a.Step b) : b.Yields := by
  have hb := hstep.units h.units
  have ne : ∀ {n m : NestId} (st : NestState), m ≠ n →
      (Function.update a.state n st m).inTest = (a.state m).inTest := fun st e => by
    rw [Function.update_of_ne e]
  have eq : ∀ {n : NestId} {st : NestState}, st.inTest = (a.state n).inTest → ∀ m,
      (Function.update a.state n st m).inTest = (a.state m).inTest := fun {n st} k m => by
    by_cases e : m = n
    · subst e; simpa using k
    · exact ne st e
  cases hstep with
  | move n st hm =>
    refine h.of_same hb (eq ?_) rfl rfl
    rcases hm with ⟨h1, h2⟩ | ⟨h1, h2⟩
    · rw [NestState.inTest_of_not_testStage h1, NestState.inTest_of_not_testStage h2]
    · rw [NestState.inTest_of_endsEarly h1, NestState.inTest_of_endsEarly h2]
  | start n b hs hb' =>
    refine h.of_update hb n _ (fun m e => ne _ e) rfl rfl ?_ ((h.live n).of_same rfl rfl rfl rfl rfl)
    have := h.started n
    rw [hs] at this
    simpa [startCounted, NestState.inTest] using this
  | capture n b old new free hs hu hc => exact h.of_same hb (fun _ => rfl) rfl rfl
  | retest n b blocks hs hu =>
    exact h.of_update hb n _ (fun _ _ => rfl) rfl rfl (h.started n) ((h.live n).of_same rfl rfl rfl rfl rfl)
  | wait n hs => exact h.of_same hb (eq (by rw [hs]; rfl)) rfl rfl
  | dequeue q hq => exact h.of_same hb (fun _ => rfl) rfl rfl
  | post n b blocks free e q hs hu hf hl hc =>
    have hin : (a.state n).inTest = true := by
      rcases hs with ⟨hs, _⟩ | hs
      · exact NestState.inTest_of_endsEarly hs
      · rw [h.units.waits n (by rw [hs]; simp)]; rfl
    refine h.of_update hb n _ (fun m e => ne _ e) rfl rfl ?_ ((h.live n).countLabel e.label)
    have := h.started n
    rw [hin] at this
    simp only [Counters.countLabel_started, Counters.countLabel_labelled, Counters.countLabel_discarded, this]
    simp only [Accounts.endUnit, Function.update_self]
    simp [NestState.inTest]; ring
  | discard n b blocks hs hu =>
    refine h.of_update hb n _ (fun m e => ne _ e) rfl rfl ?_ ((h.live n).of_same rfl rfl rfl rfl rfl)
    have := h.started n
    rw [hs] at this
    simp only [this, Accounts.endUnit, Function.update_self]
    simp [NestState.inTest]; ring
  | leave n st hs hst =>
    exact h.of_same hb (eq (by rw [hs, NestState.inTest_of_not_testStage hst])) rfl rfl
  | claim n m hs => exact h.of_same hb (fun _ => rfl) rfl rfl
  | unitless n st hs hu =>
    have := h.units.unit n
    rw [hs, hu] at this
    cases this
  | giveBack i hi => exact h.of_same hb (by simp) (by simp) (by simp)
  | release i e he => exact h.of_same hb (fun _ => rfl) rfl rfl
  | snapshot => exact ⟨hb, h.started, h.live, h.live⟩
  | clear =>
    refine ⟨hb, fun n => ?_, fun n => ?_, h.snapshot⟩
    · simp [Counters.zero]
    · have : Counters.zero.Sums := by unfold Counters.Sums; decide
      simp only [Fin.getElem_fin, Vector.getElem_ofFn]
      exact this.of_same rfl rfl rfl rfl rfl
  | write b hb' => exact h.of_same hb (fun _ => rfl) rfl rfl
  | switch b hb' hs => exact h.of_same hb (fun _ => rfl) rfl rfl

end Sys2Proof.Machine

namespace Sys2Proof.Machine

/-! ## Pins (R152, R158, R164) -/

/-- A commit in flight has the standby bank VERIFYING (R158). -/
def Accounts.Committed (a : Accounts) : Prop :=
  ∀ w, a.operation = .commit w → ∃ b, a.standby = some b ∧ (a.bank b).1 = .verifying

/-- The standby bank stays, where no bank becomes or ceases to be ACTIVE, and none becomes RETIRING (R153). -/
theorem Accounts.standby_of_states {a b : Accounts} {c : BankId}
    (ha : ∀ x, (b.bank x).1 = .active ↔ (a.bank x).1 = .active)
    (hr : ∀ x, (b.bank x).1 = .retiring → (a.bank x).1 = .retiring) (h : a.standby = some c) :
    b.standby = some c := by
  have hact : b.activeBank = a.activeBank := by simp only [Accounts.activeBank, ha]
  have notRetiring : ∀ x, ¬(a.bank x).1 = .retiring → ¬(b.bank x).1 = .retiring := fun x k e => k (hr x e)
  simp only [Accounts.standby, hact] at h ⊢
  split at h
  · exact h
  · split at h
    · cases h
    · rename_i k; rw [if_neg (notRetiring _ k)]; exact h
  · split at h
    · cases h
    · rename_i k; rw [if_neg (notRetiring _ k)]; exact h

theorem Accounts.Committed.of_states {a b : Accounts} (h : a.Committed) (ho : b.operation = a.operation)
    (ha : ∀ x, (b.bank x).1 = .active ↔ (a.bank x).1 = .active)
    (hr : ∀ x, (b.bank x).1 = .retiring → (a.bank x).1 = .retiring)
    (hv : ∀ x, (a.bank x).1 = .verifying → (b.bank x).1 = .verifying) : b.Committed := by
  intro w hw
  obtain ⟨c, hc, hs⟩ := h w (ho ▸ hw)
  exact ⟨c, Accounts.standby_of_states ha hr hc, hv c hs⟩

theorem unpinned_state (x : BankState × Nat) : (unpinned x).1 = x.1 ∨ (x.1 = .retiring ∧ (unpinned x).1 = .opened) := by
  by_cases h : x.1 = .retiring ∧ x.2 - 1 = 0
  · exact Or.inr ⟨h.1, if_pos h⟩
  · exact Or.inl (if_neg h)

/-- The fall of a pin turns RETIRING to OPEN at most, so that a commit in flight keeps its standby (R164). -/
theorem Accounts.Committed.endUnit {a : Accounts} (h : a.Committed) (n : NestId) (b : BankId) :
    (a.endUnit n b).Committed := by
  have hx : ∀ x, ((a.endUnit n b).bank x).1 = (a.bank x).1
      ∨ ((a.bank x).1 = .retiring ∧ ((a.endUnit n b).bank x).1 = .opened) := by
    intro x
    by_cases e : x = b
    · subst e; simpa [Accounts.endUnit] using unpinned_state (a.bank x)
    · left; simp [Accounts.endUnit, e]
  refine h.of_states rfl (fun x => ?_) (fun x k => ?_) fun x k => ?_
  · rcases hx x with e | ⟨e1, e2⟩
    · rw [e]
    · simp [e1, e2]
  · rcases hx x with e | ⟨e1, _⟩
    · rwa [← e]
    · exact e1
  · rcases hx x with e | ⟨e1, _⟩
    · rwa [e]
    · rw [e1] at k; cases k

theorem openedState_cases (st : BankState) : openedState st = st ∨ ((st = .empty ∨ st = .ready) ∧ openedState st = .opened) := by
  cases st <;> simp [openedState]

/-- A bank that is written becomes OPEN where it was EMPTY or READY, so that a commit in flight keeps its standby. -/
theorem Accounts.Committed.write {a : Accounts} (h : a.Committed) (b : BankId) (p : Nat) :
    Accounts.Committed { a with bank := Function.update a.bank b (openedState (a.bank b).1, p) } := by
  have hx : ∀ x, (Function.update a.bank b (openedState (a.bank b).1, p) x).1 = (a.bank x).1
      ∨ (((a.bank x).1 = .empty ∨ (a.bank x).1 = .ready)
        ∧ (Function.update a.bank b (openedState (a.bank b).1, p) x).1 = .opened) := by
    intro x
    by_cases e : x = b
    · subst e; simpa using openedState_cases (a.bank x).1
    · left; simp [e]
  refine h.of_states rfl (fun x => ?_) (fun x k => ?_) fun x k => ?_
  · rcases hx x with e | ⟨e1, e2⟩
    · simp only [e]
    · simp only [e2]; rcases e1 with e1 | e1 <;> simp [e1]
  · rcases hx x with e | ⟨e1, e2⟩
    · exact e ▸ k
    · simp only [e2] at k; cases k
  · rcases hx x with e | ⟨e1, e2⟩
    · exact e ▸ k
    · rcases e1 with e1 | e1 <;> rw [e1] at k <;> cases k

theorem Accounts.Step.committed {a b : Accounts} (h : a.Committed) (hstep : a.Step b) : b.Committed := by
  cases hstep with
  | start n b hs hb =>
    have hx : ∀ x, (Function.update a.bank b ((a.bank b).1, (a.bank b).2 + 1) x).1 = (a.bank x).1 := by
      intro x
      by_cases e : x = b
      · subst e; simp
      · simp [e]
    exact h.of_states rfl (fun x => by simp only [hx]) (fun x k => hx x ▸ k) fun x k => by simpa only [hx] using k
  | post n b => exact h.endUnit n b
  | discard n b => exact h.endUnit n b
  | write b hb => exact h.write b _
  | switch b hb hs =>
    intro w hw
    obtain ⟨c, hc, hv⟩ := h w hw
    rw [hb, Option.some.injEq] at hc
    rw [← hc, hs] at hv
    cases hv
  | giveBack i hi =>
    refine h.of_states (Accounts.Step.giveBack a i hi).operation ?_ ?_ ?_ <;> simp
  | move | capture | retest | wait | dequeue | leave | claim | unitless | release | snapshot | clear => exact h

/-- Whether the unit of a nest is in test and pinned to a bank, as a count. -/
def Accounts.pin (a : Accounts) (b : BankId) (n : NestId) : Nat :=
  if (a.state n).inTest && (a.unit n).any (fun u => decide (u.1 = b)) then 1 else 0

/-- The pin counts are those of the units in test, and a pinned bank is ACTIVE or RETIRING. -/
structure Accounts.Pins (a : Accounts) : Prop where
  units : a.Units
  count : ∀ b, (a.bank b).2 = ∑ n, a.pin b n
  state : ∀ b, 0 < (a.bank b).2 → (a.bank b).1 = .active ∨ (a.bank b).1 = .retiring
  committed : a.Committed

theorem length_filter_finRange {k : Nat} (p : Fin k → Bool) :
    ((List.finRange k).filter p).length = ∑ n, if p n then 1 else 0 := by
  rw [← List.countP_eq_length_filter, Fin.sum_univ_def]
  induction List.finRange k with
  | nil => rfl
  | cons x l ih =>
    rw [List.countP_cons, ih, List.map_cons, List.sum_cons]; omega

theorem Device.pinnedUnits_eq (d : Device) (b : BankId) : d.pinnedUnits b = ∑ n, d.accounts.pin b n := by
  rw [Device.pinnedUnits, length_filter_finRange]
  refine Finset.sum_congr rfl fun n _ => ?_
  have : (d.accounts.unit n).any (fun u => decide (u.1 = b)) = (d.nest n).record.any fun r => decide (r.bank = b) := by
    simp only [Device.accounts]; cases (d.nest n).record <;> rfl
  simp only [Accounts.pin, this]; rfl

theorem pinsKept_iff (s : State) : PinsKept s ↔ s.dev.accounts.Pins := by
  have hcommit : s.dev.accounts.Committed ↔ ∀ w, s.dev.tables.operation = .commit w →
      ∃ b, s.dev.tables.standby = some b ∧ (s.dev.tables.bank b).state = .verifying := by
    simp only [Accounts.Committed, Device.accounts_standby]; rfl
  constructor
  · rintro ⟨h1, h2, h3⟩
    exact ⟨(unitsKept_iff _).mp h1, fun b => (h2 b).1.trans (s.dev.pinnedUnits_eq b), fun b => (h2 b).2,
      hcommit.mpr h3⟩
  · rintro ⟨h1, h2, h3, h4⟩
    exact ⟨(unitsKept_iff _).mpr h1, fun b => ⟨(h2 b).trans (s.dev.pinnedUnits_eq b).symm, h3 b⟩, hcommit.mp h4⟩

/-- A sum of which one term has changed. -/
theorem sum_of_update {ι : Type} [Fintype ι] [DecidableEq ι] (f g : ι → Nat) (n : ι) (h : ∀ m, m ≠ n → g m = f m) :
    (∑ m, g m) + f n = (∑ m, f m) + g n := by
  have hf := Finset.add_sum_erase Finset.univ f (Finset.mem_univ n)
  have hg := Finset.add_sum_erase Finset.univ g (Finset.mem_univ n)
  have he : ∑ m ∈ Finset.univ.erase n, g m = ∑ m ∈ Finset.univ.erase n, f m :=
    Finset.sum_congr rfl fun m hm => h m (Finset.ne_of_mem_erase hm)
  omega

theorem Accounts.pin_of_not_inTest {a : Accounts} {n : NestId} (h : (a.state n).inTest = false) (b : BankId) :
    a.pin b n = 0 := by simp [Accounts.pin, h]

theorem Accounts.pin_of_inTest {a : Accounts} {n : NestId} {b : BankId} {blocks : List BlockId}
    (h : (a.state n).inTest = true) (hu : a.unit n = some (b, blocks)) (c : BankId) :
    a.pin c n = if b = c then 1 else 0 := by simp [Accounts.pin, h, hu]

/-- Where no nest enters or leaves the test or changes its bank, and no bank changes, the pins stand. -/
theorem Accounts.Pins.of_same {a b : Accounts} (h : a.Pins) (hb : b.Units) (hc : b.Committed)
    (hp : ∀ c n, b.pin c n = a.pin c n) (hbank : b.bank = a.bank) : b.Pins :=
  ⟨hb, fun c => by rw [hbank, h.count c]; exact Finset.sum_congr rfl fun n _ => (hp c n).symm,
    fun c => by rw [hbank]; exact h.state c, hc⟩

/-- A unit in test that ends releases its pin (R6, R164). -/
theorem Accounts.Pins.endUnit {a : Accounts} (h : a.Pins) {n : NestId} {b : BankId} {blocks : List BlockId}
    (hs : (a.state n).inTest = true) (hu : a.unit n = some (b, blocks)) :
    (∀ c, ((a.endUnit n b).bank c).2 = ∑ m, (a.endUnit n b).pin c m)
    ∧ ∀ c, 0 < ((a.endUnit n b).bank c).2 →
      ((a.endUnit n b).bank c).1 = .active ∨ ((a.endUnit n b).bank c).1 = .retiring := by
  have hne : ∀ c m, m ≠ n → (a.endUnit n b).pin c m = a.pin c m := fun c m e => by
    simp [Accounts.pin, Accounts.endUnit, e]
  have hpin := fun c => sum_of_update (a.pin c) ((a.endUnit n b).pin c) n (hne c)
  have hend : ∀ c, (a.endUnit n b).pin c n = 0 := fun c =>
    Accounts.pin_of_not_inTest (by simp [Accounts.endUnit, NestState.inTest]) c
  refine ⟨fun c => ?_, fun c k => ?_⟩
  · have h1 := hpin c
    have h2 := h.count c
    rw [hend c, Accounts.pin_of_inTest hs hu] at h1
    by_cases e : c = b
    · subst e
      simp only [if_true] at h1
      simp only [Accounts.endUnit, Function.update_self, unpinned] at h1 ⊢
      omega
    · rw [if_neg fun k => e k.symm] at h1
      simp only [Accounts.endUnit, Function.update_of_ne e] at h1 ⊢
      omega
  · by_cases e : c = b
    · subst e
      simp only [Accounts.endUnit, Function.update_self] at k ⊢
      have hst := h.state c (by simp only [unpinned] at k; omega)
      have hno : ¬((a.bank c).1 = .retiring ∧ (a.bank c).2 - 1 = 0) := fun e => by simp only [unpinned] at k; omega
      simpa only [unpinned, if_neg hno] using hst
    · simp only [Accounts.endUnit, Function.update_of_ne e] at k ⊢
      exact h.state c k

/-- The pins stand when banks without a pin change their state. -/
theorem Accounts.Pins.of_bank {a b : Accounts} (h : a.Pins) (hb : b.Units) (hc : b.Committed)
    (hp : ∀ c n, b.pin c n = a.pin c n)
    (hbank : ∀ c, (b.bank c).2 = (a.bank c).2
      ∧ (0 < (a.bank c).2 → (b.bank c).1 = .active ∨ (b.bank c).1 = .retiring)) : b.Pins :=
  ⟨hb, fun c => by rw [(hbank c).1, h.count c]; exact Finset.sum_congr rfl fun n _ => (hp c n).symm,
    fun c k => (hbank c).2 ((hbank c).1 ▸ k), hc⟩

/-- A bank in any other state than ACTIVE and RETIRING is not pinned (R152). -/
theorem Accounts.Pins.unpinned_of_state {a : Accounts} (h : a.Pins) {b : BankId} {st : BankState}
    (hs : (a.bank b).1 = st) (ha : st ≠ .active) (hr : st ≠ .retiring) : (a.bank b).2 = 0 := by
  by_contra hp
  rcases h.state b (by omega) with k | k <;> rw [hs] at k
  · exact ha k
  · exact hr k

theorem Accounts.Step.pins {a b : Accounts} (h : a.Pins) (hstep : a.Step b) : b.Pins := by
  have hb := hstep.units h.units
  have hc := hstep.committed h.committed
  have stage : ∀ {n : NestId} {st : NestState}, st.inTest = (a.state n).inTest → ∀ (c : BankId) (m : NestId),
      Accounts.pin { a with state := Function.update a.state n st } c m = a.pin c m := fun {n st} k c m => by
    by_cases e : m = n
    · subst e; simp [Accounts.pin, k]
    · simp [Accounts.pin, e]
  have unit : ∀ {n : NestId} {c : BankId} {old : List BlockId} (new : List BlockId), a.unit n = some (c, old) →
      ∀ (x : BankId) (m : NestId),
      Accounts.pin { a with unit := Function.update a.unit n (some (c, new)) } x m = a.pin x m :=
    fun {n c old} new hu x m => by
      by_cases e : m = n
      · subst e; simp [Accounts.pin, hu]
      · simp [Accounts.pin, e]
  cases hstep with
  | move n st hm =>
    refine h.of_same hb hc (stage ?_) rfl
    rcases hm with ⟨h1, h2⟩ | ⟨h1, h2⟩
    · rw [NestState.inTest_of_not_testStage h1, NestState.inTest_of_not_testStage h2]
    · rw [NestState.inTest_of_endsEarly h1, NestState.inTest_of_endsEarly h2]
  | start n b hs hact =>
    let e : Accounts := { a with
      state := Function.update a.state n .clamping, unit := Function.update a.unit n (some (b, [])) }
    have hne : ∀ c m, m ≠ n → e.pin c m = a.pin c m := fun c m k => by simp [Accounts.pin, e, k]
    have hold : ∀ c, a.pin c n = 0 := fun c => Accounts.pin_of_not_inTest (by rw [hs]; rfl) c
    have hnew : ∀ c, e.pin c n = if b = c then 1 else 0 := fun c =>
      Accounts.pin_of_inTest (by simp [e, NestState.inTest]) (by simp [e]; rfl) c
    refine ⟨hb, fun c => ?_, fun c k => ?_, hc⟩
    · have h1 := sum_of_update (a.pin c) (e.pin c) n (hne c)
      have h2 := h.count c
      rw [hold, hnew] at h1
      show _ = ∑ m, e.pin c m
      by_cases k : c = b
      · subst k
        simp only [if_true, Function.update_self] at h1 ⊢
        omega
      · rw [if_neg fun x => k x.symm] at h1
        simp only [Function.update_of_ne k]
        omega
    · by_cases e : c = b
      · subst e; left; simpa using hact
      · simp only [Function.update_of_ne e] at k ⊢
        exact h.state c k
  | capture n b old new free hs hu hcap => exact h.of_same hb hc (unit new hu) rfl
  | retest n b blocks hs hu => exact h.of_same hb hc (unit [] hu) rfl
  | wait n hs => exact h.of_same hb hc (stage (by rw [hs]; rfl)) rfl
  | dequeue q hq => exact h.of_same hb hc (fun _ _ => rfl) rfl
  | post n b blocks free e q hs hu hf hl hcap =>
    have hin : (a.state n).inTest = true := by
      rcases hs with ⟨hs, _⟩ | hs
      · exact NestState.inTest_of_endsEarly hs
      · rw [h.units.waits n (by rw [hs]; simp)]; rfl
    exact ⟨hb, (h.endUnit hin hu).1, (h.endUnit hin hu).2, hc⟩
  | discard n b blocks hs hu => exact ⟨hb, (h.endUnit hs hu).1, (h.endUnit hs hu).2, hc⟩
  | leave n st hs hst =>
    refine h.of_same hb hc (fun c m => ?_) rfl
    by_cases e : m = n
    · subst e
      rw [Accounts.pin_of_not_inTest (a := a) hs, Accounts.pin_of_not_inTest]
      simpa using NestState.inTest_of_not_testStage hst
    · simp [Accounts.pin, e]
  | claim n m hs => exact h.of_same hb hc (fun _ _ => rfl) rfl
  | unitless n st hs hu =>
    have := h.units.unit n
    rw [hs, hu] at this
    cases this
  | giveBack i hi => exact h.of_same hb hc (fun c m => by simp [Accounts.pin]) (by simp)
  | release i e he => exact h.of_same hb hc (fun _ _ => rfl) rfl
  | snapshot => exact h.of_same hb hc (fun _ _ => rfl) rfl
  | clear => exact h.of_same hb hc (fun _ _ => rfl) rfl
  | write b hsb =>
    refine h.of_bank hb hc (fun _ _ => rfl) fun c => ?_
    by_cases e : c = b
    · subst e
      refine ⟨by simp, fun k => ?_⟩
      rcases h.state c k with k | k <;> simp [k, openedState]
    · simpa [e] using h.state c
  | switch b hsb hs =>
    have h0 := h.unpinned_of_state hs (by decide) (by decide)
    refine h.of_bank hb hc (fun _ _ => rfl) fun c => ?_
    by_cases e : c = b
    · subst e; simp [h0]
    · by_cases k : a.activeBank = some c
      · simp only [if_neg e, if_pos k, retired]
        exact ⟨trivial, fun hp => Or.inr (if_pos hp)⟩
      · simpa [e, k] using h.state c

/-! ## Capture blocks (R139, R145) -/

/-- The blocks of a nest's unit. -/
def Accounts.held (a : Accounts) (n : NestId) : List BlockId := ((a.unit n).map Prod.snd).getD []

/-- How often a block stands in the Free List, in the units' chains and in the entries' chains. -/
def Accounts.places (a : Accounts) (x : BlockId) : Nat :=
  a.free.count x + (∑ n, (a.held n).count x) + ∑ i : EntryId, (entryBlocks a.labels.ring[i]).count x

/-- Every capture block stands in one place, and the unit of a nest in MARKING holds none. -/
structure Accounts.Pool (a : Accounts) : Prop where
  units : a.Units
  ring : a.labels.Contiguous
  once : ∀ x, a.places x = 1
  marking : ∀ n, a.state n = .marking → a.held n = []

theorem count_flatMap_finRange {k : Nat} (f : Fin k → List BlockId) (x : BlockId) :
    ((List.finRange k).flatMap f).count x = ∑ i, (f i).count x := by
  rw [List.count_flatMap, Fin.sum_univ_def]; rfl

theorem Device.count_allBlocks (d : Device) (x : BlockId) : d.allBlocks.count x = d.accounts.places x := by
  rw [Device.allBlocks, List.count_append, List.count_append, count_flatMap_finRange, count_flatMap_finRange]
  have : ∀ n, d.accounts.held n = ((d.nest n).record.map fun r => r.chain.blocks).getD [] := fun n => by
    simp only [Accounts.held, Device.accounts]; cases (d.nest n).record <;> rfl
  simp only [Accounts.places, this]; rfl

theorem poolKept_iff (s : State) : PoolKept s ↔ s.dev.accounts.Pool := by
  have held : ∀ n, s.dev.accounts.held n = ((s.dev.nest n).record.map fun r => r.chain.blocks).getD [] := fun n => by
    simp only [Accounts.held, Device.accounts]; cases (s.dev.nest n).record <;> rfl
  constructor
  · rintro ⟨h1, h2, h3, h4⟩
    refine ⟨(unitsKept_iff _).mp h1, h2, fun x => (s.dev.count_allBlocks x).symm.trans (h3 x), fun n hs => ?_⟩
    rw [held]
    cases hr : (s.dev.nest n).record with
    | none => rfl
    | some r => exact h4 n r hs hr
  · rintro ⟨h1, h2, h3, h4⟩
    refine ⟨(unitsKept_iff _).mpr h1, h2, fun x => (s.dev.count_allBlocks x).trans (h3 x), fun n r hs hr => ?_⟩
    have := h4 n hs
    rw [held, hr] at this
    exact this

/-- Blocks that nest `n` and the Free List hold between them: where their number stays, every block keeps its
place. -/
theorem Accounts.places_of_held {a b : Accounts} {n : NestId} {x : BlockId} (hl : b.labels.ring = a.labels.ring)
    (hne : ∀ m, m ≠ n → b.held m = a.held m)
    (hn : b.free.count x + (b.held n).count x = a.free.count x + (a.held n).count x) : b.places x = a.places x := by
  have := sum_of_update (fun m => (a.held m).count x) (fun m => (b.held m).count x) n fun m e => by rw [hne m e]
  simp only [Accounts.places, hl]
  omega

/-- Blocks that one entry and the Free List hold between them. -/
theorem Accounts.places_of_entry {a b : Accounts} {i : EntryId} {x : BlockId} (hu : b.unit = a.unit)
    (hne : ∀ j : EntryId, j ≠ i → b.labels.ring[j] = a.labels.ring[j])
    (hn : b.free.count x + (entryBlocks b.labels.ring[i]).count x
      = a.free.count x + (entryBlocks a.labels.ring[i]).count x) : b.places x = a.places x := by
  have := sum_of_update (fun j : EntryId => (entryBlocks a.labels.ring[j]).count x)
    (fun j : EntryId => (entryBlocks b.labels.ring[j]).count x) i fun j e => by simp only [hne j e]
  have held : b.held = a.held := by funext m; simp only [Accounts.held, hu]
  simp only [Accounts.places, held]
  omega

theorem Accounts.returnEntry_places (a : Accounts) (x : BlockId) : a.returnEntry.places x = a.places x := by
  refine Accounts.places_of_entry (i := a.labels.ret) rfl (fun j e => ?_) ?_
  · have hv : a.labels.ret.val ≠ j.val := fun k => e (Fin.ext k.symm)
    simp [Accounts.returnEntry, Vector.getElem_set_ne _ _ hv]
  · simp [Accounts.returnEntry, entryBlocks]

theorem Accounts.returnEntries_places (k : Nat) (a : Accounts) (x : BlockId) :
    (a.returnEntries k).places x = a.places x := by
  induction k generalizing a with
  | zero => rfl
  | succ k ih => exact (ih a.returnEntry).trans (a.returnEntry_places x)

/-- The entry at the post pointer is free while fewer than 64 are posted (R100). -/
theorem LabelUnit.Contiguous.ring_post {u : LabelUnit} (h : u.Contiguous) (hf : u.posted < 64) :
    u.ring[u.post] = none := by
  obtain ⟨h1, h2, h3, h4⟩ := h
  have hpost : (u.post - u.ret).val = u.posted := by
    have : u.post - u.ret = Fin.ofNat 64 u.posted := by rw [h2]; abel
    rw [this]; simp [Nat.mod_eq_of_lt hf]
  have := h3 u.post
  rw [hpost] at this
  simpa using this

theorem Accounts.held_of_none {a : Accounts} {n : NestId} (h : a.unit n = none) : a.held n = [] := by
  simp [Accounts.held, h]
theorem Accounts.held_of_some {a : Accounts} {n : NestId} {b : BankId} {blocks : List BlockId}
    (h : a.unit n = some (b, blocks)) : a.held n = blocks := by simp [Accounts.held, h]

theorem Accounts.Step.pool {a b : Accounts} (h : a.Pool) (hstep : a.Step b) : b.Pool := by
  have hb := hstep.units h.units
  have hr := hstep.contiguous h.ring
  have held_ne : ∀ {n m : NestId} (u : Option (BankId × List BlockId)), m ≠ n →
      ((Function.update a.unit n u m).map Prod.snd).getD [] = a.held m := fun u e => by
    rw [Function.update_of_ne e]; rfl
  have marks : ∀ {n m : NestId} {st : NestState}, st ≠ .marking → Function.update a.state n st m = .marking →
      m ≠ n ∧ a.state m = .marking := fun {n m st} k hm => by
    by_cases e : m = n
    · subst e; simp at hm; exact absurd hm k
    · exact ⟨e, by simpa [e] using hm⟩
  cases hstep with
  | move n st hm =>
    refine ⟨hb, hr, h.once, fun m hs => h.marking m (marks ?_ hs).2⟩
    rintro rfl
    rcases hm with ⟨_, k⟩ | ⟨_, k⟩ <;> exact absurd k (by decide)
  | start n b hs hact =>
    have hu : a.unit n = none := by
      have := h.units.unit n
      rw [hs] at this
      simpa [NestState.testStage] using this
    refine ⟨hb, hr, fun x => ?_, fun m hm => ?_⟩
    · rw [← h.once x]
      refine Accounts.places_of_held (n := n) rfl (fun m e => held_ne _ e) ?_
      rw [Accounts.held_of_none hu]; simp [Accounts.held]
    · obtain ⟨e, k⟩ := marks (by decide) hm
      exact (held_ne _ e).trans (h.marking m k)
  | capture n b old new free hs hu hc =>
    refine ⟨hb, hr, fun x => ?_, fun m hm => ?_⟩
    · rw [← h.once x]
      refine Accounts.places_of_held (n := n) rfl (fun m e => held_ne _ e) ?_
      rw [Accounts.held_of_some hu]
      have := congrArg (List.count x) hc
      simp only [List.count_append] at this
      simp only [Accounts.held, Function.update_self, Option.map_some, Option.getD_some]
      omega
    · have e : m ≠ n := by
        intro e; subst e
        rw [show a.state m = .marking from hm] at hs
        exact absurd hs (by decide)
      exact (held_ne _ e).trans (h.marking m hm)
  | retest n b blocks hs hu =>
    refine ⟨hb, hr, fun x => ?_, fun m hm => ?_⟩
    · rw [← h.once x]
      refine Accounts.places_of_held (n := n) rfl (fun m e => held_ne _ e) ?_
      rw [Accounts.held_of_some hu]; simp [Accounts.held]
    · have e : m ≠ n := by
        intro e; subst e
        rw [show a.state m = .marking from hm] at hs
        exact absurd hs (by decide)
      exact (held_ne _ e).trans (h.marking m hm)
  | wait n hs => exact ⟨hb, hr, h.once, fun m hm => h.marking m (marks (by decide) hm).2⟩
  | dequeue q hq => exact ⟨hb, hr, h.once, h.marking⟩
  | post n b blocks free e q hs hu hf hl hc =>
    refine ⟨hb, hr, fun x => ?_, fun m hm => ?_⟩
    · -- the unit's chain leaves it for the Free List or for the new entry
      let c : Accounts := { a.endUnit n b with free := a.free ++ blocks }
      have hc' : c.places x = a.places x := by
        refine Accounts.places_of_held (n := n) rfl (fun m e => held_ne _ e) ?_
        rw [Accounts.held_of_some hu]; simp [Accounts.held, c, Accounts.endUnit]
      rw [← h.once x, ← hc']
      refine Accounts.places_of_entry (i := a.labels.post) rfl (fun j k => ?_) ?_
      · have hv : a.labels.post.val ≠ j.val := fun k' => k (Fin.ext k'.symm)
        simp [LabelUnit.put, Vector.getElem_set_ne _ _ hv, c, Accounts.endUnit]
      · have hnone : c.labels.ring[a.labels.post] = none := h.ring.ring_post hf
        rw [hnone]
        simp only [LabelUnit.put, Fin.getElem_fin, Vector.getElem_set_self]
        show free.count x + _ = (a.free ++ blocks).count x + _
        rcases hc with ⟨k1, rfl⟩ | ⟨k1, rfl⟩ <;> rw [k1] <;> simp [entryBlocks]
    · by_cases e : m = n
      · subst e; simp [Accounts.held, Accounts.endUnit]
      · refine (held_ne _ e).trans (h.marking m ?_)
        simpa [Accounts.endUnit, e] using hm
  | discard n b blocks hs hu =>
    refine ⟨hb, hr, fun x => ?_, fun m hm => ?_⟩
    · rw [← h.once x]
      refine Accounts.places_of_held (n := n) rfl (fun m e => held_ne _ e) ?_
      rw [Accounts.held_of_some hu]; simp [Accounts.held, Accounts.endUnit]
    · by_cases e : m = n
      · subst e; simp [Accounts.held, Accounts.endUnit]
      · refine (held_ne _ e).trans (h.marking m ?_)
        simpa [Accounts.endUnit, e] using hm
  | leave n st hs hst =>
    refine ⟨hb, hr, fun x => ?_, fun m hm => ?_⟩
    · rw [← h.once x]
      refine Accounts.places_of_held (n := n) rfl (fun m e => held_ne _ e) ?_
      have hn : a.held n = [] := by
        by_cases k : a.state n = .marking
        · exact h.marking n k
        · refine Accounts.held_of_none ?_
          have hu := h.units.unit n
          have ht : (a.state n).testStage = false := by
            revert hs k; cases a.state n <;> simp [NestState.inTest, NestState.testStage]
          rw [ht] at hu
          simpa using hu
      rw [hn]; simp [Accounts.held]
    · have k : st ≠ .marking := by rintro rfl; exact absurd hst (by decide)
      obtain ⟨e, k⟩ := marks k hm
      exact (held_ne _ e).trans (h.marking m k)
  | claim n m hs => exact ⟨hb, hr, h.once, h.marking⟩
  | unitless n st hs hu =>
    have := h.units.unit n
    rw [hs, hu] at this
    cases this
  | giveBack i hi =>
    refine ⟨hb, hr, fun x => (Accounts.returnEntries_places _ a x).trans (h.once x), fun n hn => ?_⟩
    have := h.marking n (by simpa using hn)
    simpa [Accounts.held] using this
  | release i e he =>
    refine ⟨hb, hr, fun x => ?_, h.marking⟩
    rw [← h.once x]
    refine Accounts.places_of_entry (i := i) rfl (fun j k => ?_) ?_
    · have hv : i.val ≠ j.val := fun k' => k (Fin.ext k'.symm)
      simp [Vector.getElem_set_ne _ _ hv]
    · rw [he]; simp [entryBlocks]
  | snapshot => exact ⟨hb, hr, h.once, h.marking⟩
  | clear => exact ⟨hb, hr, h.once, h.marking⟩
  | write b hsb => exact ⟨hb, hr, h.once, h.marking⟩
  | switch b hsb hs => exact ⟨hb, hr, h.once, h.marking⟩

end Sys2Proof.Machine

namespace Sys2Proof.Machine

/-! ## Operations in flight (R157, R158, R160, R166) -/

/-- What begins or ends an operation of the Table Store. -/
inductive Accounts.Operate : Accounts → Accounts → Prop
  /-- BANK COPY is taken (R157) -/
  | copy (a : Accounts) (b : BankId) (hb : a.standby = some b) (ho : a.operation = .none) :
      Operate a { a with
        bank := Function.update a.bank b (openedState (a.bank b).1, (a.bank b).2), operation := .copy }
  /-- a copy completes (R157) -/
  | copied (a : Accounts) (ho : a.operation = .copy) : Operate a { a with operation := .none }
  /-- TABLE COMMIT is taken (R158) -/
  | commit (a : Accounts) (b : BankId) (w : Word16) (hb : a.standby = some b) (hs : (a.bank b).1 = .opened)
      (ho : a.operation ≠ .copy) :
      Operate a { a with bank := Function.update a.bank b (.verifying, (a.bank b).2), operation := .commit w }
  /-- a verification completes: READY or OPEN (R160) -/
  | verified (a : Accounts) (b : BankId) (w : Word16) (st : BankState) (hb : a.standby = some b)
      (ho : a.operation = .commit w) :
      Operate a { a with bank := Function.update a.bank b (st, (a.bank b).2), operation := .none }
  /-- LINK RESET abandons the operation, and a VERIFYING bank returns to OPEN (R166) -/
  | abandon (a : Accounts) :
      Operate a { a with
        bank := fun b => (if (a.bank b).1 = .verifying then .opened else (a.bank b).1, (a.bank b).2)
        operation := .none }

/-- Nothing but banks and the operation changes. -/
theorem Accounts.Operate.frame {a b : Accounts} (h : a.Operate b) :
    b = { a with bank := b.bank, operation := b.operation } := by cases h <;> rfl

theorem Accounts.Operate.committed {a b : Accounts} (ho : a.Operate b) : b.Committed := by
  cases ho with
  | copy | copied | verified | abandon => intro w hw; cases hw
  | commit b w hb hs ho =>
    intro w' _
    have hst : ∀ x, (Function.update a.bank b (BankState.verifying, (a.bank b).2) x).1 = (a.bank x).1
        ∨ ((a.bank x).1 = .opened ∧ (Function.update a.bank b (BankState.verifying, (a.bank b).2) x).1 = .verifying) := by
      intro x
      by_cases e : x = b
      · subst e; right; simp [hs]
      · left; simp [e]
    refine ⟨b, Accounts.standby_of_states (fun x => ?_) (fun x k => ?_) hb, by simp⟩
    · rcases hst x with e | ⟨e1, e2⟩
      · simp only [e]
      · simp only [e1, e2]; decide
    · rcases hst x with e | ⟨e1, e2⟩
      · exact e ▸ k
      · simp only [e2] at k; cases k

theorem Accounts.Operate.units {a b : Accounts} (h : a.Units) (ho : a.Operate b) : b.Units := by
  rw [ho.frame]; exact ⟨h.unit, h.mark, h.once, h.waits⟩
theorem Accounts.Operate.contiguous {a b : Accounts} (h : a.labels.Contiguous) (ho : a.Operate b) :
    b.labels.Contiguous := by rw [ho.frame]; exact h
theorem Accounts.Operate.yields {a b : Accounts} (h : a.Yields) (ho : a.Operate b) : b.Yields := by
  have hb := ho.units h.units
  rw [ho.frame] at hb ⊢
  exact h.of_same hb (fun _ => rfl) rfl rfl
theorem Accounts.Operate.pool {a b : Accounts} (h : a.Pool) (ho : a.Operate b) : b.Pool := by
  have hb := ho.units h.units
  rw [ho.frame] at hb ⊢
  exact ⟨hb, h.ring, h.once, h.marking⟩

/-- No operation changes a pin count, nor the state of a pinned bank. -/
theorem Accounts.Operate.pins {a b : Accounts} (h : a.Pins) (ho : a.Operate b) : b.Pins := by
  have hb := ho.units h.units
  have hc := ho.committed
  have change : ∀ {b : BankId} {st : BankState}, (0 < (a.bank b).2 → st = .active ∨ st = .retiring) → ∀ c,
      (Function.update a.bank b (st, (a.bank b).2) c).2 = (a.bank c).2
      ∧ (0 < (a.bank c).2 → (Function.update a.bank b (st, (a.bank b).2) c).1 = .active
        ∨ (Function.update a.bank b (st, (a.bank b).2) c).1 = .retiring) := fun {b st} k c => by
    by_cases e : c = b
    · subst e; simpa using k
    · simpa [e] using h.state c
  cases ho with
  | copy b hsb ho =>
    refine h.of_bank hb hc (fun _ _ => rfl) (change fun k => ?_)
    rcases h.state b k with k | k <;> simp [k, openedState]
  | copied ho => exact h.of_bank hb hc (fun _ _ => rfl) fun c => ⟨rfl, h.state c⟩
  | commit b w hsb hs ho =>
    refine h.of_bank hb hc (fun _ _ => rfl) (change fun k => ?_)
    have := h.unpinned_of_state hs (by decide) (by decide)
    omega
  | verified b w st hsb ho =>
    refine h.of_bank hb hc (fun _ _ => rfl) (change fun k => ?_)
    obtain ⟨c, hc, hv⟩ := h.committed w ho
    rw [hsb, Option.some.injEq] at hc
    have := h.unpinned_of_state (hc ▸ hv) (by decide) (by decide)
    omega
  | abandon =>
    refine h.of_bank hb hc (fun _ _ => rfl) fun c => ⟨rfl, fun k => ?_⟩
    rcases h.state c k with k | k <;> simp [k]

/-! ## The arbiters (R53 to R59) -/

/-- What R54 and Tables 2-3 and 3-1 read: each nest's state, the sub-state of its unit, its drive mode and its group,
and the holder, the queue and the loud set of each group. -/
structure Arbiters where
  state : NestId → NestState
  sub : NestId → Option SubStage
  mode : NestId → DriveMode
  holder : GroupId → Option NestId
  queue : GroupId → List NestId
  loud : GroupId → NestId → Bool
  groupOf : NestId → GroupId

/-- The arbiters of a device. -/
def Device.arbiters (d : Device) : Arbiters where
  state n := (d.nest n).state
  sub n := (d.nest n).record.map UnitRecord.sub
  mode n := (d.nest n).tone.mode
  holder g := (d.group g).holder
  queue g := (d.group g).queue
  loud g n := (d.group g).loud[n]
  groupOf n := d.groupOf n

/-- The drive mode of a nest whose start begins (R37, R42). -/
def startedMode (st : NestState) (m : DriveMode) : DriveMode :=
  match st with
  | .levelLock => .lock
  | .sweeping => .segment
  | _ => m

/-- The sub-state of a unit whose start begins. -/
def startedSub (st : NestState) (x : SubStage) : SubStage :=
  match st with
  | .levelLock => .locking
  | .quietCheck => .measuring
  | .sweeping => .running
  | _ => x

/-- The start of nest `n` begins, with its place in the loud set where it is loud. -/
def Arbiters.begin (a : Arbiters) (n : NestId) (isLoud : Bool) : Arbiters :=
  { a with
    mode := Function.update a.mode n (startedMode (a.state n) (a.mode n))
    sub := Function.update a.sub n ((a.sub n).map (startedSub (a.state n)))
    loud := if isLoud then
        Function.update a.loud (a.groupOf n) (Function.update (a.loud (a.groupOf n)) n true)
      else a.loud }

/-- Nest `n` leaves every place of its group (R57). -/
def Arbiters.leave (a : Arbiters) (n : NestId) : Arbiters :=
  { a with
    sub := Function.update a.sub n ((a.sub n).map fun _ => .none)
    holder := Function.update a.holder (a.groupOf n) ((a.holder (a.groupOf n)).filter fun m => decide (m ≠ n))
    queue := Function.update a.queue (a.groupOf n) ((a.queue (a.groupOf n)).filter fun m => decide (m ≠ n))
    loud := Function.update a.loud (a.groupOf n) (Function.update (a.loud (a.groupOf n)) n false) }

/-- One thing that can happen to the arbiters, with the condition under which it does. -/
inductive Arbiters.Step : Arbiters → Arbiters → Prop
  /-- a nest that stands in no place of its group changes its state, its unit comes or goes, and its drive stays or goes
  silent; pass-through stays only where it may be (R49) -/
  | move (a : Arbiters) (n : NestId) (st : NestState) (x : Option SubStage) (m : DriveMode)
      (hx : a.sub n = none ∨ a.sub n = some .none) (hy : x = none ∨ x = some .none)
      (hm : m = .silent ∨ (m = a.mode n ∧ ((a.state n).takesPass = true → st.takesPass = true))) :
      Step a { a with
        state := Function.update a.state n st, sub := Function.update a.sub n x, mode := Function.update a.mode n m }
  /-- a drive goes silent -/
  | silence (a : Arbiters) (n : NestId) : Step a { a with mode := Function.update a.mode n .silent }
  /-- a silent nest leaves its group, into another stage or none (R57, R59) -/
  | withdraw (a : Arbiters) (n : NestId) (st : NestState) (m : DriveMode)
      (hm : m = .silent ∨ (m = a.mode n ∧ (a.state n).testStage = true ∧ a.state n ≠ .levelLock
        ∧ a.state n ≠ .sweeping)) :
      Step a { a.leave n with state := Function.update a.state n st, mode := Function.update a.mode n m }
  /-- the head of a queue is granted the permit (R55) -/
  | grant (a : Arbiters) (g : GroupId) (n : NestId) (rest : List NestId) (isLoud : Bool) (hh : a.holder g = none)
      (hq : a.queue g = n :: rest) (hl : isLoud = true → a.state n = .levelLock ∨ a.state n = .sweeping) :
      Step a (Arbiters.begin { a with
        holder := Function.update a.holder g (some n), queue := Function.update a.queue g rest } n isLoud)
  /-- a lock pilot or a segment that asks for no permit begins (R55, R58) -/
  | begin (a : Arbiters) (n : NestId) (isLoud : Bool)
      (hx : ((a.state n = .levelLock ∨ a.state n = .sweeping) ∧ a.sub n = some .none) ∨ a.sub n = some .held) :
      Step a (a.begin n isLoud)
  /-- a loud start is held (R56) -/
  | hold (a : Arbiters) (n : NestId) (hs : a.state n = .levelLock ∨ a.state n = .sweeping)
      (hx : a.sub n = some .none) : Step a { a with sub := Function.update a.sub n (some .held) }
  /-- a quiet start joins the queue of its group (R55) -/
  | enqueue (a : Arbiters) (n : NestId) (hs : a.state n = .quietCheck ∨ a.state n = .sweeping)
      (hx : a.sub n = some .none ∨ a.sub n = some .retryWait) :
      Step a { a with
        sub := Function.update a.sub n (some .waitPermit)
        queue := Function.update a.queue (a.groupOf n) (a.queue (a.groupOf n) ++ [n]) }
  /-- the retry wait begins (R62) -/
  | rest (a : Arbiters) (n : NestId) (hs : a.state n = .quietCheck) (hx : a.sub n = some .none) :
      Step a { a with sub := Function.update a.sub n (some .retryWait) }
  /-- PASS-THROUGH is taken (R49) -/
  | pass (a : Arbiters) (n : NestId) (i : Fin 2) (hs : (a.state n).takesPass = true) :
      Step a { a with mode := Function.update a.mode n (.pass i) }
  /-- GROUP MAP WRITE with no unit in test (R67) -/
  | regroup (a : Arbiters) (f : NestId → GroupId) (hs : ∀ n, (a.state n).inTest = false) : Step a { a with groupOf := f }

/-- Steps in a row. -/
def Arbiters.Steps : Arbiters → Arbiters → Prop := Relation.ReflTransGen Arbiters.Step

/-- The drive mode of a nest is that of its state and sub-state (Table 2-3). -/
def driveFits (st : NestState) (x : Option SubStage) (m : DriveMode) : Prop :=
  match m with
  | .silent => True
  | .lock => st = .levelLock ∧ x = some .locking
  | .segment => st = .sweeping ∧ x = some .running
  | .pass _ => st = .empty ∨ st = .loaded ∨ st = .done

/-- R54 and Tables 2-3 and 3-1. -/
structure Arbiters.Kept (a : Arbiters) : Prop where
  fits : ∀ n x, a.sub n = some x → x.fits (a.state n) = true
  drive : ∀ n, driveFits (a.state n) (a.sub n) (a.mode n)
  holder : ∀ g n, a.holder g = some n → a.groupOf n = g ∧ (a.sub n = some .measuring ∨ a.sub n = some .running)
  once : ∀ g, (a.queue g).Nodup
  queue : ∀ g n, n ∈ a.queue g ↔ a.groupOf n = g ∧ a.sub n = some .waitPermit
  loud : ∀ g n, a.loud g n = true → a.groupOf n = g ∧ (a.sub n = some .locking ∨ a.sub n = some .running)
  measuring : ∀ n, a.sub n = some .measuring → a.holder (a.groupOf n) = some n

theorem arbitersKept_iff (s : State) : ArbitersKept s ↔ UnitsKept s.dev ∧ s.dev.arbiters.Kept := by
  have hdrive : ∀ n, s.dev.DriveFits n ↔ driveFits (s.dev.arbiters.state n) (s.dev.arbiters.sub n)
      (s.dev.arbiters.mode n) := fun n => by
    simp only [Device.DriveFits, driveFits, Device.arbiters]
    cases (s.dev.nest n).tone.mode <;> rfl
  constructor
  · rintro ⟨h0, h1, h2, h3, h4, h5, h6, h7⟩
    refine ⟨h0, fun n x hx => ?_, fun n => (hdrive n).mp (h2 n), fun g n k => ?_, h4, h5, h6, h7⟩
    · obtain ⟨r, hr, rfl⟩ := Option.map_eq_some_iff.mp hx
      exact h1 n r hr
    · exact ⟨(h3 g n k).1, (h3 g n k).2.1⟩
  · rintro ⟨h0, h1, h2, h3, h4, h5, h6, h7⟩
    refine ⟨h0, fun n r hr => ?_, fun n => (hdrive n).mpr (h2 n), fun g n k => ?_, h4, h5, h6, h7⟩
    · exact h1 n r.sub (by simp [Device.arbiters, hr])
    · obtain ⟨hg, hs⟩ := h3 g n k
      refine ⟨hg, hs, fun hq => ?_⟩
      have hw := ((h5 g n).mp hq).2
      rcases hs with hs | hs <;> rw [hw] at hs <;> cases hs

/-- A nest whose unit has no start under way, or that has no unit, stands in no place of any group (R54). -/
theorem Arbiters.Kept.absent {a : Arbiters} (h : a.Kept) {n : NestId} (hx : a.sub n = none ∨ a.sub n = some .none
    ∨ a.sub n = some .held ∨ a.sub n = some .retryWait) (g : GroupId) :
    a.holder g ≠ some n ∧ n ∉ a.queue g ∧ a.loud g n = false := by
  refine ⟨fun k => ?_, fun k => ?_, ?_⟩
  · rcases (h.holder g n k).2 with e | e <;> simp [e] at hx
  · simp [((h.queue g n).mp k).2] at hx
  · by_contra k
    rcases (h.loud g n (by simpa using k)).2 with e | e <;> simp [e] at hx

/-- Where nest `n`, which stands in no place of a group before or after, changes alone, the arbiters keep R54. -/
theorem Arbiters.Kept.of_absent {a b : Arbiters} (h : a.Kept) (n : NestId)
    (hs : ∀ m, m ≠ n → b.state m = a.state m) (hx : ∀ m, m ≠ n → b.sub m = a.sub m)
    (hm : ∀ m, m ≠ n → b.mode m = a.mode m)
    (hg : b.holder = a.holder ∧ b.queue = a.queue ∧ b.loud = a.loud ∧ b.groupOf = a.groupOf)
    (ha : a.sub n = none ∨ a.sub n = some .none ∨ a.sub n = some .held ∨ a.sub n = some .retryWait)
    (hb : b.sub n = none ∨ b.sub n = some .none ∨ b.sub n = some .held ∨ b.sub n = some .retryWait)
    (hfit : ∀ x, b.sub n = some x → x.fits (b.state n) = true)
    (hdrive : driveFits (b.state n) (b.sub n) (b.mode n)) : b.Kept := by
  obtain ⟨hh, hq, hl, hgo⟩ := hg
  have habs := h.absent ha
  refine ⟨fun m x k => ?_, fun m => ?_, fun g m k => ?_, fun g => ?_, fun g m => ?_, fun g m k => ?_, fun m k => ?_⟩
  · by_cases e : m = n
    · subst e; exact hfit x k
    · rw [hs m e]; exact h.fits m x (hx m e ▸ k)
  · by_cases e : m = n
    · subst e; exact hdrive
    · rw [hs m e, hx m e, hm m e]; exact h.drive m
  · rw [hh] at k
    have e : m ≠ n := by rintro rfl; exact (habs g).1 k
    rw [hgo, hx m e]; exact h.holder g m k
  · rw [hq]; exact h.once g
  · rw [hq, hgo]
    by_cases e : m = n
    · subst e
      constructor
      · exact fun k => absurd k (habs g).2.1
      · rintro ⟨_, k⟩; simp [k] at hb
    · rw [hx m e]; exact h.queue g m
  · rw [hl] at k
    have e : m ≠ n := by rintro rfl; rw [(habs g).2.2] at k; cases k
    rw [hgo, hx m e]; exact h.loud g m k
  · by_cases e : m = n
    · subst e; simp [k] at hb
    · rw [hh, hgo]; exact h.measuring m (hx m e ▸ k)

/-- A nest that leaves every place of its group leaves the others as they stand (R57). -/
theorem Arbiters.Kept.leave {a : Arbiters} (h : a.Kept) {n : NestId} {st : NestState} {m : DriveMode}
    (hm : m = .silent ∨ (m = a.mode n ∧ (a.state n).testStage = true ∧ a.state n ≠ .levelLock
        ∧ a.state n ≠ .sweeping)) :
    Arbiters.Kept { a.leave n with
      state := Function.update a.state n st, mode := Function.update a.mode n m } := by
  have silent : m = .silent := by
    rcases hm with hm | ⟨hm, h1, h2, h3⟩
    · exact hm
    · have hd := h.drive n
      rw [hm]
      revert hd
      cases a.mode n with
      | silent => exact fun _ => rfl
      | lock => exact fun hd => absurd hd.1 h2
      | segment => exact fun hd => absurd hd.1 h3
      | pass i =>
        intro hd
        rcases hd with e | e | e <;> rw [e] at h1 <;> exact absurd h1 (by decide)
  subst silent
  have sub_same : ∀ x, (a.leave n).sub n = some x → x = .none := fun x k => by
    simp only [Arbiters.leave, Function.update_self, Option.map_eq_some_iff] at k
    obtain ⟨_, _, rfl⟩ := k
    rfl
  have sub_ne : ∀ k, k ≠ n → (a.leave n).sub k = a.sub k := fun k e => by simp [Arbiters.leave, e]
  have holder_iff : ∀ g k, (a.leave n).holder g = some k → k ≠ n ∧ a.holder g = some k := fun g k hk => by
    by_cases e : g = a.groupOf n
    · subst e
      simp only [Arbiters.leave, Function.update_self] at hk
      have := Option.mem_filter_iff.mp hk
      simpa [and_comm] using this
    · simp only [Arbiters.leave, Function.update_of_ne e] at hk
      exact ⟨fun e' => e (by rw [← e', (h.holder g k hk).1]), hk⟩
  have queue_iff : ∀ g k, k ∈ (a.leave n).queue g ↔ k ≠ n ∧ k ∈ a.queue g := fun g k => by
    by_cases e : g = a.groupOf n
    · subst e; simp [Arbiters.leave, and_comm]
    · simp only [Arbiters.leave, Function.update_of_ne e]
      exact ⟨fun hk => ⟨fun e' => e (by rw [← e', ((h.queue g k).mp hk).1]), hk⟩, fun hk => hk.2⟩
  refine ⟨fun k x hk => ?_, fun k => ?_, fun g k hk => ?_, fun g => ?_, fun g k => ?_, fun g k hk => ?_, fun k hk => ?_⟩
  · by_cases e : k = n
    · subst e; rw [sub_same x hk]; rfl
    · simp only [Function.update_of_ne e]; exact h.fits k x (sub_ne k e ▸ hk)
  · by_cases e : k = n
    · subst e; simp [driveFits]
    · simp only [Function.update_of_ne e, sub_ne k e]; exact h.drive k
  · obtain ⟨e, hk⟩ := holder_iff g k hk
    rw [show (a.leave n).sub k = a.sub k from sub_ne k e]
    exact h.holder g k hk
  · by_cases e : g = a.groupOf n
    · subst e; simp only [Arbiters.leave, Function.update_self]; exact (h.once _).filter _
    · simp only [Arbiters.leave, Function.update_of_ne e]; exact h.once g
  · refine (queue_iff g k).trans ?_
    show _ ↔ a.groupOf k = g ∧ (a.leave n).sub k = _
    by_cases e : k = n
    · subst e
      simp only [ne_eq, not_true_eq_false, false_and, false_iff]
      rintro ⟨_, hx⟩
      cases sub_same _ hx
    · rw [sub_ne k e]; simpa [e] using h.queue g k
  · have e : k ≠ n ∧ a.loud g k = true := by
      by_cases e : g = a.groupOf n
      · subst e
        simp only [Arbiters.leave, Function.update_self] at hk
        by_cases e' : k = n
        · subst e'; simp at hk
        · exact ⟨e', by simpa [e'] using hk⟩
      · simp only [Arbiters.leave, Function.update_of_ne e] at hk
        exact ⟨fun e' => e (by rw [← e', (h.loud g k hk).1]), hk⟩
    rw [show (a.leave n).sub k = a.sub k from sub_ne k e.1]
    exact h.loud g k e.2
  · have e : k ≠ n := by rintro rfl; cases sub_same _ hk
    have hh := h.measuring k (sub_ne k e ▸ hk)
    show (a.leave n).holder (a.groupOf k) = some k
    by_cases e' : a.groupOf k = a.groupOf n
    · rw [e'] at hh ⊢
      simp only [Arbiters.leave, Function.update_self, hh]
      simp [Option.filter, e]
    · simpa [Arbiters.leave, e'] using hh

/-- The begin of a start keeps R54: of a lock pilot or a segment that waits for no permit, or of any start of the
holder that waited for it (R55). -/
theorem Arbiters.Kept.begin {a b : Arbiters} {n : NestId} {isLoud : Bool} (h : b.Kept)
    (hb : a = b ∧ (b.state n = .levelLock ∨ b.state n = .sweeping) ∧ (b.sub n = some .none ∨ b.sub n = some .held)
      ∨ (∃ rest, b.holder (b.groupOf n) = none ∧ b.queue (b.groupOf n) = n :: rest
        ∧ a = { b with
            holder := Function.update b.holder (b.groupOf n) (some n)
            queue := Function.update b.queue (b.groupOf n) rest }
        ∧ (isLoud = true → b.state n = .levelLock ∨ b.state n = .sweeping))) : (a.begin n isLoud).Kept := by
  -- the state in which the start begins, with the sub-state and mode it takes
  have hst : ∃ x, (a.begin n isLoud).sub n = some x
      ∧ ((b.state n = .levelLock ∧ x = .locking ∧ (a.begin n isLoud).mode n = .lock ∧ b.sub n ≠ some .waitPermit)
        ∨ (b.state n = .sweeping ∧ x = .running ∧ (a.begin n isLoud).mode n = .segment)
        ∨ (b.state n = .quietCheck ∧ x = .measuring ∧ (a.begin n isLoud).mode n = b.mode n ∧ isLoud = false
          ∧ a.holder (b.groupOf n) = some n)) := by
    rcases hb with ⟨rfl, hs, hx⟩ | ⟨rest, hh, hq, rfl, hl⟩
    · rcases hs with hs | hs
      · exact ⟨.locking, by rcases hx with hx | hx <;> simp [Arbiters.begin, hx, hs, startedSub],
          Or.inl ⟨hs, rfl, by simp [Arbiters.begin, hs, startedMode], by rcases hx with hx | hx <;> simp [hx]⟩⟩
      · exact ⟨.running, by rcases hx with hx | hx <;> simp [Arbiters.begin, hx, hs, startedSub],
          Or.inr (Or.inl ⟨hs, rfl, by simp [Arbiters.begin, hs, startedMode]⟩)⟩
    · have hw := ((h.queue _ n).mp (by rw [hq]; simp)).2
      have hf := h.fits n _ hw
      simp only [SubStage.fits, Bool.or_eq_true, decide_eq_true_eq] at hf
      rcases hf with hs | hs
      · refine ⟨.measuring, by simp [Arbiters.begin, hw, hs, startedSub],
          Or.inr (Or.inr ⟨hs, rfl, by simp [Arbiters.begin, hs, startedMode], ?_, by simp⟩)⟩
        by_contra k
        rcases hl (by simpa using k) with e | e <;> rw [hs] at e <;> cases e
      · exact ⟨.running, by simp [Arbiters.begin, hw, hs, startedSub],
          Or.inr (Or.inl ⟨hs, rfl, by simp [Arbiters.begin, hs, startedMode]⟩)⟩
  obtain ⟨x, hx, hst⟩ := hst
  have state_eq : (a.begin n isLoud).state = b.state := by rcases hb with ⟨rfl, _⟩ | ⟨_, _, _, rfl, _⟩ <;> rfl
  have group_eq : (a.begin n isLoud).groupOf = b.groupOf := by rcases hb with ⟨rfl, _⟩ | ⟨_, _, _, rfl, _⟩ <;> rfl
  have sub_ne : ∀ m, m ≠ n → (a.begin n isLoud).sub m = b.sub m := fun m e => by
    rcases hb with ⟨rfl, _⟩ | ⟨_, _, _, rfl, _⟩ <;> simp [Arbiters.begin, e]
  have mode_ne : ∀ m, m ≠ n → (a.begin n isLoud).mode m = b.mode m := fun m e => by
    rcases hb with ⟨rfl, _⟩ | ⟨_, _, _, rfl, _⟩ <;> simp [Arbiters.begin, e]
  have holder_cases : ∀ g m, (a.begin n isLoud).holder g = some m →
      (m ≠ n ∧ b.holder g = some m) ∨ (m = n ∧ g = b.groupOf n ∧ x ≠ .locking) := fun g m k => by
    rcases hb with ⟨rfl, _, hs⟩ | ⟨rest, hh, hq, rfl, hl⟩
    · have habs := h.absent (n := n) (by rcases hs with hs | hs <;> simp [hs]) g
      exact Or.inl ⟨fun e => habs.1 (e ▸ k), k⟩
    · by_cases e : g = b.groupOf n
      · subst e
        simp only [Arbiters.begin, Function.update_self, Option.some.injEq] at k
        subst k
        refine Or.inr ⟨rfl, rfl, fun hlock => ?_⟩
        rcases hst with ⟨_, _, _, k⟩ | ⟨_, k, _⟩ | ⟨_, k, _⟩
        · exact k ((h.queue _ n).mp (by rw [hq]; simp)).2
        · rw [hlock] at k; cases k
        · rw [hlock] at k; cases k
      · simp only [Arbiters.begin, Function.update_of_ne e] at k
        exact Or.inl ⟨fun e' => e (by rw [← e', (h.holder g m k).1]), k⟩
  have queue_iff : ∀ g m, m ∈ (a.begin n isLoud).queue g ↔ m ≠ n ∧ m ∈ b.queue g := fun g m => by
    rcases hb with ⟨rfl, _, hs⟩ | ⟨rest, hh, hq, rfl, hl⟩
    · have habs := h.absent (n := n) (by rcases hs with hs | hs <;> simp [hs]) g
      exact ⟨fun k => ⟨fun e => habs.2.1 (e ▸ k), k⟩, fun k => k.2⟩
    · by_cases e : g = b.groupOf n
      · subst e
        have hnd := h.once (b.groupOf n)
        rw [hq] at hnd
        simp only [Arbiters.begin, Function.update_self, hq, List.mem_cons]
        constructor
        · exact fun k => ⟨fun e => (List.nodup_cons.mp hnd).1 (e ▸ k), Or.inr k⟩
        · rintro ⟨k, e | k'⟩
          · exact absurd e k
          · exact k'
      · simp only [Arbiters.begin, Function.update_of_ne e]
        exact ⟨fun k => ⟨fun e' => e (by rw [← e', ((h.queue g m).mp k).1]), k⟩, fun k => k.2⟩
  have loud_cases : ∀ g m, (a.begin n isLoud).loud g m = true →
      (m = n ∧ g = b.groupOf n ∧ isLoud = true) ∨ b.loud g m = true := fun g m k => by
    have hl : a.loud = b.loud ∧ a.groupOf = b.groupOf := by
      rcases hb with ⟨rfl, _⟩ | ⟨_, _, _, rfl, _⟩ <;> exact ⟨rfl, rfl⟩
    by_cases hloud : isLoud = true
    · by_cases e : g = b.groupOf n ∧ m = n
      · exact Or.inl ⟨e.2, e.1, hloud⟩
      · right
        simp only [Arbiters.begin, hloud, if_true, hl.1, hl.2] at k
        by_cases e1 : g = b.groupOf n
        · subst e1
          have e2 : m ≠ n := fun e2 => e ⟨rfl, e2⟩
          simpa [e2] using k
        · simpa [e1] using k
    · right
      simpa [Arbiters.begin, hloud, hl.1] using k
  refine ⟨fun m y k => ?_, fun m => ?_, fun g m k => ?_, fun g => ?_, fun g m => ?_, fun g m k => ?_, fun m k => ?_⟩
  · rw [state_eq]
    by_cases e : m = n
    · subst e
      rw [hx, Option.some.injEq] at k
      subst k
      rcases hst with ⟨hs, rfl, _⟩ | ⟨hs, rfl, _⟩ | ⟨hs, rfl, _⟩ <;> simp [SubStage.fits, hs]
    · exact h.fits m y (sub_ne m e ▸ k)
  · rw [state_eq]
    by_cases e : m = n
    · subst e
      rw [hx]
      rcases hst with ⟨hs, rfl, hm, _⟩ | ⟨hs, rfl, hm⟩ | ⟨hs, rfl, hm, _⟩
      · rw [hm]; exact ⟨hs, rfl⟩
      · rw [hm]; exact ⟨hs, rfl⟩
      · rw [hm]
        have hd := h.drive m
        revert hd
        cases b.mode m with
        | silent => exact fun _ => trivial
        | lock => exact fun hd => by rw [hs] at hd; cases hd.1
        | segment => exact fun hd => by rw [hs] at hd; cases hd.1
        | pass i => exact fun hd => by rw [hs] at hd; rcases hd with e | e | e <;> cases e
    · rw [sub_ne m e, mode_ne m e]; exact h.drive m
  · rw [group_eq]
    rcases holder_cases g m k with ⟨e, k⟩ | ⟨rfl, rfl, k⟩
    · rw [sub_ne m e]; exact h.holder g m k
    · refine ⟨rfl, ?_⟩
      rw [hx]
      rcases hst with ⟨_, rfl, _⟩ | ⟨_, rfl, _⟩ | ⟨_, rfl, _⟩ <;> simp_all
  · rcases hb with ⟨rfl, _, hs⟩ | ⟨rest, hh, hq, rfl, hl⟩
    · exact h.once g
    · by_cases e : g = b.groupOf n
      · subst e
        have hnd := h.once (b.groupOf n)
        rw [hq] at hnd
        simpa [Arbiters.begin] using (List.nodup_cons.mp hnd).2
      · simpa [Arbiters.begin, e] using h.once g
  · rw [queue_iff, group_eq]
    by_cases e : m = n
    · subst e
      simp only [ne_eq, not_true_eq_false, false_and, false_iff, hx]
      rintro ⟨_, k⟩
      rcases hst with ⟨_, rfl, _⟩ | ⟨_, rfl, _⟩ | ⟨_, rfl, _⟩ <;> cases k
    · rw [sub_ne m e]; simpa [e] using h.queue g m
  · rw [group_eq]
    rcases loud_cases g m k with ⟨rfl, rfl, hloud⟩ | hold
    · refine ⟨rfl, ?_⟩
      rw [hx]
      rcases hst with ⟨_, rfl, _⟩ | ⟨_, rfl, _⟩ | ⟨_, _, _, hno, _⟩
      · exact Or.inl rfl
      · exact Or.inr rfl
      · rw [hno] at hloud; cases hloud
    · by_cases e : m = n
      · subst e
        refine ⟨(h.loud g m hold).1, ?_⟩
        rw [hx]
        rcases hst with ⟨_, rfl, _⟩ | ⟨_, rfl, _⟩ | ⟨hs, _, _⟩
        · exact Or.inl rfl
        · exact Or.inr rfl
        · rcases (h.loud g m hold).2 with k | k <;> have := h.fits m _ k <;> simp [SubStage.fits, hs] at this
      · rw [sub_ne m e]; exact h.loud g m hold
  · rw [group_eq]
    by_cases e : m = n
    · subst e
      rw [hx, Option.some.injEq] at k
      subst k
      rcases hst with ⟨_, k, _⟩ | ⟨_, k, _⟩ | ⟨_, _, _, _, k⟩
      · cases k
      · cases k
      · exact k
    · have hh := h.measuring m (sub_ne m e ▸ k)
      rcases hb with ⟨rfl, _, hs⟩ | ⟨rest, hn, hq, rfl, hl⟩
      · exact hh
      · have e' : b.groupOf m ≠ b.groupOf n := fun e' => by rw [e', hn] at hh; cases hh
        simpa [Arbiters.begin, e'] using hh

theorem Arbiters.Step.kept {a b : Arbiters} (h : a.Kept) (hstep : a.Step b) : b.Kept := by
  have ne : ∀ {α : Type} (f : NestId → α) (n m : NestId) (v : α), m ≠ n → Function.update f n v m = f m :=
    fun f n m v e => Function.update_of_ne e v f
  -- a nest without a start under way drives nothing but pass-through
  have idle : ∀ n, (a.sub n = none ∨ a.sub n = some .none ∨ a.sub n = some .held ∨ a.sub n = some .retryWait) →
      ∀ (st : NestState) (x : Option SubStage), ((a.state n).takesPass = true → st.takesPass = true) →
      driveFits st x (a.mode n) := fun n hx st x hp => by
    have hd := h.drive n
    revert hd
    cases a.mode n with
    | silent => exact fun _ => trivial
    | lock => exact fun hd => by simp [hd.2] at hx
    | segment => exact fun hd => by simp [hd.2] at hx
    | pass i =>
      intro hd
      have : st.takesPass = true := hp (by rcases hd with e | e | e <;> rw [e] <;> rfl)
      revert this
      cases st <;> simp [NestState.takesPass, driveFits]
  cases hstep with
  | move n st x m hx hy hm =>
    refine h.of_absent n (fun m e => ne _ n m _ e) (fun m e => ne _ n m _ e) (fun m e => ne _ n m _ e)
      ⟨rfl, rfl, rfl, rfl⟩ (by rcases hx with hx | hx <;> simp [hx]) (by rcases hy with hy | hy <;> simp [hy]) ?_ ?_
    · intro y hy'
      rcases hy with hy | hy <;> simp [hy] at hy'
      subst hy'; rfl
    · simp only [Function.update_self]
      rcases hm with rfl | ⟨rfl, hp⟩
      · exact trivial
      · exact idle n (by rcases hx with hx | hx <;> simp [hx]) st x hp
  | silence n =>
    refine ⟨h.fits, fun m => ?_, h.holder, h.once, h.queue, h.loud, h.measuring⟩
    by_cases e : m = n
    · subst e; simp [driveFits]
    · simpa [e] using h.drive m
  | withdraw n st m hm => exact h.leave hm
  | grant g n rest isLoud hh hq hl =>
    have hg : a.groupOf n = g := ((h.queue g n).mp (by rw [hq]; simp)).1
    subst hg
    exact Arbiters.Kept.begin h (Or.inr ⟨rest, hh, hq, rfl, hl⟩)
  | begin n isLoud hx =>
    refine Arbiters.Kept.begin h (Or.inl ⟨rfl, ?_, hx.imp And.right id⟩)
    rcases hx with ⟨hs, _⟩ | hx
    · exact hs
    · simpa [SubStage.fits] using h.fits n _ hx
  | hold n hs hx =>
    refine h.of_absent n (fun _ _ => rfl) (fun m e => ne _ n m _ e) (fun _ _ => rfl) ⟨rfl, rfl, rfl, rfl⟩
      (by simp [hx]) (by simp) ?_ (idle n (by simp [hx]) _ _ id)
    intro y hy
    simp only [Function.update_self, Option.some.injEq] at hy
    subst hy
    rcases hs with hs | hs <;> simp [SubStage.fits, hs]
  | enqueue n hs hx =>
    have habs := h.absent (n := n) (by rcases hx with hx | hx <;> simp [hx])
    have queue_iff : ∀ g m, m ∈ Function.update a.queue (a.groupOf n) (a.queue (a.groupOf n) ++ [n]) g
        ↔ m ∈ a.queue g ∨ (m = n ∧ g = a.groupOf n) := fun g m => by
      by_cases e : g = a.groupOf n
      · subst e; simp
      · simp [e]
    refine ⟨fun m y k => ?_, fun m => ?_, fun g m k => ?_, fun g => ?_, fun g m => ?_, fun g m k => ?_, fun m k => ?_⟩
    · by_cases e : m = n
      · subst e
        simp only [Function.update_self, Option.some.injEq] at k
        subst k
        rcases hs with hs | hs <;> simp [SubStage.fits, hs]
      · exact h.fits m y (by simpa [e] using k)
    · by_cases e : m = n
      · subst e; exact idle m (by rcases hx with hx | hx <;> simp [hx]) _ _ id
      · simpa [e] using h.drive m
    · have e : m ≠ n := by rintro rfl; exact (habs g).1 k
      simpa [e] using h.holder g m k
    · by_cases e : g = a.groupOf n
      · subst e
        simp only [Function.update_self]
        exact List.nodup_append.mpr ⟨h.once _, List.nodup_singleton n, by
          intro m hm k hk; rw [List.mem_singleton.mp hk]; exact fun e => (habs _).2.1 (e ▸ hm)⟩
      · simpa [e] using h.once g
    · refine (queue_iff g m).trans ?_
      by_cases e : m = n
      · subst e
        simp only [Function.update_self, and_true, true_and]
        constructor
        · rintro (k | rfl)
          · exact absurd k (habs g).2.1
          · rfl
        · exact fun k => Or.inr k.symm
      · simpa [e] using h.queue g m
    · have e : m ≠ n := by
        rintro rfl
        have := (habs g).2.2
        rw [show a.loud g m = true from k] at this; cases this
      simpa [e] using h.loud g m k
    · by_cases e : m = n
      · subst e; simp at k
      · exact h.measuring m (by simpa [e] using k)
  | rest n hs hx =>
    refine h.of_absent n (fun _ _ => rfl) (fun m e => ne _ n m _ e) (fun _ _ => rfl) ⟨rfl, rfl, rfl, rfl⟩
      (by simp [hx]) (by simp) ?_ (idle n (by simp [hx]) _ _ id)
    intro y hy
    simp only [Function.update_self, Option.some.injEq] at hy
    subst hy
    simp [SubStage.fits, hs]
  | pass n i hs =>
    refine ⟨h.fits, fun m => ?_, h.holder, h.once, h.queue, h.loud, h.measuring⟩
    by_cases e : m = n
    · subst e
      simp only [Function.update_self]
      revert hs
      show (a.state m).takesPass = true → _
      cases a.state m <;> simp [NestState.takesPass, driveFits]
    · simpa [e] using h.drive m
  | regroup f hs =>
    have none_of : ∀ n x, a.sub n = some x → x = .none := fun n x hx => by
      have hf := h.fits n x hx
      have ht := hs n
      revert hf
      cases x <;> cases hst : a.state n <;> simp_all [SubStage.fits, NestState.inTest]
    refine ⟨h.fits, h.drive, fun g n k => ?_, h.once, fun g n => ?_, fun g n k => ?_, fun n k => ?_⟩
    · rcases (h.holder g n k).2 with e | e <;> cases none_of n _ e
    · constructor
      · exact fun k => by cases none_of n _ ((h.queue g n).mp k).2
      · exact fun k => by cases none_of n _ k.2
    · rcases (h.loud g n k).2 with e | e <;> cases none_of n _ e
    · cases none_of n _ k

end Sys2Proof.Machine

namespace Sys2Proof.Machine

/-! ## The views of a changed device -/

@[simp] theorem Device.arbiters_raise (d : Device) (i : SourceId) : (d.raise i).arbiters = d.arbiters := rfl
@[simp] theorem Device.accounts_raise (d : Device) (i : SourceId) : (d.raise i).accounts = d.accounts := rfl
@[simp] theorem Device.arbiters_count (d : Device) (n : NestId) (f : Counters → Counters) :
    (d.count n f).arbiters = d.arbiters := rfl
@[simp] theorem Device.accounts_count (d : Device) (n : NestId) (f : Counters → Counters) :
    (d.count n f).accounts = { d.accounts with live := d.yields.live.set n (f d.yields.live[n]) } := rfl
@[simp] theorem Device.arbiters_freeChain (d : Device) (c : Chain) : (d.freeChain c).arbiters = d.arbiters := rfl
@[simp] theorem Device.accounts_freeChain (d : Device) (c : Chain) :
    (d.freeChain c).accounts = { d.accounts with free := d.pool.free ++ c.blocks } := rfl
@[simp] theorem Device.accounts_modGroup (d : Device) (g : GroupId) (f : Group → Group) :
    (d.modGroup g f).accounts = d.accounts := rfl

theorem update_comp_set {α : Type} (f : NestId → α) (n : NestId) (v : α) {g : NestId → α} (hn : g n = v)
    (hne : ∀ m, m ≠ n → g m = f m) : g = Function.update f n v := by
  funext m
  by_cases e : m = n
  · subst e; simpa using hn
  · rw [Function.update_of_ne e, hne m e]

@[simp] theorem Device.accounts_setNest (d : Device) (n : NestId) (x : Nest) :
    (d.setNest n x).accounts = { d.accounts with
      state := Function.update d.accounts.state n x.state
      unit := Function.update d.accounts.unit n (x.record.map fun r => (r.bank, r.chain.blocks))
      mark := Function.update d.accounts.mark n x.markClaim } := by
  have h := d.nest_setNest_same n x
  have k := fun m (e : m ≠ n) => d.nest_setNest_ne x e
  have h1 : (fun m => ((d.setNest n x).nest m).state) = Function.update d.accounts.state n x.state :=
    update_comp_set _ n _ (by rw [h]) fun m e => by rw [k m e]; rfl
  have h2 : (fun m => ((d.setNest n x).nest m).record.map fun r => (r.bank, r.chain.blocks))
      = Function.update d.accounts.unit n (x.record.map fun r => (r.bank, r.chain.blocks)) :=
    update_comp_set _ n _ (by rw [h]) fun m e => by rw [k m e]; rfl
  have h3 : (fun m => ((d.setNest n x).nest m).markClaim) = Function.update d.accounts.mark n x.markClaim :=
    update_comp_set _ n _ (by rw [h]) fun m e => by rw [k m e]; rfl
  simp only [← h1, ← h2, ← h3]
  rfl

@[simp] theorem Device.arbiters_setNest (d : Device) (n : NestId) (x : Nest) :
    (d.setNest n x).arbiters = { d.arbiters with
      state := Function.update d.arbiters.state n x.state
      sub := Function.update d.arbiters.sub n (x.record.map UnitRecord.sub)
      mode := Function.update d.arbiters.mode n x.tone.mode } := by
  have h := d.nest_setNest_same n x
  have k := fun m (e : m ≠ n) => d.nest_setNest_ne x e
  have h1 : (fun m => ((d.setNest n x).nest m).state) = Function.update d.arbiters.state n x.state :=
    update_comp_set _ n _ (by rw [h]) fun m e => by rw [k m e]; rfl
  have h2 : (fun m => ((d.setNest n x).nest m).record.map UnitRecord.sub)
      = Function.update d.arbiters.sub n (x.record.map UnitRecord.sub) :=
    update_comp_set _ n _ (by rw [h]) fun m e => by rw [k m e]; rfl
  have h3 : (fun m => ((d.setNest n x).nest m).tone.mode) = Function.update d.arbiters.mode n x.tone.mode :=
    update_comp_set _ n _ (by rw [h]) fun m e => by rw [k m e]; rfl
  simp only [← h1, ← h2, ← h3]
  rfl

/-- Of a nest the accounts read its state, its unit and its MARK claim alone. -/
theorem Device.accounts_setNest_of_same (d : Device) {n : NestId} {x : Nest} (hs : x.state = (d.nest n).state)
    (hr : x.record.map (fun r => (r.bank, r.chain.blocks)) = (d.nest n).record.map fun r => (r.bank, r.chain.blocks))
    (hm : x.markClaim = (d.nest n).markClaim) : (d.setNest n x).accounts = d.accounts := by
  rw [Device.accounts_setNest, hs, hr, hm]
  have h1 : Function.update d.accounts.state n (d.nest n).state = d.accounts.state := Function.update_eq_self n _
  have h2 : Function.update d.accounts.unit n ((d.nest n).record.map fun r => (r.bank, r.chain.blocks))
      = d.accounts.unit := Function.update_eq_self n _
  have h3 : Function.update d.accounts.mark n (d.nest n).markClaim = d.accounts.mark := Function.update_eq_self n _
  rw [h1, h2, h3]

/-- Of a nest the arbiters read its state, its sub-state and its drive mode alone. -/
theorem Device.arbiters_setNest_of_same (d : Device) {n : NestId} {x : Nest} (hs : x.state = (d.nest n).state)
    (hr : x.record.map UnitRecord.sub = (d.nest n).record.map UnitRecord.sub)
    (hm : x.tone.mode = (d.nest n).tone.mode) : (d.setNest n x).arbiters = d.arbiters := by
  rw [Device.arbiters_setNest, hs, hr, hm]
  have h1 : Function.update d.arbiters.state n (d.nest n).state = d.arbiters.state := Function.update_eq_self n _
  have h2 : Function.update d.arbiters.sub n ((d.nest n).record.map UnitRecord.sub) = d.arbiters.sub :=
    Function.update_eq_self n _
  have h3 : Function.update d.arbiters.mode n (d.nest n).tone.mode = d.arbiters.mode := Function.update_eq_self n _
  rw [h1, h2, h3]

/-- The fall of a pin, in the accounts (R164). -/
@[simp] theorem Device.accounts_unpin (d : Device) (b : BankId) :
    (d.unpin b).accounts = { d.accounts with bank := Function.update d.accounts.bank b (unpinned (d.accounts.bank b)) } := by
  have h := d.unpin_spec b
  have hbank : (d.unpin b).accounts.bank = Function.update d.accounts.bank b (unpinned (d.accounts.bank b)) := by
    funext c
    by_cases e : c = b
    · subst e
      simp only [Function.update_self]
      exact Prod.ext h.state h.pins
    · rw [Function.update_of_ne e]
      show ((d.unpin b).tables.bank c |>.state, ((d.unpin b).tables.bank c).pins) = _
      rw [h.others c e]; rfl
  have hop := h.operation
  rw [← hbank]
  rw [h.frame]
  simp only [Device.accounts, hop]
  rfl

@[simp] theorem Device.arbiters_unpin (d : Device) (b : BankId) : (d.unpin b).arbiters = d.arbiters := by
  rw [(d.unpin_spec b).frame]; rfl

/-- The start of a unit's pin, in the accounts (R10). -/
theorem Device.accounts_modBank (d : Device) (b : BankId) (f : Bank → Bank) :
    Device.accounts { d with tables := d.tables.modBank b f }
      = { d.accounts with
          bank := Function.update d.accounts.bank b ((f (d.tables.bank b)).state, (f (d.tables.bank b)).pins) } := by
  have hbank : (fun c => (((d.tables.modBank b f).bank c).state, ((d.tables.modBank b f).bank c).pins))
      = Function.update d.accounts.bank b ((f (d.tables.bank b)).state, (f (d.tables.bank b)).pins) := by
    funext c
    by_cases e : c = b
    · subst e; simp
    · rw [Function.update_of_ne e, d.tables.bank_modBank_ne f e]; rfl
  rw [← hbank]
  simp only [Device.accounts, TableStore.modBank_operation]
  rfl

/-- The posting of a label, in the accounts (R101). -/
@[simp] theorem Device.accounts_postLabel (d : Device) (n : NestId) (l : Label) (c : Option Chain) :
    (d.postLabel n l c).accounts
      = { d.accounts with
          labels := d.labels.put { label := l, chain := c }
          live := d.yields.live.set n (d.yields.live[n].countLabel l) } := by
  have h := d.postLabel_spec n l c
  have hn : (d.postLabel n l c).nest = (d.setNest n { d.nest n with
      history := addEvent (d.nest n).history .labelled }).nest := by
    funext m; simp only [Device.nest, h.nest]
  have ha := d.accounts_setNest_of_same (n := n) (x := { d.nest n with
      history := addEvent (d.nest n).history .labelled }) rfl rfl rfl
  generalize d.postLabel n l c = e at h hn ⊢
  have h1 : e.accounts.state = d.accounts.state := by
    rw [← congrArg Accounts.state ha]; simp only [Device.accounts, hn]
  have h2 : e.accounts.unit = d.accounts.unit := by
    rw [← congrArg Accounts.unit ha]; simp only [Device.accounts, hn]
  have h3 : e.accounts.mark = d.accounts.mark := by
    rw [← congrArg Accounts.mark ha]; simp only [Device.accounts, hn]
  have h4 : e.pool = d.pool ∧ e.tables = d.tables := by rw [h.frame]; exact ⟨rfl, rfl⟩
  show e.accounts = Accounts.mk d.accounts.state d.accounts.unit d.accounts.mark _ _ _ _ _ _
  rw [← h1, ← h2, ← h3]
  simp only [Device.accounts, h.labels, h.yields, h4.1, h4.2]

@[simp] theorem Device.arbiters_postLabel (d : Device) (n : NestId) (l : Label) (c : Option Chain) :
    (d.postLabel n l c).arbiters = d.arbiters := by
  have h := d.postLabel_spec n l c
  have hn : (d.postLabel n l c).nest = (d.setNest n { d.nest n with
      history := addEvent (d.nest n).history .labelled }).nest := by
    funext m; simp only [Device.nest, h.nest]
  have ha := d.arbiters_setNest_of_same (n := n) (x := { d.nest n with
      history := addEvent (d.nest n).history .labelled }) rfl rfl rfl
  generalize d.postLabel n l c = e at h hn ⊢
  have hg : e.groups = d.groups ∧ e.groupMap = d.groupMap := by rw [h.frame]; exact ⟨rfl, rfl⟩
  rw [← ha]
  simp only [Device.arbiters, hn, Device.group, Device.groupOf, hg.1, hg.2]
  rfl

/-! ## Starts, in the views -/

theorem SameButStart.unit {x y : Nest} (h : SameButStart x y) :
    y.record.map (fun r => (r.bank, r.chain.blocks)) = x.record.map fun r => (r.bank, r.chain.blocks) := by
  have := congrArg (Option.map fun r : UnitRecord => (r.bank, r.chain.blocks)) h.2
  simpa [Option.map_map, Function.comp_def] using this
theorem SameButStart.markClaim {x y : Nest} (h : SameButStart x y) : y.markClaim = x.markClaim := by rw [h.1]

/-- A change of starts alone leaves the accounts as they are. -/
theorem StartsOnly.accounts {d e : Device} (h : StartsOnly d e) : e.accounts = d.accounts := by
  have h1 : e.accounts.state = d.accounts.state := funext fun m => (h.nests m).state
  have h2 : e.accounts.unit = d.accounts.unit := funext fun m => (h.nests m).unit
  have h3 : e.accounts.mark = d.accounts.mark := funext fun m => (h.nests m).markClaim
  have h4 : e.labels = d.labels ∧ e.yields = d.yields ∧ e.pool = d.pool ∧ e.tables = d.tables := by
    rw [h.frame]; exact ⟨rfl, rfl, rfl, rfl⟩
  show _ = Accounts.mk d.accounts.state d.accounts.unit d.accounts.mark _ _ _ _ _ _
  rw [← h1, ← h2, ← h3]
  simp only [Device.accounts, h4]

@[simp] theorem Device.accounts_presentStart (d : Device) (n : NestId) :
    (d.presentStart n).accounts = d.accounts := (d.presentStart_startsOnly n).accounts
@[simp] theorem Device.accounts_leaveArbiter (d : Device) (n : NestId) :
    (d.leaveArbiter n).accounts = d.accounts := (d.leaveArbiter_startsOnly n).accounts

/-- A change of one group, in the arbiters. -/
theorem Device.arbiters_modGroup (d : Device) (g : GroupId) (f : Group → Group) :
    (d.modGroup g f).arbiters = { d.arbiters with
      holder := Function.update d.arbiters.holder g (f (d.group g)).holder
      queue := Function.update d.arbiters.queue g (f (d.group g)).queue
      loud := Function.update d.arbiters.loud g fun n => (f (d.group g)).loud[n] } := by
  have h : ∀ {α : Type} (p : Group → α), (fun k => p ((d.modGroup g f).group k))
      = Function.update (fun k => p (d.group k)) g (p (f (d.group g))) := fun p => by
    funext k
    by_cases e : k = g
    · subst e; simp
    · rw [Function.update_of_ne e, d.modGroup_group_ne f e]
  simp only [Device.arbiters, Device.modGroup_nest, Device.modGroup_groupOf]
  rw [h Group.holder, h Group.queue, h fun x => fun n : NestId => x.loud[n]]

/-- The begin of a start, in the arbiters. -/
theorem Device.arbiters_beginStart (d : Device) (n : NestId) :
    (d.beginStart n).arbiters = d.arbiters.begin n (d.exceedsThreshold n) := by
  have hx : (d.setNest n (d.nest n).started).arbiters = d.arbiters.begin n false := by
    rw [Device.arbiters_setNest]
    have h1 : (d.nest n).started.state = d.arbiters.state n := (Nest.started_same (d.nest n)).state
    have h2 : (d.nest n).started.record.map UnitRecord.sub
        = (d.arbiters.sub n).map (startedSub (d.arbiters.state n)) := by
      simp only [Device.arbiters, Nest.started]
      cases (d.nest n).state <;> cases (d.nest n).record <;> rfl
    have h3 : (d.nest n).started.tone.mode = startedMode (d.arbiters.state n) (d.arbiters.mode n) := by
      simp only [Device.arbiters, Nest.started]
      cases (d.nest n).state <;> rfl
    rw [h1, h2, h3, Function.update_eq_self]
    rfl
  rw [Device.beginStart_eq]
  split
  · rename_i hl
    rw [Device.arbiters_modGroup, hx, hl]
    have e1 : Function.update (d.arbiters.begin n false).holder (d.groupOf n) (d.group (d.groupOf n)).holder
        = d.arbiters.holder := Function.update_eq_self _ _
    have e2 : Function.update (d.arbiters.begin n false).queue (d.groupOf n) (d.group (d.groupOf n)).queue
        = d.arbiters.queue := Function.update_eq_self _ _
    have e3 : (fun m : NestId => ((d.group (d.groupOf n)).loud.set n true)[m])
        = Function.update (d.arbiters.loud (d.groupOf n)) n true := by
      refine update_comp_set _ n _ (by simp) fun m e => ?_
      have hv : n.val ≠ m.val := fun k => e (Fin.ext k.symm)
      simp [Vector.getElem_set_ne _ _ hv, Device.arbiters]
    simp only [Device.setNest_group, e1, e2, e3]
    rfl
  · rename_i hl
    rw [hx, Bool.not_eq_true _ |>.mp hl]

/-- Only a lock pilot and a segment exceed a threshold (R53). -/
theorem Device.state_of_exceeds {d : Device} {n : NestId} (h : d.exceedsThreshold n = true) :
    d.arbiters.state n = .levelLock ∨ d.arbiters.state n = .sweeping := by
  simp only [Device.exceedsThreshold] at h
  split at h
  · cases h
  · split at h
    · left; assumption
    · right; assumption
    · cases h

/-- The permit that the grant test gives, if any (R55). -/
theorem Device.grantTest_arbiters (d : Device) (g : GroupId) : d.arbiters.Steps (d.grantTest g).arbiters := by
  rcases d.grantTest_cases g with h | ⟨n, rest, hh, hq, h⟩
  · rw [h]; exact .refl
  · rw [h, Device.arbiters_beginStart, Device.arbiters_modGroup]
    have el : Function.update d.arbiters.loud g (fun n : NestId => (d.group g).loud[n]) = d.arbiters.loud :=
      Function.update_eq_self _ _
    rw [el]
    exact .single (.grant d.arbiters g n rest _ hh hq Device.state_of_exceeds)

/-- The held starts that begin (R58). -/
theorem Device.foldHeld_arbiters (g : GroupId) (l : List NestId) (d : Device) :
    d.arbiters.Steps (l.foldl (Device.beginIfHeld g) d).arbiters := by
  induction l generalizing d with
  | nil => exact .refl
  | cons n l ih =>
    refine .trans ?_ (ih (d.beginIfHeld g n))
    simp only [Device.beginIfHeld]
    split
    · rename_i h
      simp only [Device.isHeld, Bool.and_eq_true, Option.any_eq_true, decide_eq_true_eq] at h
      obtain ⟨_, r, hr, hs⟩ := h
      rw [Device.arbiters_beginStart]
      exact .single (.begin _ n _ (Or.inr (by simp [Device.arbiters, hr, hs])))
    · exact .refl

theorem Device.settleGroup_arbiters (d : Device) (g : GroupId) : d.arbiters.Steps (d.settleGroup g).arbiters := by
  refine .trans (d.grantTest_arbiters g) ?_
  simp only [Device.settleGroup, Device.beginHeld]
  split
  · exact Device.foldHeld_arbiters g _ _
  · exact .refl

/-- A nest leaves its arbiter, in a device whose arbiters are those of `a` but for its state and its silent drive
(R57, R59). -/
theorem Arbiters.Steps.leaveArbiter {a : Arbiters} {d : Device} {n : NestId} {st : NestState} {m : DriveMode}
    (h : d.arbiters = { a with state := Function.update a.state n st, mode := Function.update a.mode n m })
    (hm : m = .silent ∨ (m = a.mode n ∧ (a.state n).testStage = true ∧ a.state n ≠ .levelLock
      ∧ a.state n ≠ .sweeping)) : a.Steps (d.leaveArbiter n).arbiters := by
  refine .trans ?_ (Device.settleGroup_arbiters _ (d.groupOf n))
  have hsub : (d.setSub n .none).arbiters
      = { d.arbiters with sub := Function.update d.arbiters.sub n ((d.arbiters.sub n).map fun _ => .none) } := by
    rw [Device.setSub_eq, Device.arbiters_setNest]
    have e1 : Function.update d.arbiters.state n (d.nest n).state = d.arbiters.state := Function.update_eq_self _ _
    have e2 : Function.update d.arbiters.mode n (d.nest n).tone.mode = d.arbiters.mode := Function.update_eq_self _ _
    have e3 : ((d.nest n).record.map fun r => { r with sub := SubStage.none }).map UnitRecord.sub
        = (d.arbiters.sub n).map fun _ => SubStage.none := by
      simp [Device.arbiters, Option.map_map, Function.comp_def]
    simp only [e1, e2, e3]
  have hw : ((d.setSub n .none).modGroup (d.groupOf n) fun x =>
      { x with
        holder := x.holder.filter fun m => decide (m ≠ n)
        queue := x.queue.filter fun m => decide (m ≠ n)
        loud := x.loud.set n false }).arbiters = d.arbiters.leave n := by
    rw [Device.arbiters_modGroup, hsub]
    have e3 : (fun k : NestId => (((d.setSub n .none).group (d.groupOf n)).loud.set n false)[k])
        = Function.update (d.arbiters.loud (d.groupOf n)) n false := by
      refine update_comp_set _ n _ (by simp) fun k e => ?_
      have hv : n.val ≠ k.val := fun x => e (Fin.ext x.symm)
      simp [Vector.getElem_set_ne _ _ hv, Device.arbiters, Device.setSub_eq]
    rw [e3]
    rfl
  rw [hw, h]
  exact .single (.withdraw a n st m hm)

/-- After leaving its arbiter, a unit has no start under way. -/
theorem Device.leaveArbiter_arbiters_self (d : Device) (n : NestId) :
    (d.leaveArbiter n).arbiters.state n = d.arbiters.state n
    ∧ (d.leaveArbiter n).arbiters.sub n = (d.arbiters.sub n).map (fun _ => .none)
    ∧ (d.leaveArbiter n).arbiters.mode n = d.arbiters.mode n := by
  have h := (d.leaveArbiter_self n).2
  simp only [Device.arbiters, h]
  refine ⟨trivial, ?_, trivial⟩
  simp [Option.map_map, Function.comp_def]

/-- A start is presented by a unit that has none under way (R55, R56). -/
theorem Device.presentStart_arbiters {d : Device} {n : NestId}
    (h : ((d.arbiters.state n = .levelLock ∨ d.arbiters.state n = .sweeping) ∧ d.arbiters.sub n = some .none)
      ∨ (d.arbiters.state n = .quietCheck ∧ (d.arbiters.sub n = some .none ∨ d.arbiters.sub n = some .retryWait))) :
    d.arbiters.Steps (d.presentStart n).arbiters := by
  have hrec : ∃ r, (d.nest n).record = some r := by
    have : ∃ x, d.arbiters.sub n = some x := by
      rcases h with ⟨_, h⟩ | ⟨_, h | h⟩ <;> exact ⟨_, h⟩
    obtain ⟨x, hx⟩ := this
    obtain ⟨r, hr, _⟩ := Option.map_eq_some_iff.mp hx
    exact ⟨r, hr⟩
  obtain ⟨r, hr⟩ := hrec
  have hquiet : (d.nest n).state = .quietCheck → d.startClass n = .quiet := fun hs => by
    simp [Device.startClass, hr, hs]
  have hlock : (d.nest n).state = .levelLock → d.startClass n ≠ .quiet := Device.startClass_lock
  have hset : ∀ x, (d.setSub n x).arbiters = { d.arbiters with sub := Function.update d.arbiters.sub n (some x) } :=
    fun x => by
      rw [Device.setSub_eq, Device.arbiters_setNest]
      have e1 : Function.update d.arbiters.state n (d.nest n).state = d.arbiters.state := Function.update_eq_self _ _
      have e2 : Function.update d.arbiters.mode n (d.nest n).tone.mode = d.arbiters.mode :=
        Function.update_eq_self _ _
      simp only [e1, e2, hr]; rfl
  have begins : d.startClass n ≠ .quiet → d.arbiters.Steps (d.beginStart n).arbiters := fun hc => by
    rw [Device.arbiters_beginStart]
    refine .single (.begin _ n _ (Or.inl ?_))
    rcases h with h | ⟨hs, _⟩
    · exact h
    · exact absurd (hquiet hs) hc
  simp only [Device.presentStart]
  split
  · rename_i hc; exact begins (by rw [hc]; decide)
  · rename_i hc
    split
    · rw [hset]
      rcases h with ⟨hs, hx⟩ | ⟨hs, _⟩
      · exact .single (.hold _ n hs hx)
      · rw [hquiet hs] at hc; cases hc
    · exact begins (by rw [hc]; decide)
  · rename_i hc
    refine .trans (.single ?_) (Device.grantTest_arbiters _ _)
    rw [Device.arbiters_modGroup, hset]
    have e1 : Function.update d.arbiters.holder (d.groupOf n) ((d.setSub n .waitPermit).group (d.groupOf n)).holder
        = d.arbiters.holder := Function.update_eq_self _ _
    have e2 : Function.update d.arbiters.loud (d.groupOf n)
        (fun k : NestId => ((d.setSub n .waitPermit).group (d.groupOf n)).loud[k]) = d.arbiters.loud :=
      Function.update_eq_self _ _
    simp only [e1, e2]
    refine .enqueue d.arbiters n ?_ ?_
    · rcases h with ⟨hs | hs, _⟩ | ⟨hs, _⟩
      · exact absurd hc (hlock hs)
      · exact Or.inr hs
      · exact Or.inl hs
    · rcases h with ⟨_, hx⟩ | ⟨_, hx⟩
      · exact Or.inl hx
      · exact hx

end Sys2Proof.Machine

namespace Sys2Proof.Machine

/-! ## Runs: what an operation of the blocks does to the accounts and to the arbiters -/

/-- The accounts and the arbiters of two devices are joined by steps. The steps of the arbiters may rest on what the
device keeps. -/
structure Runs (d e : Device) : Prop where
  accounts : d.accounts.Steps e.accounts
  arbiters : d.accounts.Units → d.arbiters.Kept → d.arbiters.Steps e.arbiters

theorem Arbiters.Steps.kept {a b : Arbiters} (h : a.Steps b) (ha : a.Kept) : b.Kept := by
  induction h with
  | refl => exact ha
  | tail _ hstep ih => exact hstep.kept ih

theorem Accounts.Steps.units {a b : Accounts} (h : a.Steps b) (ha : a.Units) : b.Units :=
  h.keeps (fun _ _ hx hs => hs.units hx) ha

theorem Accounts.Steps.operation {a b : Accounts} (h : a.Steps b) : b.operation = a.operation :=
  h.keeps (P := fun x => x.operation = a.operation) (fun _ _ hx hs => hs.operation.trans hx) rfl

theorem Runs.of_same {d e : Device} (h1 : e.accounts = d.accounts) (h2 : e.arbiters = d.arbiters) : Runs d e :=
  ⟨by rw [h1]; exact .refl, fun _ _ => by rw [h2]; exact .refl⟩

theorem Runs.refl (d : Device) : Runs d d := .of_same rfl rfl

theorem Runs.trans {d e f : Device} (h : Runs d e) (k : Runs e f) : Runs d f :=
  ⟨Relation.ReflTransGen.trans h.accounts k.accounts, fun hu hk =>
    Relation.ReflTransGen.trans (h.arbiters hu hk)
      (k.arbiters (h.accounts.units hu) ((h.arbiters hu hk).kept hk))⟩

theorem Runs.foldl {α : Type} (f : Device → α → Device) (h : ∀ d a, Runs d (f d a)) (l : List α) (d : Device) :
    Runs d (l.foldl f d) := by
  induction l generalizing d with
  | nil => exact .refl d
  | cons a l ih => exact (h d a).trans (ih _)

/-! ## Reading the views -/

@[simp] theorem Device.accounts_state (d : Device) (n : NestId) : d.accounts.state n = (d.nest n).state := rfl
@[simp] theorem Device.accounts_labels (d : Device) : d.accounts.labels = d.labels := rfl
@[simp] theorem Device.accounts_live (d : Device) : d.accounts.live = d.yields.live := rfl
@[simp] theorem Device.accounts_free (d : Device) : d.accounts.free = d.pool.free := rfl
@[simp] theorem Device.accounts_operation (d : Device) : d.accounts.operation = d.tables.operation := rfl
theorem Device.accounts_unit (d : Device) (n : NestId) :
    d.accounts.unit n = (d.nest n).record.map fun r => (r.bank, r.chain.blocks) := rfl
@[simp] theorem Device.arbiters_state (d : Device) (n : NestId) : d.arbiters.state n = (d.nest n).state := rfl
@[simp] theorem Device.arbiters_mode (d : Device) (n : NestId) : d.arbiters.mode n = (d.nest n).tone.mode := rfl
theorem Device.arbiters_sub (d : Device) (n : NestId) :
    d.arbiters.sub n = (d.nest n).record.map UnitRecord.sub := rfl

@[simp] theorem Device.accounts_state_self (d : Device) (n : NestId) :
    Function.update d.accounts.state n (d.nest n).state = d.accounts.state := Function.update_eq_self _ _
@[simp] theorem Device.accounts_unit_self (d : Device) (n : NestId) :
    Function.update d.accounts.unit n ((d.nest n).record.map fun r => (r.bank, r.chain.blocks)) = d.accounts.unit :=
  Function.update_eq_self _ _
@[simp] theorem Device.accounts_mark_self (d : Device) (n : NestId) :
    Function.update d.accounts.mark n (d.nest n).markClaim = d.accounts.mark := Function.update_eq_self _ _
@[simp] theorem Device.arbiters_state_self (d : Device) (n : NestId) :
    Function.update d.arbiters.state n (d.nest n).state = d.arbiters.state := Function.update_eq_self _ _
@[simp] theorem Device.arbiters_sub_self (d : Device) (n : NestId) :
    Function.update d.arbiters.sub n ((d.nest n).record.map UnitRecord.sub) = d.arbiters.sub :=
  Function.update_eq_self _ _
@[simp] theorem Device.arbiters_mode_self (d : Device) (n : NestId) :
    Function.update d.arbiters.mode n (d.nest n).tone.mode = d.arbiters.mode := Function.update_eq_self _ _

/-- A nest without a test stage has no unit. -/
theorem Accounts.Units.record_none {d : Device} (h : d.accounts.Units) {n : NestId}
    (hs : (d.nest n).state.testStage = false) : (d.nest n).record = none := by
  have := h.unit n
  rw [Device.accounts_state, hs, Device.accounts_unit] at this
  simpa using this

theorem Accounts.Units.sub_none {d : Device} (h : d.accounts.Units) {n : NestId}
    (hs : (d.nest n).state.testStage = false) : d.arbiters.sub n = none := by
  rw [Device.arbiters_sub, h.record_none hs]; rfl

/-- A nest in a test stage has a unit. -/
theorem Accounts.Units.record_some {d : Device} (h : d.accounts.Units) {n : NestId}
    (hs : (d.nest n).state.testStage = true) : ∃ r, (d.nest n).record = some r := by
  have := h.unit n
  rw [Device.accounts_state, hs, Device.accounts_unit] at this
  exact Option.isSome_iff_exists.mp (by simpa using this)

/-- A unit outside the level lock, the quiet check and the sweep has no start under way (Table 3-1). -/
theorem Arbiters.Kept.sub_idle {a : Arbiters} (h : a.Kept) {n : NestId} (h1 : a.state n ≠ .levelLock)
    (h2 : a.state n ≠ .quietCheck) (h3 : a.state n ≠ .sweeping) : a.sub n = none ∨ a.sub n = some .none := by
  cases hx : a.sub n with
  | none => exact Or.inl rfl
  | some x =>
    have hf := h.fits n x hx
    cases x <;> simp [SubStage.fits, h1, h2, h3] at hf ⊢

/-! ## One nest -/

/-- Of a nest nothing changes that the accounts or the arbiters read. -/
theorem Runs.setNest_of_same {d : Device} {n : NestId} {x : Nest} (hs : x.state = (d.nest n).state)
    (hr : x.record.map (fun r => (r.bank, r.chain.blocks, r.sub))
      = (d.nest n).record.map fun r => (r.bank, r.chain.blocks, r.sub))
    (hm : x.markClaim = (d.nest n).markClaim) (ht : x.tone.mode = (d.nest n).tone.mode) : Runs d (d.setNest n x) := by
  refine .of_same (d.accounts_setNest_of_same hs ?_ hm) (d.arbiters_setNest_of_same hs ?_ ht)
  · have := congrArg (Option.map fun p : BankId × List BlockId × SubStage => (p.1, p.2.1)) hr
    simpa [Option.map_map, Function.comp_def] using this
  · have := congrArg (Option.map fun p : BankId × List BlockId × SubStage => p.2.2) hr
    simp only [Option.map_map, Function.comp_def] at this
    exact this

/-- The record of a nest is replaced by one of the same bank, chain and sub-state. -/
theorem Runs.modRecord_of_same (d : Device) (n : NestId) (f : UnitRecord → UnitRecord)
    (h : ∀ r, (d.nest n).record = some r →
      (f r).bank = r.bank ∧ (f r).chain.blocks = r.chain.blocks ∧ (f r).sub = r.sub) : Runs d (d.modRecord n f) := by
  rw [Device.modRecord_eq]
  refine .setNest_of_same rfl ?_ rfl rfl
  cases hr : (d.nest n).record with
  | none => rfl
  | some r =>
    obtain ⟨h1, h2, h3⟩ := h r hr
    simp [h1, h2, h3]

theorem Runs.addHistory (d : Device) (n : NestId) (e : HistoryEvent) : Runs d (d.addHistory n e) :=
  .setNest_of_same rfl rfl rfl rfl

theorem Runs.raise (d : Device) (i : SourceId) : Runs d (d.raise i) := .of_same rfl rfl

/-- The drive of a nest goes silent. -/
theorem Runs.silence (d : Device) (n : NestId) : Runs d (d.silence n) := by
  rw [Device.silence_eq]
  refine ⟨?_, fun _ _ => ?_⟩
  · rw [d.accounts_setNest_of_same (n := n) (by rfl) (by rfl) (by rfl)]; exact .refl
  · simp only [Device.arbiters_setNest, Device.arbiters_state_self, Device.arbiters_sub_self]
    exact .single (.silence d.arbiters n)

/-- A nest moves between states without a unit; pass-through stays only where it may be (R49). -/
theorem Runs.moveIdle {d : Device} {n : NestId} {x : Nest} (h1 : (d.nest n).state.testStage = false)
    (h2 : x.state.testStage = false) (hr : x.record = (d.nest n).record) (hm : x.markClaim = (d.nest n).markClaim)
    (ht : x.tone.mode = .silent ∨ (x.tone.mode = (d.nest n).tone.mode
      ∧ ((d.nest n).state.takesPass = true → x.state.takesPass = true))) : Runs d (d.setNest n x) := by
  refine ⟨?_, fun hu hk => ?_⟩
  · simp only [Device.accounts_setNest, hr, hm, Device.accounts_unit_self, Device.accounts_mark_self]
    exact .single (.move d.accounts n x.state (Or.inl ⟨h1, h2⟩))
  · rw [Device.arbiters_setNest]
    refine .single (.move d.arbiters n x.state _ x.tone.mode (Or.inl (hu.sub_none h1)) (Or.inl ?_) ht)
    rw [hr, hu.record_none h1]; rfl

/-- A nest moves between the stages CLAMPING to JUDGING, with no start under way. -/
theorem Runs.moveStage_accounts {d : Device} {n : NestId} {x : Nest} (h1 : (d.nest n).state.endsEarly = true)
    (h2 : x.state.endsEarly = true) (hr : x.record.map (fun r => (r.bank, r.chain.blocks))
      = (d.nest n).record.map fun r => (r.bank, r.chain.blocks)) (hm : x.markClaim = (d.nest n).markClaim) :
    d.accounts.Steps (d.setNest n x).accounts := by
  simp only [Device.accounts_setNest, hr, hm, Device.accounts_unit_self, Device.accounts_mark_self]
  exact .single (.move d.accounts n x.state (Or.inr ⟨h1, h2⟩))

theorem Runs.leaveArbiter_of_silent (d : Device) (n : NestId) (h : (d.nest n).tone.mode = .silent) :
    d.arbiters.Steps (d.leaveArbiter n).arbiters := by
  refine Arbiters.Steps.leaveArbiter (st := (d.nest n).state) (m := .silent) ?_ (Or.inl rfl)
  rw [← h]; simp

end Sys2Proof.Machine

namespace Sys2Proof.Machine

/-! ## LEVEL_LOCK, CLAMPING and the start of a unit (R10, R14, R37) -/

theorem Device.enterLevelLock_accounts (d : Device) (n : NestId) :
    (d.enterLevelLock n).accounts
      = { d.accounts with state := Function.update d.accounts.state n .levelLock } := by
  simp [Device.enterLevelLock, Device.modNest_eq]

theorem Device.enterLevelLock_arbiters {d : Device} {n : NestId} (h : d.arbiters.sub n = some .none) :
    d.arbiters.Steps (d.enterLevelLock n).arbiters := by
  simp only [Device.enterLevelLock, Device.modNest_eq]
  refine .trans (.single ?_) (Device.presentStart_arbiters (Or.inl ⟨Or.inl ?_, ?_⟩))
  · rw [Device.arbiters_setNest]
    exact .move d.arbiters n .levelLock _ .silent (Or.inr h) (Or.inr h) (Or.inl rfl)
  · simp
  · simpa [Device.arbiters_sub] using h

/-- CLAMPING is entered, and left for LEVEL_LOCK at once where CLAMPED is active and the settle is 0 (R14). -/
theorem Device.enterClamping_accounts (d : Device) (n : NestId) : ∃ st, (st = .clamping ∨ st = .levelLock)
    ∧ (d.enterClamping n).accounts = { d.accounts with state := Function.update d.accounts.state n st } := by
  by_cases hc : d.taken n .clamped = true
  · by_cases hz : (d.map n).settle = 0
    · refine ⟨.levelLock, Or.inr rfl, ?_⟩
      simp [Device.enterClamping, Device.modNest_eq, Device.clampedTaken, Device.addHistory_eq, hc, hz,
        Device.enterLevelLock_accounts]
    · refine ⟨.clamping, Or.inl rfl, ?_⟩
      simp [Device.enterClamping, Device.modNest_eq, Device.clampedTaken, Device.addHistory_eq, hc, hz]
  · refine ⟨.clamping, Or.inl rfl, ?_⟩
    simp [Device.enterClamping, Device.modNest_eq, hc]

/-- A silent unit without a start under way moves to another state. -/
theorem Arbiters.Steps.moveUnit {d : Device} {n : NestId} {x : Nest} (h : d.arbiters.sub n = some .none)
    (hx : x.record.map UnitRecord.sub = some .none) (hm : x.tone.mode = .silent) :
    d.arbiters.Steps (d.setNest n x).arbiters := by
  rw [Device.arbiters_setNest]
  exact .single (.move d.arbiters n x.state _ x.tone.mode (Or.inr h) (Or.inr hx) (Or.inl hm))

theorem Device.enterClamping_arbiters {d : Device} {n : NestId} (h : d.arbiters.sub n = some .none)
    (hm : (d.nest n).tone.mode = .silent) : d.arbiters.Steps (d.enterClamping n).arbiters := by
  have h' : (d.nest n).record.map UnitRecord.sub = some .none := h
  by_cases hc : d.taken n .clamped = true
  · by_cases hz : (d.map n).settle = 0
    · have he : d.enterClamping n = (d.setNest n { d.nest n with
          state := .clamping, clampTimer := 0, settling := none,
          history := addEvent (d.nest n).history .clamped }).enterLevelLock n := by
        simp [Device.enterClamping, Device.modNest_eq, Device.clampedTaken, Device.addHistory_eq, hc, hz]
      rw [he]
      have hmove := Arbiters.Steps.moveUnit (x := { d.nest n with
          state := .clamping, clampTimer := 0, settling := none,
          history := addEvent (d.nest n).history .clamped }) h h' hm
      refine Relation.ReflTransGen.trans hmove (Device.enterLevelLock_arbiters ?_)
      rw [Device.arbiters_sub, Device.nest_setNest_same]; exact h'
    · have he : d.enterClamping n = d.setNest n { d.nest n with
          state := .clamping, clampTimer := 0, settling := some (0, msFrames (d.map n).settle),
          history := addEvent (d.nest n).history .clamped } := by
        simp [Device.enterClamping, Device.modNest_eq, Device.clampedTaken, Device.addHistory_eq, hc, hz]
      rw [he]
      exact Arbiters.Steps.moveUnit h h' hm
  · have he : d.enterClamping n = d.setNest n { d.nest n with
        state := .clamping, clampTimer := 0, settling := none } := by
      simp [Device.enterClamping, Device.modNest_eq, hc]
    rw [he]
    exact Arbiters.Steps.moveUnit h h' hm

/-- CLAMPED is taken active in CLAMPING (R14). -/
theorem Runs.clampedTaken {d : Device} {n : NestId} (hs : (d.nest n).state = .clamping) : Runs d (d.clampedTaken n) := by
  simp only [Device.clampedTaken]
  refine (Runs.addHistory d n .clamped).trans ?_
  have hs' : ((d.addHistory n .clamped).nest n).state = .clamping := by simp [Device.addHistory_eq, hs]
  generalize d.addHistory n .clamped = e at hs' ⊢
  split
  · refine ⟨?_, fun hu hk => ?_⟩
    · rw [Device.enterLevelLock_accounts]
      exact .single (.move e.accounts n .levelLock (Or.inr (by simp [hs', NestState.endsEarly])))
    · refine Device.enterLevelLock_arbiters ((hk.sub_idle (n := n) ?_ ?_ ?_).resolve_left fun k => ?_)
      · simp [hs']
      · simp [hs']
      · simp [hs']
      · obtain ⟨r, hr⟩ := hu.record_some (n := n) (by rw [hs']; rfl)
        rw [Device.arbiters_sub, hr] at k; cases k
  · exact .setNest_of_same rfl rfl rfl rfl

/-- The settle ends: LEVEL_LOCK is entered (R14). -/
theorem Runs.enterLevelLock_of_clamping {d : Device} {n : NestId} (hs : (d.nest n).state = .clamping) :
    Runs d (d.enterLevelLock n) := by
  refine ⟨?_, fun hu hk => ?_⟩
  · rw [Device.enterLevelLock_accounts]
    exact .single (.move d.accounts n .levelLock (Or.inr (by simp [hs, NestState.endsEarly])))
  · refine Device.enterLevelLock_arbiters ((hk.sub_idle (n := n) (by simp [hs]) (by simp [hs])
      (by simp [hs])).resolve_left fun k => ?_)
    obtain ⟨r, hr⟩ := hu.record_some (n := n) (by rw [hs]; rfl)
    rw [Device.arbiters_sub, hr] at k; cases k

theorem TableStore.state_of_activeBank {t : TableStore} {b : BankId} (h : t.activeBank = some b) :
    (t.bank b).state = .active := by
  simp only [TableStore.activeBank] at h
  split at h
  · cases h; assumption
  · split at h
    · cases h; assumption
    · cases h

/-- A start is taken in LOADED, against the ACTIVE bank (R10). -/
theorem Runs.startUnit {d : Device} {n : NestId} {b : BankId} (hs : (d.nest n).state = .loaded)
    (hb : d.tables.activeBank = some b) (role : Role) (p : PlanId) (serial : List Byte) (lot : Word32) :
    Runs d (d.startUnit n role p serial lot b) := by
  -- the blocks before the nest enters its first stage
  let d₁ : Device := { d with
    tables := d.tables.modBank b fun x => { x with pins := x.pins + 1 }
    yields := { d.yields with live := d.yields.live.set n (startCounted d.yields.live[n]) } }
  let x₁ : Nest := { d.nest n with
    record := some (d.startRecord n role p b serial lot)
    history := addEvent 0 .started
    tone := { (d.nest n).tone with mode := .silent }
    autoTestOwed := false }
  have hstart : d.startUnit n role p serial lot b
      = if (d.nest n).loopback then (d₁.setNest n x₁).enterLevelLock n else (d₁.setNest n x₁).enterClamping n := by
    have hl : (d.nest n).loopback = ((d₁.setNest n x₁).nest n).loopback := by rw [Device.nest_setNest_same]
    rw [hl]
    rfl
  have hacc : (d₁.setNest n x₁).accounts = { d.accounts with
      unit := Function.update d.accounts.unit n (some (b, []))
      live := d.yields.live.set n (startCounted d.yields.live[n])
      bank := Function.update d.accounts.bank b ((d.accounts.bank b).1, (d.accounts.bank b).2 + 1) } := by
    have h1 : d₁.accounts = { d.accounts with
        live := d.yields.live.set n (startCounted d.yields.live[n])
        bank := Function.update d.accounts.bank b ((d.accounts.bank b).1, (d.accounts.bank b).2 + 1) } := by
      have := d.accounts_modBank b fun x => { x with pins := x.pins + 1 }
      have h2 : d₁.accounts = { Device.accounts { d with
          tables := d.tables.modBank b fun x => { x with pins := x.pins + 1 } } with
          live := d.yields.live.set n (startCounted d.yields.live[n]) } := rfl
      rw [h2, this]
      rfl
    rw [Device.accounts_setNest, h1]
    have e1 : Function.update d.accounts.state n x₁.state = d.accounts.state := d.accounts_state_self n
    have e2 : Function.update d.accounts.mark n x₁.markClaim = d.accounts.mark := d.accounts_mark_self n
    simp only [e1, e2]
    rfl
  have harb : (d₁.setNest n x₁).arbiters = { d.arbiters with
      sub := Function.update d.arbiters.sub n (some .none)
      mode := Function.update d.arbiters.mode n .silent } := by
    rw [Device.arbiters_setNest]
    have h1 : d₁.arbiters = d.arbiters := rfl
    have e1 : Function.update d.arbiters.state n x₁.state = d.arbiters.state := d.arbiters_state_self n
    rw [h1, e1]
    rfl
  have hsub : (d₁.setNest n x₁).arbiters.sub n = some .none := by rw [harb]; simp
  have hmode : ((d₁.setNest n x₁).nest n).tone.mode = .silent := by simp [x₁]
  have starts : ∀ st, (st = .clamping ∨ st = .levelLock) → d.accounts.Steps
      { (d₁.setNest n x₁).accounts with state := Function.update (d₁.setNest n x₁).accounts.state n st } := by
    intro st hst
    have hstart := Accounts.Step.start d.accounts n b hs (d.tables.state_of_activeBank hb)
    have hmove := Accounts.Step.move { d.accounts with
        state := Function.update d.accounts.state n .clamping
        unit := Function.update d.accounts.unit n (some (b, []))
        live := d.yields.live.set n (startCounted d.yields.live[n])
        bank := Function.update d.accounts.bank b ((d.accounts.bank b).1, (d.accounts.bank b).2 + 1) } n st
      (Or.inr (by rcases hst with rfl | rfl <;> simp [NestState.endsEarly]))
    rw [hacc]
    refine Relation.ReflTransGen.tail (.single hstart) ?_
    simpa using hmove
  have moves : d.accounts.Units → d.arbiters.Steps (d₁.setNest n x₁).arbiters := fun hu => by
    rw [harb]
    have := Arbiters.Step.move d.arbiters n .loaded (some .none) .silent
      (Or.inl (hu.sub_none (by rw [hs]; rfl))) (Or.inr rfl) (Or.inl rfl)
    have e : Function.update d.arbiters.state n .loaded = d.arbiters.state := by
      rw [← hs]; exact d.arbiters_state_self n
    rw [e] at this
    exact .single this
  rw [hstart]
  split
  · refine ⟨?_, fun hu _ => (moves hu).trans (Device.enterLevelLock_arbiters hsub)⟩
    rw [Device.enterLevelLock_accounts]
    exact starts _ (Or.inr rfl)
  · refine ⟨?_, fun hu _ => (moves hu).trans (Device.enterClamping_arbiters hsub hmode)⟩
    obtain ⟨st, hst, he⟩ := (d₁.setNest n x₁).enterClamping_accounts n
    rw [he]
    exact starts st hst

/-- A start that passes its checks is made in LOADED, against the ACTIVE bank (R9). -/
theorem Device.startCheck_inv {d : Device} {n : NestId} {role : Role} {p : PlanId} {b : BankId}
    (h : d.startCheck n role p = .ok b) : (d.nest n).state = .loaded ∧ d.tables.activeBank = some b := by
  simp only [Device.startCheck] at h
  split at h
  · cases h
  · rename_i hc
    simp only [Bool.not_eq_true', Bool.not_eq_false, Bool.and_eq_true, decide_eq_true_eq] at hc
    refine ⟨hc.1.1.1, ?_⟩
    cases ha : d.tables.activeBank with
    | none => simp [ha] at h
    | some c =>
      simp only [ha] at h
      split at h
      · cases h
      · split at h
        · cases h
        · split at h
          · cases h
          · cases h; rfl

theorem Runs.autoStartTest (d : Device) (n : NestId) : Runs d (d.autoStartTest n) := by
  simp only [Device.autoStartTest]
  split
  · exact .refl d
  · split
    · split
      · rename_i b hb
        obtain ⟨hs, hb⟩ := Device.startCheck_inv hb
        exact .startUnit hs hb _ _ _ _
      · exact .of_same rfl rfl
    · exact .refl d

/-! ## States without a unit (R3, R22, R23) -/

theorem Runs.enterEmpty {d : Device} {n : NestId} (hs : (d.nest n).state.testStage = false) :
    Runs d (d.enterEmpty n) := by
  rw [Device.enterEmpty_eq]
  exact .moveIdle hs rfl rfl rfl (Or.inr ⟨rfl, fun _ => rfl⟩)

theorem Runs.enterLoaded {d : Device} {n : NestId} (hs : (d.nest n).state.testStage = false) :
    Runs d (d.enterLoaded n) := by
  have hmove : Runs d (d.setNest n { d.nest n with state := .loaded, autoTestOwed := false }) :=
    .moveIdle hs rfl rfl rfl (Or.inr ⟨rfl, fun _ => rfl⟩)
  exact hmove.trans (.autoStartTest _ n)

theorem Runs.enterDone {d : Device} {n : NestId} (hs : (d.nest n).state.testStage = false) :
    Runs d (d.enterDone n) := by
  rw [Device.enterDone_eq]
  split
  · exact .moveIdle hs rfl rfl rfl (Or.inr ⟨rfl, fun _ => rfl⟩)
  · exact .moveIdle hs rfl rfl rfl (Or.inr ⟨rfl, fun _ => rfl⟩)

/-! ## Leaving a test (R21, R22, R27) -/

/-- A nest that is not in test leaves MARKING or where it stands, and its record is gone. -/
theorem Runs.exit {d : Device} {n : NestId} {y : Nest} {st : NestState} (hs : (d.nest n).state.inTest = false)
    (hx : Exited (d.nest n) y st) (hst : st.testStage = false)
    (hp : (d.nest n).state.takesPass = true → st.takesPass = true) : Runs d (d.setNest n y) := by
  refine ⟨?_, fun hu hk => ?_⟩
  · rw [Device.accounts_setNest, hx.state, hx.record, hx.markClaim]
    exact .single (.leave d.accounts n st hs hst)
  · rw [Device.arbiters_setNest, hx.state, hx.record, hx.tone]
    refine .single (.move d.arbiters n st _ _ (hk.sub_idle ?_ ?_ ?_) (Or.inl rfl) (Or.inr ⟨rfl, hp⟩))
    all_goals (intro k; rw [Device.arbiters_state] at k; rw [k] at hs; cases hs)

/-- A nest in test without a unit, which is nowhere met, leaves its test. -/
theorem Runs.exitUnitless {d : Device} {n : NestId} {y : Nest} {st : NestState}
    (hs : (d.nest n).state.testStage = true) (hr : (d.nest n).record = none) (hx : Exited (d.nest n) y st) :
    Runs d (d.setNest n y) := by
  have hunit : d.accounts.unit n = none := by rw [Device.accounts_unit, hr]; rfl
  refine ⟨?_, fun hu _ => ?_⟩
  · rw [Device.accounts_setNest, hx.state, hx.record, hx.markClaim]
    have := Accounts.Step.unitless d.accounts n st hs hunit
    have e : Function.update d.accounts.unit n none = d.accounts.unit := by
      rw [← hunit]; exact Function.update_eq_self n _
    simp only [Option.map_none, e]
    exact .single this
  · obtain ⟨r, k⟩ := hu.record_some hs
    rw [hr] at k; cases k

theorem Device.afterRelease_noUnit (d : Device) (n : NestId) : (d.afterRelease n).testStage = false := by
  simp only [Device.afterRelease]
  split
  · rfl
  · split <;> rfl

theorem Device.afterUnit_noUnit (d : Device) (n : NestId) : (d.afterUnit n).testStage = false := by
  simp only [Device.afterUnit]
  split
  · rfl
  · exact d.afterRelease_noUnit n

/-- FAULT is entered by a nest that is not in test (R22, R23, R27). -/
theorem Runs.enterFault {d : Device} {n : NestId} (hs : (d.nest n).state = .releasing ∨ (d.nest n).state = .marking) :
    Runs d (d.enterFault n) := by
  obtain ⟨y, hy, hx⟩ := d.enterFault_exits n
  rw [hy]
  refine (Runs.exit ?_ hx rfl ?_).trans (.raise _ _)
  · rcases hs with hs | hs <;> rw [hs] <;> rfl
  · intro k; rcases hs with hs | hs <;> rw [hs] at k <;> cases k

/-- MARKING ends (R21). -/
theorem Runs.exitTest_of_marking {d : Device} {n : NestId} (hs : (d.nest n).state = .marking) : Runs d (d.exitTest n) := by
  obtain ⟨y, hy, hx⟩ := d.exitTest_exits n
  rw [hy]
  exact .exit (by rw [hs]; rfl) hx (d.afterUnit_noUnit n) (by rw [hs]; intro k; cases k)

theorem Runs.enterReleasing_of_marking {d : Device} {n : NestId} (hs : (d.nest n).state = .marking) :
    Runs d (d.enterReleasing n) := by
  obtain ⟨y, hy, hx⟩ := d.enterReleasing_exits n
  rw [hy]
  exact .exit (by rw [hs]; rfl) hx (d.afterRelease_noUnit n) (by rw [hs]; intro k; cases k)

/-- FAULT is left (R23). -/
theorem Runs.leaveFault {d : Device} {n : NestId} (hs : (d.nest n).state = .fault) : Runs d (d.leaveFault n) := by
  simp only [Device.leaveFault]
  split
  · exact .enterLoaded (by rw [hs]; rfl)
  · exact .enterEmpty (by rw [hs]; rfl)

end Sys2Proof.Machine

namespace Sys2Proof.Machine

/-! ## The ends of a unit (R6, R24, R25, R101) -/

@[simp] theorem Device.accounts_endInTest (d : Device) (n : NestId) (r : UnitRecord) :
    (d.endInTest n r).accounts
      = { d.accounts with bank := Function.update d.accounts.bank r.bank (unpinned (d.accounts.bank r.bank)) } := by
  simp [Device.endInTest]

/-- A unit that drives nothing, or drives no lock pilot and no segment, leaves its arbiter. -/
theorem Device.leaveArbiter_steps {d : Device} {n : NestId} (h : (d.nest n).tone.mode = .silent
    ∨ ((d.nest n).state.testStage = true ∧ (d.nest n).state ≠ .levelLock ∧ (d.nest n).state ≠ .sweeping)) :
    d.arbiters.Steps (d.leaveArbiter n).arbiters := by
  refine Arbiters.Steps.leaveArbiter (st := (d.nest n).state) (m := (d.nest n).tone.mode) (by simp) ?_
  exact h.imp id fun k => ⟨rfl, k⟩

theorem Device.endInTest_arbiters {d : Device} {n : NestId} (r : UnitRecord) (h : (d.nest n).tone.mode = .silent
    ∨ ((d.nest n).state.testStage = true ∧ (d.nest n).state ≠ .levelLock ∧ (d.nest n).state ≠ .sweeping)) :
    d.arbiters.Steps (d.endInTest n r).arbiters := by
  have hn : (d.unpin r.bank).nest n = d.nest n := by rw [(d.unpin_spec r.bank).frame]; rfl
  have := Device.leaveArbiter_steps (d := d.unpin r.bank) (n := n) (by rw [hn]; exact h)
  rwa [Device.arbiters_unpin] at this

theorem Device.endInTest_sub (d : Device) (n : NestId) (r : UnitRecord) :
    (d.endInTest n r).arbiters.sub n = none ∨ (d.endInTest n r).arbiters.sub n = some .none := by
  have h := ((d.unpin r.bank).leaveArbiter_arbiters_self n).2.1
  rw [Device.endInTest, h]
  cases (d.unpin r.bank).arbiters.sub n with
  | none => exact Or.inl rfl
  | some x => exact Or.inr rfl

/-- A nest without a start under way leaves its test. -/
theorem Arbiters.Steps.exit {d : Device} {n : NestId} {y : Nest} {st : NestState} (hx : Exited (d.nest n) y st)
    (hsub : d.arbiters.sub n = none ∨ d.arbiters.sub n = some .none) (hp : (d.nest n).state.takesPass = false) :
    d.arbiters.Steps (d.setNest n y).arbiters := by
  rw [Device.arbiters_setNest, hx.state, hx.record, hx.tone]
  refine .single (.move d.arbiters n st _ _ hsub (Or.inl rfl) (Or.inr ⟨rfl, fun k => ?_⟩))
  rw [Device.arbiters_state, hp] at k; cases k

theorem NestState.takesPass_of_inTest {st : NestState} (h : st.inTest = true) : st.takesPass = false := by
  cases st <;> first | rfl | exact absurd h (by decide)

/-- The unit that a record describes. -/
theorem Device.accounts_unit_of_record {d : Device} {n : NestId} {r : UnitRecord} (hr : (d.nest n).record = some r) :
    d.accounts.unit n = some (r.bank, r.chain.blocks) := by rw [Device.accounts_unit, hr]; rfl

/-! ### Discard -/

theorem Device.discardUnit_accounts (d : Device) (n : NestId) (r : UnitRecord) :
    (d.discardUnit n r).accounts = { d.accounts with
      bank := Function.update d.accounts.bank r.bank (unpinned (d.accounts.bank r.bank))
      labels := { d.labels with waitQueue := d.labels.waitQueue.filter fun m => decide (m ≠ n) }
      live := d.yields.live.set n { d.yields.live[n] with discarded := d.yields.live[n].discarded + 1 }
      free := d.pool.free ++ r.chain.blocks } := by
  have hy : (((({ d with labels := { d.labels with
      waitQueue := d.labels.waitQueue.filter fun m => decide (m ≠ n) } }).freeChain r.chain).endInTest n r)).yields
      = d.yields := by rw [(Device.endInTest_spec _ n r).frame]; rfl
  simp only [Device.discardUnit, Device.accounts_count, Device.accounts_endInTest, hy]
  rfl

/-- A unit in test is discarded and its nest leaves the test (R25). -/
theorem Runs.discard {d : Device} {n : NestId} {r r' : UnitRecord} {y : Nest} {st : NestState}
    (hs : (d.nest n).state.inTest = true) (hr : (d.nest n).record = some r')
    (hsame : r.bank = r'.bank ∧ r.chain = r'.chain)
    (hm : (d.nest n).tone.mode = .silent ∨ (d.nest n).state = .labelWait)
    (hx : Exited ((d.discardUnit n r).nest n) y st) (hst : st.testStage = false) :
    Runs d ((d.discardUnit n r).setNest n y) := by
  have hunit := Device.accounts_unit_of_record hr
  rw [← hsame.1, ← hsame.2] at hunit
  refine ⟨?_, fun _ _ => ?_⟩
  · refine .trans (.single (Accounts.Step.discard d.accounts n r.bank r.chain.blocks hs hunit)) (.single ?_)
    rw [Device.accounts_setNest, hx.state, hx.record, hx.markClaim, Device.discardUnit_accounts]
    have := Accounts.Step.leave { d.accounts.endUnit n r.bank with
        labels := { d.accounts.labels with waitQueue := d.accounts.labels.waitQueue.filter fun m => decide (m ≠ n) }
        live := d.accounts.live.set n { d.accounts.live[n] with discarded := d.accounts.live[n].discarded + 1 }
        free := d.accounts.free ++ r.chain.blocks } n st (by simp [Accounts.endUnit, NestState.inTest]) hst
    simpa [Accounts.endUnit] using this
  · have hnest : (((d.discardUnit n r).nest n)).state = (d.nest n).state := by
      obtain ⟨E, he, hE⟩ := d.discardUnit_spec n r
      rw [hE]; show (E.nest n).state = _; rw [he.self]; rfl
    refine Relation.ReflTransGen.trans (?_ : d.arbiters.Steps (d.discardUnit n r).arbiters) (Arbiters.Steps.exit hx ?_ ?_)
    · refine Device.endInTest_arbiters (d := ({ d with labels := { d.labels with
        waitQueue := d.labels.waitQueue.filter fun m => decide (m ≠ n) } }).freeChain r.chain) (n := n) r ?_
      refine hm.imp id fun k => ?_
      show (d.nest n).state.testStage = true ∧ (d.nest n).state ≠ .levelLock ∧ (d.nest n).state ≠ .sweeping
      rw [k]; decide
    · exact Device.endInTest_sub _ n r
    · rw [hnest]; exact NestState.takesPass_of_inTest hs

/-- The ways out of a test after a discard. -/
theorem Runs.discard_enterFault {d : Device} {n : NestId} {r : UnitRecord} (hs : (d.nest n).state = .labelWait)
    (hr : (d.nest n).record = some r) : Runs d ((d.discardUnit n r).enterFault n) := by
  obtain ⟨y, hy, hx⟩ := (d.discardUnit n r).enterFault_exits n
  rw [hy]
  exact (Runs.discard (by rw [hs]; rfl) hr ⟨rfl, rfl⟩ (Or.inr hs) hx rfl).trans (.raise _ _)

theorem Runs.discard_exitTest {d : Device} {n : NestId} {r : UnitRecord} (hs : (d.nest n).state = .labelWait)
    (hr : (d.nest n).record = some r) : Runs d ((d.discardUnit n r).exitTest n) := by
  obtain ⟨y, hy, hx⟩ := (d.discardUnit n r).exitTest_exits n
  rw [hy]
  exact .discard (by rw [hs]; rfl) hr ⟨rfl, rfl⟩ (Or.inr hs) hx (Device.afterUnit_noUnit _ n)

theorem Runs.discard_enterReleasing {d : Device} {n : NestId} {r : UnitRecord} (hs : (d.nest n).state.inTest = true)
    (hm : (d.nest n).tone.mode = .silent) (hr : (d.nest n).record = some r) :
    Runs d ((d.discardUnit n r).enterReleasing n) := by
  obtain ⟨y, hy, hx⟩ := (d.discardUnit n r).enterReleasing_exits n
  rw [hy]
  exact .discard hs hr ⟨rfl, rfl⟩ (Or.inl hm) hx (Device.afterRelease_noUnit _ n)

/-! ### Early end -/

/-- An early-end label is posted and the nest leaves its test (R24). -/
theorem Runs.label {d : Device} {n : NestId} {r r' : UnitRecord} {l : Label} {y : Nest} {st : NestState}
    (hs : (d.nest n).state.endsEarly = true) (hr : (d.nest n).record = some r')
    (hsame : r.bank = r'.bank ∧ r.chain = r'.chain) (hm : (d.nest n).tone.mode = .silent) (hf : d.labels.posted < 64)
    (hl : l.number = d.labels.counter)
    (hx : Exited ((((d.postLabel n l none).freeChain r.chain).endInTest n r).nest n) y st) (hst : st.testStage = false) :
    Runs d ((((d.postLabel n l none).freeChain r.chain).endInTest n r).setNest n y) := by
  have hp := d.postLabel_spec n l none
  have hunit := Device.accounts_unit_of_record hr
  rw [← hsame.1, ← hsame.2] at hunit
  have hpn : (d.postLabel n l none).nest n = { d.nest n with history := addEvent (d.nest n).history .labelled } :=
    hp.nest_same
  have hpool : (d.postLabel n l none).pool = d.pool := by rw [hp.frame]
  have hE := Device.endInTest_spec ((d.postLabel n l none).freeChain r.chain) n r
  have hEs : ((((d.postLabel n l none).freeChain r.chain).endInTest n r).nest n).state = (d.nest n).state := by
    rw [hE.self]; show ((d.postLabel n l none).nest n).state = _; rw [hpn]
  refine ⟨?_, fun _ _ => ?_⟩
  · have hpost : d.accounts.Step { d.accounts.endUnit n r.bank with
        labels := d.labels.put { label := l, chain := none }
        live := d.yields.live.set n (d.yields.live[n].countLabel l)
        free := d.pool.free ++ r.chain.blocks } :=
      Accounts.Step.post d.accounts n r.bank r.chain.blocks (d.pool.free ++ r.chain.blocks)
        { label := l, chain := none } d.labels.waitQueue (Or.inl ⟨hs, rfl⟩) hunit hf hl (Or.inr ⟨rfl, rfl⟩)
    have both : d.accounts.Steps _ := (Relation.ReflTransGen.single hpost).tail
      (Accounts.Step.leave _ n st (by simp [Accounts.endUnit, NestState.inTest]) hst)
    rw [Device.accounts_setNest, hx.state, hx.record, hx.markClaim, Device.accounts_endInTest,
      Device.accounts_freeChain, Device.accounts_postLabel, hpool]
    simpa [Accounts.endUnit] using both
  · refine Relation.ReflTransGen.trans ?_ (Arbiters.Steps.exit hx (Device.endInTest_sub _ n r) ?_)
    · have h0 : ((d.postLabel n l none).freeChain r.chain).arbiters = d.arbiters := by
        rw [Device.arbiters_freeChain, Device.arbiters_postLabel]
      rw [← h0]
      refine Device.endInTest_arbiters r (Or.inl ?_)
      show ((d.postLabel n l none).nest n).tone.mode = _
      rw [hpn]; exact hm
    · rw [hEs]; exact NestState.takesPass_of_inTest (NestState.inTest_of_endsEarly hs)

theorem Runs.earlyEnd {d : Device} {n : NestId} (hs : (d.nest n).state.endsEarly = true) (cause : FailureClass) :
    Runs d (d.earlyEnd n cause) := by
  cases hr : (d.nest n).record with
  | none => simp only [Device.earlyEnd, hr]; exact .refl d
  | some r =>
    rw [Device.earlyEnd_eq cause hr]
    have h0 : Runs d (d.setNest n ((d.nest n).endingEarly cause)) := by
      have h1 : d.setNest n ((d.nest n).endingEarly cause)
          = (if cause = .fixture then d.addHistory n .fixtureFail else d).silence n := by
        by_cases h : cause = .fixture <;> simp [h, Device.addHistory_eq, Device.silence_eq, Nest.endingEarly]
      rw [h1]
      refine Runs.trans ?_ (.silence _ n)
      split
      · exact .addHistory d n _
      · exact .refl d
    refine h0.trans ?_
    have hn : (d.setNest n ((d.nest n).endingEarly cause)).nest n = (d.nest n).endingEarly cause :=
      d.nest_setNest_same n _
    have hl : (d.setNest n ((d.nest n).endingEarly cause)).labels = d.labels := rfl
    have hst : ∀ e : Device, (if cause = .link then NestState.fault else e.afterUnit n).testStage = false := fun e => by
      split
      · rfl
      · exact e.afterUnit_noUnit n
    rw [← hl]
    generalize d.setNest n ((d.nest n).endingEarly cause) = f at hn
    have hs' : (f.nest n).state.endsEarly = true := by rw [hn]; exact hs
    have hr' : (f.nest n).record = some r := by rw [hn]; exact hr
    have hm' : (f.nest n).tone.mode = .silent := by rw [hn]; rfl
    split
    · rename_i hfree
      obtain ⟨y, a, hy, hx⟩ := Device.afterEnd_spec (((f.postLabel n (earlyEndLabel f.labels.counter n
        { r with failures := addFailure r.failures cause }) none).freeChain r.chain).endInTest n
        { r with failures := addFailure r.failures cause }) n cause
      rw [hy]
      refine Runs.trans (Runs.label (r := { r with failures := addFailure r.failures cause }) hs' hr' ⟨rfl, rfl⟩ hm'
        (by simpa [LabelUnit.hasFree] using hfree) rfl hx (hst _)) (.of_same rfl rfl)
    · obtain ⟨y, a, hy, hx⟩ := Device.afterEnd_spec (f.discardUnit n
        { r with failures := addFailure r.failures cause }) n cause
      rw [hy]
      exact (Runs.discard (r := { r with failures := addFailure r.failures cause })
        (NestState.inTest_of_endsEarly hs') hr' ⟨rfl, rfl⟩ (Or.inl hm') hx (hst _)).trans (.of_same rfl rfl)

end Sys2Proof.Machine

namespace Sys2Proof.Machine

/-! ## The final verdict, the Ring Wait Queue and MARKING (R17, R20, R21, R101, R105, R106) -/

/-- The chain that a label carries (R101). -/
def UnitRecord.attached (r : UnitRecord) : Option Chain :=
  if r.chainKept && !r.chain.blocks.isEmpty then some r.chain else none

/-- The Free List after the posting of a final verdict. -/
def UnitRecord.freed (r : UnitRecord) (free : List BlockId) : List BlockId :=
  if r.chainKept then free else free ++ r.chain.blocks

/-- The chain of a unit is attached to its label or freed (R101, R145). -/
theorem UnitRecord.attached_or_freed (r : UnitRecord) (l : Label) (free : List BlockId) :
    (entryBlocks (some { label := l, chain := r.attached }) = r.chain.blocks ∧ r.freed free = free)
    ∨ (entryBlocks (some { label := l, chain := r.attached }) = [] ∧ r.freed free = free ++ r.chain.blocks) := by
  cases hk : r.chainKept with
  | false => exact Or.inr ⟨by simp [entryBlocks, UnitRecord.attached, hk], by simp [UnitRecord.freed, hk]⟩
  | true =>
    refine Or.inl ⟨?_, by simp [UnitRecord.freed, hk]⟩
    cases hb : r.chain.blocks <;> simp [entryBlocks, UnitRecord.attached, hk, hb]

/-- The blocks after the posting of a final verdict, before the record gives up its chain. -/
def Device.postedVerdict (d : Device) (n : NestId) (r : UnitRecord) (v : Verdict) : Device :=
  let e := d.postLabel n (verdictLabel d.labels.counter n r v) r.attached
  (if r.chainKept then e else e.freeChain r.chain).endInTest n r

theorem Device.postVerdict_eq (d : Device) (n : NestId) (r : UnitRecord) (v : Verdict) :
    d.postVerdict n r v = (d.postedVerdict n r v).modRecord n fun r => { r with chain := .empty } := rfl

theorem Device.postedVerdict_accounts (d : Device) (n : NestId) (r : UnitRecord) (v : Verdict) :
    (d.postedVerdict n r v).accounts = { d.accounts with
      bank := Function.update d.accounts.bank r.bank (unpinned (d.accounts.bank r.bank))
      labels := d.labels.put { label := verdictLabel d.labels.counter n r v, chain := r.attached }
      live := d.yields.live.set n (d.yields.live[n].countLabel (verdictLabel d.labels.counter n r v))
      free := r.freed d.pool.free } := by
  have hpool : ∀ l c, (d.postLabel n l c).pool = d.pool := fun l c => by rw [(d.postLabel_spec n l c).frame]
  simp only [Device.postedVerdict, Device.accounts_endInTest, UnitRecord.freed]
  split
  · simp
  · simp [hpool]

theorem Device.postedVerdict_nest (d : Device) (n : NestId) (r : UnitRecord) (v : Verdict) :
    (d.postedVerdict n r v).nest n = { d.nest n with
      history := addEvent (d.nest n).history .labelled
      record := (d.nest n).record.map fun r => { r with sub := .none } } := by
  have hp := d.postLabel_spec n (verdictLabel d.labels.counter n r v) r.attached
  have hn : (if r.chainKept then d.postLabel n (verdictLabel d.labels.counter n r v) r.attached
      else (d.postLabel n (verdictLabel d.labels.counter n r v) r.attached).freeChain r.chain).nest n
      = { d.nest n with history := addEvent (d.nest n).history .labelled } := by
    split
    · exact hp.nest_same
    · exact hp.nest_same
  simp only [Device.postedVerdict]
  rw [(Device.endInTest_spec _ n r).self, hn]

theorem Device.postVerdict_nest (d : Device) (n : NestId) (r : UnitRecord) (v : Verdict) :
    (d.postVerdict n r v).nest n = { d.nest n with
      history := addEvent (d.nest n).history .labelled
      record := (d.nest n).record.map fun r => { r with sub := .none, chain := .empty } } := by
  rw [Device.postVerdict_eq, Device.modRecord_eq, Device.nest_setNest_same, Device.postedVerdict_nest]
  simp [Option.map_map, Function.comp_def]

/-- The posting of a final verdict, in the accounts `a` of the part before the nest left the Ring Wait Queue, where it
stood there (R101, R106). -/
theorem Device.postVerdict_step {a : Accounts} {d : Device} {n : NestId} {r r' : UnitRecord} {v : Verdict}
    {q : List NestId} (ha : d.accounts = { a with labels := { a.labels with waitQueue := q } })
    (hs : ((a.state n).endsEarly = true ∧ q = a.labels.waitQueue) ∨ a.labels.waitQueue = n :: q)
    (hr : (d.nest n).record = some r') (hsame : r.bank = r'.bank ∧ r.chain = r'.chain) (hf : d.labels.posted < 64) :
    a.Step { (d.postVerdict n r v).accounts with
      state := Function.update (d.postVerdict n r v).accounts.state n .marking } := by
  have hunit := Device.accounts_unit_of_record hr
  rw [← hsame.1, ← hsame.2] at hunit
  have hau : a.unit n = some (r.bank, r.chain.blocks) := by rw [← hunit, ha]
  have hlab : d.labels = { a.labels with waitQueue := q } := congrArg Accounts.labels ha
  have hnum : d.labels.counter = a.labels.counter := by rw [hlab]
  have hpost : d.labels.posted = a.labels.posted := by rw [hlab]
  have hlive : d.yields.live = a.live := congrArg Accounts.live ha
  have hfree : d.pool.free = a.free := congrArg Accounts.free ha
  have hrec : (d.nest n).record.map (fun r : UnitRecord => (r.bank, ([] : List BlockId))) = some (r.bank, []) := by
    rw [hr, Option.map_some, hsame.1]
  have hstep := Accounts.Step.post a n r.bank r.chain.blocks (r.freed d.pool.free)
    { label := verdictLabel d.labels.counter n r v, chain := r.attached } q hs hau (hpost ▸ hf)
    (by rw [← hnum]; rfl) (by rw [← hfree]; exact r.attached_or_freed _ _)
  have hacc : (d.postVerdict n r v).accounts = { d.accounts with
      unit := Function.update d.accounts.unit n (some (r.bank, []))
      bank := Function.update d.accounts.bank r.bank (unpinned (d.accounts.bank r.bank))
      labels := d.labels.put { label := verdictLabel d.labels.counter n r v, chain := r.attached }
      live := d.yields.live.set n (d.yields.live[n].countLabel (verdictLabel d.labels.counter n r v))
      free := r.freed d.pool.free } := by
    rw [Device.postVerdict_eq, Device.modRecord_eq, Device.accounts_setNest, Device.postedVerdict_accounts,
      Device.postedVerdict_nest]
    have e : Chain.empty.blocks = [] := rfl
    simp only [Option.map_map, Function.comp_def, e, hrec, Device.accounts_state_self, Device.accounts_mark_self]
  rw [hacc]
  have e1 : d.accounts.unit = a.unit := by rw [ha]
  have e2 : d.accounts.bank = a.bank := by rw [ha]
  have e3 : d.accounts.state = a.state := by rw [ha]
  have e4 : d.accounts.mark = a.mark := by rw [ha]
  have e5 : d.accounts.snapshot = a.snapshot := by rw [ha]
  have e6 : d.accounts.operation = a.operation := by rw [ha]
  simp only [e1, e2, e3, e4, e5, e6, hlive]
  rw [← hlab] at hstep
  exact hstep

/-- A unit that is judged, or waits for its label, leaves its arbiter at the posting. -/
theorem Device.postVerdict_arbiters {d : Device} {n : NestId} (r : UnitRecord) (v : Verdict)
    (hs : (d.nest n).state = .judging ∨ (d.nest n).state = .labelWait) :
    d.arbiters.Steps (d.postVerdict n r v).arbiters
    ∧ ((d.postVerdict n r v).arbiters.sub n = none ∨ (d.postVerdict n r v).arbiters.sub n = some .none) := by
  constructor
  · have hp := d.postLabel_spec n (verdictLabel d.labels.counter n r v) r.attached
    have harb : (d.postVerdict n r v).arbiters = (d.postedVerdict n r v).arbiters := by
      rw [Device.postVerdict_eq, Device.modRecord_eq]
      refine Device.arbiters_setNest_of_same _ rfl ?_ rfl
      simp [Option.map_map, Function.comp_def]
    rw [harb]
    simp only [Device.postedVerdict]
    split
    · rw [← Device.arbiters_postLabel d n (verdictLabel d.labels.counter n r v) r.attached]
      refine Device.endInTest_arbiters r (Or.inr ?_)
      rw [hp.nest_same]
      rcases hs with hs | hs <;> simp [hs, NestState.testStage]
    · rw [← Device.arbiters_postLabel d n (verdictLabel d.labels.counter n r v) r.attached,
        ← Device.arbiters_freeChain _ r.chain]
      refine Device.endInTest_arbiters r (Or.inr ?_)
      rw [Device.freeChain_nest, hp.nest_same]
      rcases hs with hs | hs <;> simp [hs, NestState.testStage]
  · rw [Device.arbiters_sub, Device.postVerdict_nest]
    cases (d.nest n).record with
    | none => exact Or.inl rfl
    | some r => exact Or.inr rfl

/-- MARKING as it is entered (R108). -/
def Nest.marking (x : Nest) (v : Verdict) : Nest :=
  { x with
    state := .marking
    markClaim := actMark v.actions
    gateClaim := x.gateClaim || actGate v.actions
    lampClaim := x.lampClaim || actLamp v.actions
    markTimer := 0 }

theorem Device.enterMarking_eq (d : Device) (n : NestId) (v : Verdict) :
    d.enterMarking n v = if actMark v.actions then d.setNest n ((d.nest n).marking v)
      else (d.setNest n ((d.nest n).marking v)).exitTest n := rfl

/-- A final verdict is posted and MARKING entered, or the nest leaves its test where its part is lost (R20, R101). The
accounts `a` and the arbiters of `c` are those before the nest left the Ring Wait Queue. -/
theorem Runs.post {c d : Device} {n : NestId} {r r' : UnitRecord} {q : List NestId}
    (ha : d.accounts = { c.accounts with labels := { c.labels with waitQueue := q } })
    (hb : d.arbiters = c.arbiters)
    (hs : ((c.nest n).state.endsEarly = true ∧ q = c.labels.waitQueue) ∨ c.labels.waitQueue = n :: q)
    (hj : c.accounts.Units → (c.nest n).state = .judging ∨ (c.nest n).state = .labelWait)
    (hr : (d.nest n).record = some r') (hsame : r.bank = r'.bank ∧ r.chain = r'.chain) (hf : d.labels.posted < 64)
    (v : Verdict) : Runs c ((d.postVerdict n r v).enterMarking n v) ∧ Runs c ((d.postVerdict n r v).exitTest n) := by
  have hstep := Device.postVerdict_step (v := v) ha hs hr hsame hf
  have hstate : (d.nest n).state = (c.nest n).state := congrFun (congrArg Accounts.state ha) n
  have harb := fun hu => Device.postVerdict_arbiters (d := d) r v (by rw [hstate]; exact hj hu)
  have hpn : ((d.postVerdict n r v).nest n).state = (c.nest n).state := by
    rw [Device.postVerdict_nest]; exact hstate
  have hnp : c.accounts.Units → ((d.postVerdict n r v).nest n).state.takesPass = false := fun hu => by
    rw [hpn]; rcases hj hu with k | k <;> rw [k] <;> rfl
  rw [hb] at harb
  generalize d.postVerdict n r v = p at hstep harb hpn hnp ⊢
  constructor
  · have hmark : Runs c (p.setNest n ((p.nest n).marking v)) := by
      refine ⟨?_, fun hu hk => ?_⟩
      · have both : c.accounts.Steps _ := (Relation.ReflTransGen.single hstep).tail
          (Accounts.Step.claim _ n (actMark v.actions) (by simp))
        rw [Device.accounts_setNest]
        simpa [Nest.marking] using both
      · refine (harb hu).1.trans ?_
        rw [Device.arbiters_setNest]
        exact .single (.move p.arbiters n .marking _ _ (harb hu).2 (harb hu).2
          (Or.inr ⟨rfl, fun k => by rw [Device.arbiters_state, hnp hu] at k; cases k⟩))
    rw [Device.enterMarking_eq]
    split
    · exact hmark
    · exact hmark.trans (.exitTest_of_marking (by simp [Nest.marking]))
  · obtain ⟨y, hy, hx⟩ := p.exitTest_exits n
    rw [hy]
    refine ⟨?_, fun hu hk => (harb hu).1.trans (Arbiters.Steps.exit hx (harb hu).2 (hnp hu))⟩
    have both : c.accounts.Steps _ := (Relation.ReflTransGen.single hstep).tail
      (Accounts.Step.leave _ n (p.afterUnit n) (by simp [NestState.inTest]) (p.afterUnit_noUnit n))
    rw [Device.accounts_setNest, hx.state, hx.record, hx.markClaim]
    simpa using both

theorem LabelUnit.posted_lt_of_hasFree {u : LabelUnit} (h : u.hasFree = true) : u.posted < 64 := by
  simpa [LabelUnit.hasFree] using h

/-- A final verdict is posted, or the nest joins the Ring Wait Queue (R17, R93, R105). -/
theorem Runs.finalVerdict {d : Device} {n : NestId} (hs : (d.nest n).state = .judging) (v : Verdict) (stale : Bool) :
    Runs d (d.finalVerdict n v stale) := by
  cases hr : (d.nest n).record with
  | none => simp only [Device.finalVerdict, hr]; exact .refl d
  | some r =>
    simp only [Device.finalVerdict, hr]
    have hrec : Runs d (d.modRecord n fun _ => { r with
        verdict := some v, chainKept := captureKept v.override (d.planOf r).header.capturePolicy v.cls,
        calStale := stale }) :=
      .modRecord_of_same d n _ fun r' h => by rw [hr, Option.some.injEq] at h; subst h; exact ⟨rfl, rfl, rfl⟩
    have hr' : ((d.modRecord n fun _ => { r with
        verdict := some v, chainKept := captureKept v.override (d.planOf r).header.capturePolicy v.cls,
        calStale := stale }).nest n).record = some { r with
        verdict := some v, chainKept := captureKept v.override (d.planOf r).header.capturePolicy v.cls,
        calStale := stale } := by simp [Device.modRecord_eq, hr]
    have hs' : ((d.modRecord n fun _ => { r with
        verdict := some v, chainKept := captureKept v.override (d.planOf r).header.capturePolicy v.cls,
        calStale := stale }).nest n).state = .judging := by simp [Device.modRecord_eq, hs]
    refine hrec.trans ?_
    generalize (d.modRecord n fun _ => { r with
        verdict := some v, chainKept := captureKept v.override (d.planOf r).header.capturePolicy v.cls,
        calStale := stale }) = e at hr' hs' ⊢
    split
    · rename_i hf
      exact (Runs.post (c := e) (q := e.labels.waitQueue) rfl rfl (Or.inl ⟨by rw [hs']; rfl, rfl⟩) (fun _ => Or.inl hs')
        hr' ⟨rfl, rfl⟩ (LabelUnit.posted_lt_of_hasFree hf) v).1
    · have hwait : Runs e (({ e with labels := { e.labels with
          waitQueue := e.labels.waitQueue ++ [n] } } : Device).setState n .labelWait) := by
        refine ⟨?_, fun hu hk => ?_⟩
        · have hacc : (({ e with labels := { e.labels with
              waitQueue := e.labels.waitQueue ++ [n] } } : Device).setState n .labelWait).accounts
              = { (e.setNest n { e.nest n with state := .labelWait }).accounts with
                  labels := { e.labels with waitQueue := e.labels.waitQueue ++ [n] } } := rfl
          rw [hacc]
          simp only [Device.accounts_setNest, Device.accounts_unit_self, Device.accounts_mark_self]
          exact .single (.wait e.accounts n (by simpa using hs'))
        · rw [Device.setState_eq, Device.arbiters_setNest]
          have hidle := hk.sub_idle (n := n) (by simp [hs']) (by simp [hs']) (by simp [hs'])
          exact .single (.move e.arbiters n .labelWait _ _ hidle hidle
            (Or.inr ⟨rfl, fun k => by rw [Device.arbiters_state, hs'] at k; cases k⟩))
      split
      · exact hwait.trans (.raise _ _)
      · exact hwait

/-- A free entry is granted to the head of the Ring Wait Queue (R106). -/
theorem Runs.grantEntry (d : Device) : Runs d d.grantEntry := by
  simp only [Device.grantEntry]
  split
  · exact .refl d
  · rename_i n rest hq
    split
    · rename_i hf
      have hde : Runs d { d with labels := { d.labels with waitQueue := rest } } :=
        ⟨.single (.dequeue d.accounts rest (by
          show rest.Sublist d.labels.waitQueue
          rw [hq]; exact List.sublist_cons_self n rest)), fun _ _ => .refl⟩
      cases hr : (d.nest n).record with
      | none =>
        have : ({ d with labels := { d.labels with waitQueue := rest } } : Device).grantClaim n
            = { d with labels := { d.labels with waitQueue := rest } } := by
          have hr' : (({ d with labels := { d.labels with waitQueue := rest } } : Device).nest n).record = none := hr
          simp only [Device.grantClaim, hr']
        rw [this]; exact hde
      | some r =>
        have hr' : (({ d with labels := { d.labels with waitQueue := rest } } : Device).nest n).record = some r := hr
        have hj : d.accounts.Units → (d.nest n).state = .judging ∨ (d.nest n).state = .labelWait := fun hu =>
          Or.inr (hu.waits n (by rw [Device.accounts_labels, hq]; simp))
        simp only [Device.grantClaim, hr']
        split
        · exact hde
        · rename_i v hv
          have hpost := Runs.post (c := d) (d := { d with labels := { d.labels with waitQueue := rest } }) (n := n)
            (r := r) (q := rest) rfl rfl (Or.inr hq) hj hr' ⟨rfl, rfl⟩ (LabelUnit.posted_lt_of_hasFree hf) v
          split
          · exact hpost.2
          · exact hpost.1
    · exact .refl d

theorem Runs.grantEntries (k : Nat) (d : Device) : Runs d (Device.grantEntries k d) := by
  induction k generalizing d with
  | zero => exact .refl d
  | succ k ih => exact (Runs.grantEntry d).trans (ih _)

end Sys2Proof.Machine

namespace Sys2Proof.Machine

/-! ## Fixture changes, aborts and link changes (R14, R15, R22, R26, R27, R28, R186) -/

theorem Runs.modRecord_partLost (d : Device) (n : NestId) :
    Runs d (d.modRecord n fun r => { r with partLost := true }) :=
  .modRecord_of_same d n _ fun _ _ => ⟨rfl, rfl, rfl⟩

theorem Runs.fixtureLoss (d : Device) (n : NestId) : Runs d (d.fixtureLoss n) := by
  simp only [Device.fixtureLoss]
  cases hs : (d.nest n).state with
  | clamping | levelLock | quietCheck | sweeping | judging => exact .earlyEnd (by rw [hs]; rfl) _
  | labelWait => exact .modRecord_partLost d n
  | marking => exact .exitTest_of_marking hs
  | empty | loaded | releasing | done | fault => exact .refl d

/-- The changes of PRESENT, by the state of the nest (R3, R26). -/
theorem Runs.presentChange (d : Device) (n : NestId) (level : Bool) : Runs d (d.presentChange n level) := by
  simp only [Device.presentChange]
  split
  · rename_i hs; exact .enterLoaded (by rw [hs]; rfl)
  · rename_i hs; exact .enterEmpty (by rw [hs]; rfl)
  · rename_i hs; exact .enterEmpty (by rw [hs]; rfl)
  · exact .refl d
  · exact .fixtureLoss d n

theorem Runs.clampedChange (d : Device) (n : NestId) (level : Bool) : Runs d (d.clampedChange n level) := by
  simp only [Device.clampedChange]
  split
  · rename_i hs
    split
    · exact .clampedTaken hs
    · exact .refl d
  · exact .setNest_of_same rfl rfl rfl rfl
  · rename_i hs; exact .enterDone (by rw [hs]; rfl)
  · exact .refl d
  · exact .fixtureLoss d n

theorem Runs.sequencerChange (d : Device) (n : NestId) (l : InputLine) (level : Bool) :
    Runs d (d.sequencerChange n l level) := by
  simp only [Device.sequencerChange]
  split
  · exact .refl d
  · cases l with
    | present => exact .presentChange d n level
    | clamped => exact .clampedChange d n level
    | lid => dsimp only; split; exacts [.fixtureLoss d n, .refl d]
    | aux => exact .refl d

theorem Runs.takeLevel (d : Device) (n : NestId) (l : InputLine) : Runs d (d.takeLevel n l) := by
  simp only [Device.takeLevel]
  refine Runs.trans ?_ (Runs.sequencerChange _ n l _)
  split <;> exact .of_same rfl rfl

theorem Runs.releaseTimeout {d : Device} {n : NestId} (hs : (d.nest n).state = .releasing) :
    Runs d (d.releaseTimeout n) :=
  (Runs.addHistory d n .fixtureFail).trans (.enterFault (Or.inl (by simpa [Device.addHistory_eq] using hs)))

theorem Device.clampExpired_state {d : Device} {n : NestId} (h : d.clampExpired n = true) :
    (d.nest n).state = .clamping := by
  simp only [Device.clampExpired, Bool.and_eq_true, decide_eq_true_eq] at h
  exact h.1.1

theorem Device.releaseExpired_state {d : Device} {n : NestId} (h : d.releaseExpired n = true) :
    (d.nest n).state = .releasing := by
  simp only [Device.releaseExpired, Bool.and_eq_true, decide_eq_true_eq] at h
  exact h.1

theorem Runs.takeItem (d : Device) (n : NestId) (i : DueItem) : Runs d (d.takeItem n i) := by
  cases i with
  | input l => simp only [Device.takeItem]; split; exacts [.takeLevel d n l, .refl d]
  | clampTimeout =>
    simp only [Device.takeItem]
    split
    · rename_i h; exact .earlyEnd (by rw [Device.clampExpired_state h]; rfl) _
    · exact .refl d
  | releaseTimeout =>
    simp only [Device.takeItem]
    split
    · rename_i h; exact .releaseTimeout (Device.releaseExpired_state h)
    · exact .refl d

theorem Runs.mapWrite (d : Device) (n : NestId) (f : MapFields) (order : List DueItem) :
    Runs d (d.mapWrite n f order) := by
  have hlines : Runs d (d.modLines n fun x => x.write f fun k => d.lineState n k) := .of_same rfl rfl
  exact hlines.trans (.foldl _ (fun e i => Runs.takeItem e n i) _ _)

/-- A nest in LABEL_WAIT without a unit, which is nowhere met, goes to FAULT or leaves its test. -/
theorem Runs.unitless_enterFault {d : Device} {n : NestId} (hs : (d.nest n).state.testStage = true)
    (hr : (d.nest n).record = none) : Runs d (d.enterFault n) := by
  obtain ⟨y, hy, hx⟩ := d.enterFault_exits n
  rw [hy]; exact (Runs.exitUnitless hs hr hx).trans (.raise _ _)

theorem Runs.unitless_exitTest {d : Device} {n : NestId} (hs : (d.nest n).state.testStage = true)
    (hr : (d.nest n).record = none) : Runs d (d.exitTest n) := by
  obtain ⟨y, hy, hx⟩ := d.exitTest_exits n
  rw [hy]; exact .exitUnitless hs hr hx

theorem Runs.unitless_enterReleasing {d : Device} {n : NestId} (hs : (d.nest n).state.testStage = true)
    (hr : (d.nest n).record = none) : Runs d (d.enterReleasing n) := by
  obtain ⟨y, hy, hx⟩ := d.enterReleasing_exits n
  rw [hy]; exact .exitUnitless hs hr hx

theorem Runs.linkLossNest (d : Device) (n : NestId) : Runs d (d.linkLossNest n) := by
  simp only [Device.linkLossNest]
  cases hs : (d.nest n).state with
  | clamping | levelLock | quietCheck | sweeping | judging => exact .earlyEnd (by rw [hs]; rfl) _
  | labelWait =>
    cases hr : (d.nest n).record with
    | some r => exact .discard_enterFault hs hr
    | none => exact .unitless_enterFault (by rw [hs]; rfl) hr
  | marking => exact .enterFault (Or.inr hs)
  | releasing => exact .enterFault (Or.inl hs)
  | empty | loaded | done | fault => exact .refl d

theorem Runs.abortNest (d : Device) (n : NestId) : Runs d (d.abortNest n) := by
  simp only [Device.abortNest]
  cases hs : (d.nest n).state with
  | clamping | levelLock | quietCheck | sweeping | judging => exact .earlyEnd (by rw [hs]; rfl) _
  | labelWait =>
    cases hr : (d.nest n).record with
    | some r => exact .discard_exitTest hs hr
    | none => exact .unitless_exitTest (by rw [hs]; rfl) hr
  | marking => exact .exitTest_of_marking hs
  | fault => exact .leaveFault hs
  | empty | loaded | releasing | done => exact .refl d

/-- The part of one nest in LINK RESET (R30, R34, R109). -/
theorem Runs.linkResetNest (d : Device) (n : NestId) : Runs d (d.linkResetNest n) := by
  simp only [Device.linkResetNest]
  have hquiet : ((d.silence n).nest n).tone.mode = .silent := by simp [Device.silence_eq]
  have h0 : Runs d ((d.silence n).modNest n fun x => { x with
      loopback := false, gateClaim := false, lampClaim := false, tone := { x.tone with gain := 0 } }) :=
    (Runs.silence d n).trans (.setNest_of_same rfl rfl rfl rfl)
  have hm : (((d.silence n).modNest n fun x => { x with
      loopback := false, gateClaim := false, lampClaim := false, tone := { x.tone with gain := 0 } }).nest n).tone.mode
      = .silent := by simp [Device.modNest_eq, hquiet]
  refine h0.trans ?_
  generalize (d.silence n).modNest n (fun x => { x with
      loopback := false, gateClaim := false, lampClaim := false, tone := { x.tone with gain := 0 } }) = e at hm
  -- a unit in test is discarded
  have discards : (e.nest n).state.inTest = true → Runs e (match (e.nest n).record with
      | some r => (e.discardUnit n r).enterReleasing n
      | none => e.enterReleasing n) := fun hs => by
    cases hr : (e.nest n).record with
    | some r => exact .discard_enterReleasing hs hm hr
    | none => exact .unitless_enterReleasing (NestState.testStage_of_inTest hs) hr
  cases hs : (e.nest n).state with
  | clamping | levelLock | quietCheck | sweeping | judging | labelWait => exact discards (by rw [hs]; rfl)
  | marking => exact .enterReleasing_of_marking hs
  | fault =>
    dsimp only
    split
    · exact .moveIdle (by rw [hs]; rfl) rfl rfl rfl (Or.inl hm)
    · exact .enterEmpty (by rw [hs]; rfl)
  | empty | loaded | releasing | done => exact .refl e

theorem Runs.autoStartOwed (d : Device) (n : NestId) : Runs d (d.autoStartOwed n) := by
  simp only [Device.autoStartOwed]
  have h : Runs d (d.modNest n fun x => { x with autoTestOwed := false }) := .setNest_of_same rfl rfl rfl rfl
  split
  · split
    · exact h.trans (.autoStartTest _ n)
    · exact h
  · exact .refl d

end Sys2Proof.Machine

namespace Sys2Proof.Machine

/-! ## The stages of a unit (R16, R18, R38 to R40, R48, R57, R61 to R65, R74) -/

/-- JUDGING is entered (R16). -/
theorem Runs.enterJudging {d : Device} {n : NestId} (hs : (d.nest n).state.endsEarly = true) :
    Runs d (d.enterJudging n) := by
  simp only [Device.enterJudging]
  refine (Runs.silence d n).trans ?_
  have hs' : ((d.silence n).nest n).state.endsEarly = true := by simpa [Device.silence_eq] using hs
  have hm : ((d.silence n).nest n).tone.mode = .silent := by simp [Device.silence_eq]
  generalize d.silence n = e at hs' hm
  refine ⟨?_, fun _ _ => ?_⟩
  · rw [Device.accounts_leaveArbiter, Device.modNest_eq]
    exact Runs.moveStage_accounts hs' rfl rfl rfl
  · refine Arbiters.Steps.leaveArbiter (st := .judging) (m := .silent) ?_ (Or.inl rfl)
    rw [Device.modNest_eq, ← hm]
    simp

theorem Runs.addFailureTo (d : Device) (n : NestId) (c : FailureClass) : Runs d (d.addFailureTo n c) :=
  .modRecord_of_same d n _ fun _ _ => ⟨rfl, rfl, rfl⟩

/-- A stage ends toward JUDGING with a failure class (Table 1-5). -/
theorem Runs.failStage {d : Device} {n : NestId} (hs : (d.nest n).state.endsEarly = true) (c : FailureClass)
    (e : HistoryEvent) : Runs d (d.failStage n c e) :=
  ((Runs.addFailureTo d n c).trans (.addHistory _ n e)).trans
    (.enterJudging (by simpa [Device.addHistory_eq, Device.addFailureTo_eq] using hs))

/-- The sub-state of a unit that has left its arbiter. -/
theorem Device.leaveArbiter_sub {d : Device} {n : NestId} {r : UnitRecord} (hr : (d.nest n).record = some r) :
    (d.leaveArbiter n).arbiters.sub n = some .none := by
  rw [(d.leaveArbiter_arbiters_self n).2.1, Device.arbiters_sub, hr]; rfl

/-- A unit that has no start under way enters a stage that presents one (R42, R61). -/
theorem Runs.present {d : Device} {n : NestId} {x : Nest} (hs : (d.nest n).state.endsEarly = true)
    (hx : x.state = .quietCheck ∨ x.state = .sweeping)
    (hr : x.record.map (fun r => (r.bank, r.chain.blocks, r.sub))
      = (d.nest n).record.map fun r => (r.bank, r.chain.blocks, r.sub))
    (hm : x.markClaim = (d.nest n).markClaim) (ht : x.tone.mode = (d.nest n).tone.mode)
    (hsub : d.arbiters.sub n = some .none) : Runs d ((d.setNest n x).presentStart n) := by
  have hx' : x.record.map UnitRecord.sub = some .none := by
    have := congrArg (Option.map fun p : BankId × List BlockId × SubStage => p.2.2) hr
    simp only [Option.map_map, Function.comp_def] at this
    exact Eq.trans this hsub
  refine ⟨?_, fun _ _ => ?_⟩
  · rw [Device.accounts_presentStart]
    refine Runs.moveStage_accounts hs (by rcases hx with hx | hx <;> rw [hx] <;> rfl) ?_ hm
    have := congrArg (Option.map fun p : BankId × List BlockId × SubStage => (p.1, p.2.1)) hr
    simpa [Option.map_map, Function.comp_def] using this
  · refine Relation.ReflTransGen.trans ?_ (Device.presentStart_arbiters ?_)
    · rw [Device.arbiters_setNest]
      refine .single (.move d.arbiters n x.state _ x.tone.mode (Or.inr hsub) (Or.inr hx') (Or.inr ⟨ht, fun k => ?_⟩))
      rw [Device.arbiters_state, NestState.takesPass_of_inTest (NestState.inTest_of_endsEarly hs)] at k
      cases k
    · have hsub' : (d.setNest n x).arbiters.sub n = some .none := by
        rw [Device.arbiters_sub, Device.nest_setNest_same]; exact hx'
      rcases hx with hx | hx
      · exact Or.inr ⟨by rw [Device.arbiters_state, Device.nest_setNest_same, hx], Or.inl hsub'⟩
      · exact Or.inl ⟨Or.inr (by rw [Device.arbiters_state, Device.nest_setNest_same, hx]), hsub'⟩

/-- A unit leaves its arbiter. -/
theorem Runs.leaveArbiter {d : Device} {n : NestId} (h : (d.nest n).tone.mode = .silent
    ∨ ((d.nest n).state.testStage = true ∧ (d.nest n).state ≠ .levelLock ∧ (d.nest n).state ≠ .sweeping)) :
    Runs d (d.leaveArbiter n) :=
  ⟨by rw [Device.accounts_leaveArbiter]; exact .refl, fun _ _ => Device.leaveArbiter_steps h⟩

theorem Device.leaveArbiter_nest {d : Device} {n : NestId} {r : UnitRecord} (hr : (d.nest n).record = some r) :
    (d.leaveArbiter n).nest n = { d.nest n with record := some { r with sub := .none } } := by
  rw [(d.leaveArbiter_self n).2, hr]; rfl

/-- QUIET_CHECK is entered (R61). -/
theorem Runs.enterQuietCheck {d : Device} {n : NestId} {r : UnitRecord} (hs : (d.nest n).state.endsEarly = true)
    (hr : (d.nest n).record = some r) : Runs d (d.enterQuietCheck n) := by
  simp only [Device.enterQuietCheck]
  have hm : ((d.silence n).nest n).tone.mode = .silent := by simp [Device.silence_eq]
  have hr' : ((d.silence n).nest n).record = some r := by simp [Device.silence_eq, hr]
  have hs' : ((d.silence n).nest n).state.endsEarly = true := by simpa [Device.silence_eq] using hs
  refine (Runs.silence d n).trans ?_
  generalize d.silence n = e at hm hr' hs'
  refine (Runs.leaveArbiter (Or.inl hm)).trans ?_
  have hn := Device.leaveArbiter_nest hr'
  have hsub := Device.leaveArbiter_sub hr'
  generalize e.leaveArbiter n = f at hn hsub
  rw [Device.modRecord_eq, Device.setState_eq, Device.setNest_setNest]
  refine Runs.present (by rw [hn]; exact hs') (Or.inl rfl) ?_ ?_ ?_ hsub
  all_goals simp [hn]

/-- SWEEPING is entered (R42, R62). -/
theorem Runs.enterSweeping {d : Device} {n : NestId} (hs : (d.nest n).state.endsEarly = true)
    (hsub : d.arbiters.sub n = some .none) : Runs d (d.enterSweeping n) :=
  .present hs (Or.inr rfl) rfl rfl rfl hsub

theorem Runs.lockReached {d : Device} {n : NestId} {r : UnitRecord} (hs : (d.nest n).state = .levelLock)
    (hr : (d.nest n).record = some r) (h : PlanHeader) : Runs d (d.lockReached n h) := by
  simp only [Device.lockReached]
  have h0 : Runs d ((d.modRecord n fun r => { r with lockedGain := some (d.nest n).tone.gain }).addHistory n .locked) :=
    (Runs.modRecord_of_same d n (fun r => { r with lockedGain := some (d.nest n).tone.gain })
      fun _ _ => ⟨rfl, rfl, rfl⟩).trans (.addHistory _ n _)
  refine h0.trans ?_
  have hs' : (((d.modRecord n fun r => { r with lockedGain := some (d.nest n).tone.gain }).addHistory n
      .locked).nest n).state.endsEarly = true := by simp [Device.modRecord_eq, Device.addHistory_eq, hs, NestState.endsEarly]
  split
  · exact .enterQuietCheck (r := { r with lockedGain := some (d.nest n).tone.gain }) hs'
      (by simp [Device.modRecord_eq, Device.addHistory_eq, hr])
  · exact .failStage hs' _ _

theorem Runs.lockInterval {d : Device} {n : NestId} {r : UnitRecord} (hs : (d.nest n).state = .levelLock)
    (hr : (d.nest n).record = some r) (h : PlanHeader) : Runs d (d.lockInterval n h) := by
  simp only [Device.lockInterval]
  split
  · exact .lockReached hs hr h
  · refine .setNest_of_same rfl rfl rfl ?_
    simp only [ToneGenerator.afterInterval]
    split <;> rfl

/-- The quiet check window closes (R62). -/
theorem Runs.quietClose {d : Device} {n : NestId} {r : UnitRecord} (hs : (d.nest n).state = .quietCheck)
    (hr : (d.nest n).record = some r) : Runs d (d.quietClose n r) := by
  have leaves : ∀ e : Device, (e.nest n).state = .quietCheck → Runs e (e.leaveArbiter n) := fun e he =>
    .leaveArbiter (Or.inr (by rw [he]; decide))
  simp only [Device.quietClose]
  split
  · refine (Runs.addHistory d n .quiet).trans ?_
    have hs' : ((d.addHistory n .quiet).nest n).state = .quietCheck := by simpa [Device.addHistory_eq] using hs
    have hr' : ((d.addHistory n .quiet).nest n).record = some r := by simpa [Device.addHistory_eq] using hr
    generalize d.addHistory n .quiet = e at hs' hr'
    exact (leaves e hs').trans (.enterSweeping (by rw [Device.leaveArbiter_nest hr']; show (e.nest n).state.endsEarly = _; rw [hs']; rfl)
      (Device.leaveArbiter_sub hr'))
  · split
    · refine (leaves d hs).trans ?_
      have hn := Device.leaveArbiter_nest hr
      have hsub := Device.leaveArbiter_sub hr
      generalize d.leaveArbiter n = e at hn hsub
      refine Runs.trans (e := e.modRecord n fun r => { r with quietAttempts := r.quietAttempts + 1, sub := .retryWait })
        ⟨?_, fun _ _ => ?_⟩ (.setNest_of_same rfl rfl rfl rfl)
      · rw [Device.modRecord_eq, Device.accounts_setNest_of_same]
        · exact .refl
        · rfl
        · simp [hn]
        · rfl
      · rw [Device.modRecord_eq, Device.arbiters_setNest]
        have hx : Option.map UnitRecord.sub (Option.map (fun r : UnitRecord =>
            { r with quietAttempts := r.quietAttempts + 1, sub := SubStage.retryWait }) (e.nest n).record)
            = some .retryWait := by rw [hn]; rfl
        simp only [hx, Device.arbiters_state_self, Device.arbiters_mode_self]
        exact .single (.rest e.arbiters n (by rw [Device.arbiters_state, hn]; exact hs) hsub)
    · exact .failStage (by rw [hs]; rfl) _ _

/-- A quiet start is presented again after its retry wait (R62). -/
theorem Runs.presentAgain {d : Device} {n : NestId} {r : UnitRecord} (hs : (d.nest n).state = .quietCheck)
    (hr : (d.nest n).record = some r) (hx : r.sub = .retryWait) : Runs d (d.presentStart n) :=
  ⟨by rw [Device.accounts_presentStart]; exact .refl, fun _ _ =>
    Device.presentStart_arbiters (Or.inr ⟨hs, Or.inr (by rw [Device.arbiters_sub, hr, Option.map_some, hx])⟩)⟩

/-! ### The windows of a segment -/

theorem Runs.guardWindow (d : Device) (n : NestId) (a : AmbientLevel) (b : Bool) : Runs d (d.guardWindow n a b) := by
  have h := d.guardWindow_frame n a b
  refine .of_same (by rw [h.1]; rfl) ?_
  have hg : ∀ g, ((d.guardWindow n a b).group g).holder = (d.group g).holder
      ∧ ((d.guardWindow n a b).group g).queue = (d.group g).queue
      ∧ ((d.guardWindow n a b).group g).loud = (d.group g).loud := fun g => by
    have := h.2 g
    rw [this]; exact ⟨rfl, rfl, rfl⟩
  have hm : (d.guardWindow n a b).groupMap = d.groupMap := by rw [h.1]
  simp only [Device.arbiters, Device.guardWindow_nest, hg, Device.groupOf, hm]

theorem Runs.closeWindowNest (d : Device) (n : NestId) : Runs d (d.modNest n Nest.closeWindow) :=
  .setNest_of_same rfl rfl rfl rfl

theorem Runs.voidWindow {d : Device} {n : NestId} (hs : (d.nest n).state = .sweeping) (r : UnitRecord) :
    Runs d (d.voidWindow n r) := by
  simp only [Device.voidWindow]
  have h0 : Runs d (d.modRecord n fun r => { r with resweeps := r.resweeps + 1 }) :=
    .modRecord_of_same d n _ fun _ _ => ⟨rfl, rfl, rfl⟩
  refine h0.trans ?_
  split
  · exact (Runs.addHistory _ n _).trans (.setNest_of_same rfl rfl rfl rfl)
  · exact .failStage (by simp [Device.modRecord_eq, hs, NestState.endsEarly]) _ _

/-- A folded window moves accumulators, counts and the failure set alone (R82, R83). -/
theorem UnitRecord.foldWindow_frame (r : UnitRecord) (p : Plan) (s : Segment) (k : Nat) (signal : WindowSignal)
    (m : Measures) : r.foldWindow p s k signal m = { r with
      accumulators := (r.foldWindow p s k signal m).accumulators
      unmapped := (r.foldWindow p s k signal m).unmapped } := by
  simp only [UnitRecord.foldWindow]
  split
  · split <;> rfl
  all_goals split <;> rfl

theorem UnitRecord.takePolarity_frame (r : UnitRecord) (p : Plan) (s : Segment) (signal : WindowSignal)
    (m : Measures) : r.takePolarity p s signal m = { r with failures := (r.takePolarity p s signal m).failures } := by
  simp only [UnitRecord.takePolarity]
  split <;> rfl

theorem Device.acceptedRecord_frame (d : Device) (n : NestId) (r : UnitRecord) (m : Measures) :
    d.acceptedRecord n r m = { r with
      accumulators := (d.acceptedRecord n r m).accumulators
      unmapped := (d.acceptedRecord n r m).unmapped
      failures := (d.acceptedRecord n r m).failures } := by
  simp only [Device.acceptedRecord]
  rw [UnitRecord.takePolarity_frame, UnitRecord.foldWindow_frame]

/-- A block claim moves blocks from the head of the Free List to the tail of the chain (R141). -/
theorem recordSample_conserves (limit : Nat) (r : Recording) (x : Sample) :
    (recordSample limit r x).chain.blocks ++ (recordSample limit r x).pool.free = r.chain.blocks ++ r.pool.free := by
  have put : ∀ r : Recording, (putSample limit r x).chain.blocks = r.chain.blocks ∧ (putSample limit r x).pool = r.pool := by
    intro r
    simp only [putSample]
    split <;> exact ⟨rfl, rfl⟩
  simp only [recordSample]
  split
  · rfl
  · split
    · split
      · rfl
      · rename_i b rest hf
        rw [(put _).1, (put _).2, hf]
        simp
    · rw [(put _).1, (put _).2]

theorem recordWindow_conserves (limit : Nat) (xs : List Sample) (r : Recording) :
    (recordWindow limit r xs).chain.blocks ++ (recordWindow limit r xs).pool.free = r.chain.blocks ++ r.pool.free := by
  induction xs generalizing r with
  | nil => rfl
  | cons x xs ih => exact (ih _).trans (recordSample_conserves limit r x)

/-- An accepted window is folded, and captured (R74, R141). -/
theorem Runs.acceptWindow {s : State} {n : NestId} {r : UnitRecord} (hs : (s.dev.nest n).state = .sweeping)
    (hr : (s.dev.nest n).record = some r) (m : Measures) : Runs s.dev (s.acceptWindow n r m).dev := by
  have hf := s.dev.acceptedRecord_frame n r m
  simp only [State.acceptWindow]
  split
  · -- the captured window, before its engine is done with it
    have hcap : Runs s.dev (({ s.dev with pool := (s.claimBlocks n r).pool } : Device).modRecord n fun _ =>
        { s.dev.acceptedRecord n r m with chain := (s.claimBlocks n r).chain }) := by
      have hr' : (({ s.dev with pool := (s.claimBlocks n r).pool } : Device).nest n).record = some r := hr
      rw [Device.modRecord_eq, hr']
      refine ⟨?_, fun _ _ => ?_⟩
      · have hc : (s.claimBlocks n r).chain.blocks ++ (s.claimBlocks n r).pool.free
            = r.chain.blocks ++ s.dev.pool.free := recordWindow_conserves _ _ _
        have hstep := Accounts.Step.capture s.dev.accounts n r.bank r.chain.blocks (s.claimBlocks n r).chain.blocks
          (s.claimBlocks n r).pool.free (by rw [Device.accounts_state, hs]; rfl) (Device.accounts_unit_of_record hr) hc
        have hacc : ∀ x : Nest, (Device.setNest { s.dev with pool := (s.claimBlocks n r).pool } n x).accounts
            = { (s.dev.setNest n x).accounts with free := (s.claimBlocks n r).pool.free } := fun _ => rfl
        rw [hacc, Device.accounts_setNest]
        have e1 : Function.update s.dev.accounts.state n
            (({ s.dev with pool := (s.claimBlocks n r).pool } : Device).nest n).state = s.dev.accounts.state :=
          s.dev.accounts_state_self n
        have e2 : Function.update s.dev.accounts.mark n
            (({ s.dev with pool := (s.claimBlocks n r).pool } : Device).nest n).markClaim = s.dev.accounts.mark :=
          s.dev.accounts_mark_self n
        rw [hf]
        simp only [Option.map_some, e1, e2]
        exact .single hstep
      · have harb : ∀ x : Nest, (Device.setNest { s.dev with pool := (s.claimBlocks n r).pool } n x).arbiters
            = (s.dev.setNest n x).arbiters := fun _ => rfl
        rw [harb, Device.arbiters_setNest_of_same]
        · exact .refl
        · rfl
        · rw [hr, hf]; rfl
        · rfl
    have hclose := hcap.trans (.closeWindowNest _ n)
    split
    · exact hclose.trans (.raise _ _)
    · exact hclose
  · refine Runs.trans (.modRecord_of_same s.dev n _ fun r' h => ?_) (.closeWindowNest _ n)
    rw [hr, Option.some.injEq] at h
    subst h
    rw [hf]; exact ⟨rfl, rfl, rfl⟩

theorem Runs.closeWindow {s : State} {n : NestId} {r : UnitRecord} (hs : (s.dev.nest n).state = .sweeping)
    (hr : (s.dev.nest n).record = some r) (m : Measures) : Runs s.dev (s.closeWindow n r m).dev := by
  simp only [State.closeWindow]
  split
  · exact (Runs.modRecord_of_same s.dev n UnitRecord.countUnmapped fun _ _ => ⟨rfl, rfl, rfl⟩).trans
      (.closeWindowNest _ n)
  · split
    · refine ((Runs.guardWindow s.dev n _ true).trans (.closeWindowNest _ n)).trans (.voidWindow ?_ r)
      simpa [Device.modNest_eq, Nest.closeWindow] using hs
    · refine (Runs.guardWindow s.dev n ((s.dev.nest n).ambientLevel (s.dev.planOf r).header (s.dev.segmentOf r))
        false).trans ?_
      exact Runs.acceptWindow (s := { s with dev := s.dev.guardWindow n _ false }) (by simpa using hs)
        (by simpa using hr) m

/-- A segment ends (R48, R57). -/
theorem Runs.endSegment {d : Device} {n : NestId} {r : UnitRecord} (hs : (d.nest n).state = .sweeping)
    (hr : (d.nest n).record = some r) : Runs d (d.endSegment n r) := by
  simp only [Device.endSegment]
  split
  · refine (Runs.silence d n).trans ?_
    have hm : ((d.silence n).nest n).tone.mode = .silent := by simp [Device.silence_eq]
    have hr' : ((d.silence n).nest n).record = some r := by simp [Device.silence_eq, hr]
    have hs' : ((d.silence n).nest n).state = .sweeping := by simpa [Device.silence_eq] using hs
    generalize d.silence n = e at hm hr' hs'
    refine (Runs.leaveArbiter (Or.inl hm)).trans ?_
    have hn := Device.leaveArbiter_nest hr'
    have hsub := Device.leaveArbiter_sub hr'
    generalize e.leaveArbiter n = f at hn hsub
    rw [Device.modRecord_eq]
    refine Runs.present (by rw [hn]; simp [hs', NestState.endsEarly]) (Or.inr ?_) ?_ rfl rfl hsub
    · simp [hn, hs']
    · simp [hn]
  · exact (Runs.addHistory d n .swept).trans (.enterJudging (by simp [Device.addHistory_eq, hs, NestState.endsEarly]))

/-! ### Judging -/

/-- A retest (R18). -/
theorem Runs.retest {d : Device} {n : NestId} {r r' : UnitRecord} (hs : (d.nest n).state = .judging)
    (hr : (d.nest n).record = some r') (hsame : r.bank = r'.bank ∧ r.chain = r'.chain ∧ r.sub = r'.sub) :
    Runs d (d.retest n r) := by
  let e : Device := (((d.freeChain r.chain).count n fun c => { c with retests := c.retests + 1 }).addHistory n
    .retested).modRecord n fun _ => r.retested (d.planOf r).header
  have hunit := Device.accounts_unit_of_record hr
  rw [← hsame.1, ← hsame.2.1] at hunit
  have he : e = ((d.freeChain r.chain).count n fun c => { c with retests := c.retests + 1 }).setNest n { d.nest n with
      history := addEvent (d.nest n).history .retested
      record := some (r.retested (d.planOf r).header) } := by
    simp only [e, Device.modRecord_eq, Device.addHistory_eq, Device.setNest_setNest, Device.nest_setNest_same,
      Device.count_nest, Device.freeChain_nest, hr]
    rfl
  have hsub : (r.retested (d.planOf r).header).sub = r'.sub := hsame.2.2
  have hacc : Runs d e := by
    rw [he]
    refine ⟨?_, fun _ _ => ?_⟩
    · have hstep := Accounts.Step.retest d.accounts n r.bank r.chain.blocks (by rw [Device.accounts_state, hs]; rfl) hunit
      rw [Device.accounts_setNest, Device.accounts_count, Device.accounts_freeChain]
      simp only [Device.accounts_state_self, Device.accounts_mark_self]
      exact .single hstep
    · rw [Device.arbiters_setNest, Device.arbiters_count, Device.arbiters_freeChain]
      have hx : (some (r.retested (d.planOf r).header)).map UnitRecord.sub = (d.nest n).record.map UnitRecord.sub := by
        rw [hr, Option.map_some, Option.map_some, hsub]
      simp only [hx, Device.arbiters_state_self, Device.arbiters_sub_self, Device.arbiters_mode_self]
      exact .refl
  have hs' : (e.nest n).state = .judging := by rw [he, Device.nest_setNest_same]; exact hs
  have hr' : (e.nest n).record = some (r.retested (d.planOf r).header) := by rw [he, Device.nest_setNest_same]
  show Runs d (e.enterLevelLock n)
  refine hacc.trans ⟨?_, fun hu hk => ?_⟩
  · rw [Device.enterLevelLock_accounts]
    exact .single (.move e.accounts n .levelLock (Or.inr (by simp [hs', NestState.endsEarly])))
  · refine Device.enterLevelLock_arbiters ((hk.sub_idle (n := n) (by simp [hs']) (by simp [hs'])
      (by simp [hs'])).resolve_left fun k => ?_)
    rw [Device.arbiters_sub, hr'] at k; cases k

theorem Runs.modRecord_const {d : Device} {n : NestId} {r r' : UnitRecord} (hr : (d.nest n).record = some r')
    (hsame : r.bank = r'.bank ∧ r.chain = r'.chain ∧ r.sub = r'.sub) : Runs d (d.modRecord n fun _ => r) :=
  .modRecord_of_same d n _ fun r'' h => by
    rw [hr, Option.some.injEq] at h
    subst h
    exact ⟨hsame.1, by rw [hsame.2.1], hsame.2.2⟩

theorem Runs.actOnEntry {d : Device} {n : NestId} {r r' : UnitRecord} (hs : (d.nest n).state = .judging)
    (hr : (d.nest n).record = some r') (hsame : r.bank = r'.bank ∧ r.chain = r'.chain ∧ r.sub = r'.sub) (i : Fin 16)
    (e : VerdictEntry) : Runs d (d.actOnEntry n r i e) := by
  simp only [Device.actOnEntry]
  split
  · exact .retest hs hr hsame
  · exact (Runs.modRecord_const hr hsame).trans (.finalVerdict (by simpa [Device.modRecord_eq] using hs) _ _)

theorem Runs.replaceCal (d : Device) (n : NestId) (p : PlanId) (c : CalRecord) (k : CalCause) :
    Runs d (d.replaceCal n p c k) := by
  simp only [Device.replaceCal]
  split <;> exact .of_same rfl rfl

theorem Device.replaceCal_nest (d : Device) (n m : NestId) (p : PlanId) (c : CalRecord) (k : CalCause) :
    (d.replaceCal n p c k).nest m = d.nest m := by
  simp only [Device.replaceCal]
  split <;> rfl

theorem Runs.goldenComplete {d : Device} {n : NestId} {r r' : UnitRecord} (hs : (d.nest n).state = .judging)
    (hr : (d.nest n).record = some r') (hsame : r.bank = r'.bank ∧ r.chain = r'.chain ∧ r.sub = r'.sub) :
    Runs d (d.goldenComplete n r) := by
  simp only [Device.goldenComplete]
  split
  · exact (Runs.modRecord_const hr hsame).trans (.finalVerdict (by simpa [Device.modRecord_eq] using hs) _ _)
  · refine (Runs.replaceCal d n _ _ _).trans ((Runs.modRecord_const (by rw [Device.replaceCal_nest]; exact hr)
      hsame).trans (.finalVerdict ?_ _ _))
    simpa [Device.modRecord_eq, Device.replaceCal_nest] using hs

end Sys2Proof.Machine

namespace Sys2Proof.Machine

/-! ## The commands of a nest (R10 to R12, R29, R49, R50, R67) -/

theorem Runs.setGate (d : Device) (n : NestId) (gate : GateArg) (auto : AutoArg) : Runs d (d.setGate n gate auto) := by
  have h : Runs d (d.modNest n fun x =>
      { x with gateOpen := applyGate gate x.gateOpen, autoStart := applyAuto auto x.autoStart }) :=
    .setNest_of_same rfl rfl rfl rfl
  simp only [Device.setGate]
  split
  · exact h.trans (.autoStartTest _ n)
  · exact h

theorem Runs.clearHistories (d : Device) : Runs d d.clearHistories := by
  have h : ∀ n, d.clearHistories.nest n = { d.nest n with history := 0 } := fun n => by
    simp [Device.clearHistories, Device.nest]
  refine .of_same ?_ ?_
  · simp only [Device.accounts, h]; rfl
  · simp only [Device.arbiters, h]; rfl

/-- LOOPBACK ON in EMPTY or LOADED (R29). -/
theorem Runs.loopbackOn {d : Device} {n : NestId} (hs : (d.nest n).state = .empty ∨ (d.nest n).state = .loaded) :
    Runs d (d.loopbackOn n) :=
  .moveIdle (by rcases hs with hs | hs <;> rw [hs] <;> rfl) rfl rfl rfl (Or.inr ⟨rfl, fun _ => rfl⟩)

theorem Runs.loopbackOff {d : Device} {n : NestId} (hs : (d.nest n).state = .empty ∨ (d.nest n).state = .loaded) :
    Runs d (d.loopbackOff n) := by
  simp only [Device.loopbackOff]
  have h : Runs d (d.modNest n fun x => { x with loopback := false }) := .setNest_of_same rfl rfl rfl rfl
  have hs' : ((d.modNest n fun x => { x with loopback := false }).nest n).state.testStage = false := by
    rcases hs with hs | hs <;> simp [Device.modNest_eq, hs, NestState.testStage]
  split
  · exact h.trans (.enterLoaded hs')
  · exact h.trans (.enterEmpty hs')

theorem Runs.pass {d : Device} {n : NestId} (hs : (d.nest n).state.takesPass = true) (i : Fin 2) :
    Runs d (d.modNest n fun x => { x with tone := { x.tone with mode := .pass i } }) := by
  rw [Device.modNest_eq]
  refine ⟨?_, fun _ _ => ?_⟩
  · rw [Device.accounts_setNest_of_same]
    · exact .refl
    · rfl
    · rfl
    · rfl
  · simp only [Device.arbiters_setNest, Device.arbiters_state_self, Device.arbiters_sub_self]
    exact .single (.pass d.arbiters n i hs)

theorem Nest.endPass_frame (x : Nest) : x.endPass = { x with tone := { x.tone with mode := x.endPass.tone.mode } } := by
  simp only [Nest.endPass]
  split <;> rfl

/-- The drive mode of a nest whose pass-through ends (R50). -/
theorem Nest.endPass_mode (x : Nest) : x.endPass.tone.mode = x.tone.mode ∨ x.endPass.tone.mode = .silent := by
  simp only [Nest.endPass]
  split
  · exact Or.inr rfl
  · exact Or.inl rfl
  · exact Or.inl rfl
  · exact Or.inl rfl

theorem Runs.endPass (d : Device) (n : NestId) : Runs d (d.modNest n Nest.endPass) := by
  have hf := (d.nest n).endPass_frame
  rw [Device.modNest_eq]
  refine ⟨?_, fun _ _ => ?_⟩
  · rw [Device.accounts_setNest_of_same]
    · exact .refl
    all_goals rw [hf]
  · have hs : (d.nest n).endPass.state = (d.nest n).state := by rw [hf]
    have hr : (d.nest n).endPass.record = (d.nest n).record := by rw [hf]
    rw [Device.arbiters_setNest, hs, hr, Device.arbiters_state_self, Device.arbiters_sub_self]
    rcases (d.nest n).endPass_mode with h | h
    · rw [h, Device.arbiters_mode_self]; exact .refl
    · rw [h]; exact .single (.silence d.arbiters n)

/-- Pass-through ends on some nests of the part (R50). -/
def Device.endPassOn (d : Device) (l : List NestId) : Device := l.foldl (fun e n => e.modNest n Nest.endPass) d

theorem Device.endPassOn_nest (l : List NestId) (hl : l.Nodup) (d : Device) (m : NestId) :
    (d.endPassOn l).nest m = if m ∈ l then (d.nest m).endPass else d.nest m := by
  induction l generalizing d with
  | nil => rfl
  | cons n l ih =>
    have hn := List.nodup_cons.mp hl
    show ((d.modNest n Nest.endPass).endPassOn l).nest m = _
    rw [ih hn.2, Device.modNest_eq]
    by_cases e : m = n
    · subst e; simp [hn.1]
    · rw [Device.nest_setNest_ne _ _ e]; simp [e]

/-- Pass-through ends on every nest (R50). -/
theorem Runs.endPassAll (d : Device) : Runs d { d with nests := Vector.ofFn fun n => (d.nest n).endPass } := by
  have h : ({ d with nests := Vector.ofFn fun n => (d.nest n).endPass } : Device)
      = d.endPassOn (List.finRange 4) := by
    have hframe : ∀ (l : List NestId) (e : Device), e.endPassOn l = { e with nests := (e.endPassOn l).nests } := by
      intro l
      induction l with
      | nil => exact fun _ => rfl
      | cons n l ih => exact fun e => ih (e.modNest n Nest.endPass)
    rw [hframe]
    congr 1
    refine Vector.ext fun i hi => ?_
    have := d.endPassOn_nest (List.finRange 4) (List.nodup_finRange 4) ⟨i, hi⟩
    rw [if_pos (List.mem_finRange _)] at this
    simpa [Device.nest] using this.symm
  rw [h]
  exact .foldl _ (fun e n => .endPass e n) _ _

/-- GROUP MAP WRITE with no unit in test (R67). -/
theorem Runs.setGroups {d : Device} (h : d.anyInTest = false) (groups : Vector Byte 4) (thresholds : Vector Int 2) :
    Runs d (d.setGroups groups thresholds) := by
  have hin : ∀ n, (d.nest n).state.inTest = false := by
    intro n
    simp only [Device.anyInTest, List.any_eq_false] at h
    simpa using h n (List.mem_finRange n)
  refine ⟨.refl, fun _ _ => ?_⟩
  have he : (d.setGroups groups thresholds).arbiters
      = { d.arbiters with groupOf := (d.setGroups groups thresholds).groupOf } := by
    simp only [Device.arbiters, Device.setGroups, Device.group, Device.nest, Fin.getElem_fin, Vector.getElem_ofFn]
  rw [he]
  exact .single (.regroup d.arbiters _ hin)

/-! ## The Result Ring and the Capture Pool (R103, R146) -/

theorem Device.returnEntry_accounts (d : Device) : d.returnEntry.accounts = d.accounts.returnEntry := by
  simp only [Device.returnEntry]
  split
  · rename_i c hc
    have : entryBlocks d.labels.ring[d.labels.ret] = c.blocks := by
      cases he : d.labels.ring[d.labels.ret] with
      | none => rw [he] at hc; cases hc
      | some e =>
        rw [he] at hc
        have hc' : e.chain = some c := hc
        simp [entryBlocks, hc']
    simp only [Device.accounts_freeChain, Accounts.returnEntry, Device.accounts_labels, this]
    rfl
  · rename_i hc
    have : entryBlocks d.labels.ring[d.labels.ret] = [] := by
      cases he : d.labels.ring[d.labels.ret] with
      | none => rfl
      | some e =>
        rw [he] at hc
        have hc' : e.chain = none := hc
        simp [entryBlocks, hc']
    simp only [Accounts.returnEntry, Device.accounts_labels, this, List.append_nil]
    rfl

theorem Device.returnEntry_arbiters (d : Device) : d.returnEntry.arbiters = d.arbiters := by
  simp only [Device.returnEntry]
  split <;> rfl

theorem Device.returnEntries_accounts (k : Nat) (d : Device) :
    (Device.returnEntries k d).accounts = d.accounts.returnEntries k := by
  induction k generalizing d with
  | zero => rfl
  | succ k ih =>
    show (Device.returnEntries k d.returnEntry).accounts = d.accounts.returnEntry.returnEntries k
    rw [ih, Device.returnEntry_accounts]

theorem Device.returnEntries_arbiters (k : Nat) (d : Device) : (Device.returnEntries k d).arbiters = d.arbiters := by
  induction k generalizing d with
  | zero => rfl
  | succ k ih => exact (ih d.returnEntry).trans d.returnEntry_arbiters

/-- Entries are returned up to one that is posted (R103). -/
theorem Runs.returnEntries {d : Device} {i : EntryId} (hi : d.labels.ring[i].isSome = true) :
    Runs d (Device.returnEntries (d.labels.spanTo i) d) := by
  refine ⟨?_, fun _ _ => ?_⟩
  · rw [Device.returnEntries_accounts]; exact .single (.giveBack d.accounts i hi)
  · rw [Device.returnEntries_arbiters]; exact .refl

/-- The chain of a label is that of a posted entry. -/
theorem LabelUnit.chainOf_some {u : LabelUnit} {number : Word32} {i : EntryId} {c : Chain}
    (h : u.chainOf number = some (i, c)) : ∃ e, u.ring[i] = some e ∧ e.chain = some c := by
  simp only [LabelUnit.chainOf, Option.bind_eq_bind, Option.bind_eq_some_iff] at h
  obtain ⟨j, _, e, he, c', hc, hp⟩ := h
  simp only [Option.some.injEq, Prod.mk.injEq] at hp
  obtain ⟨rfl, rfl⟩ := hp
  exact ⟨e, he, hc⟩

theorem Runs.releaseChain {d : Device} {i : EntryId} {c : Chain} {number : Word32}
    (h : d.labels.chainOf number = some (i, c)) : Runs d (d.releaseChain i c) := by
  obtain ⟨e, he, hc⟩ := LabelUnit.chainOf_some h
  refine ⟨?_, fun _ _ => .refl⟩
  have hstep := Accounts.Step.release d.accounts i e he
  have hacc : (d.releaseChain i c).accounts = { d.accounts with
      labels := { d.labels with ring := d.labels.ring.set i (some { e with chain := none }) }
      free := d.pool.free ++ entryBlocks (some e) } := by
    have hb : entryBlocks (some e) = c.blocks := by simp [entryBlocks, hc]
    rw [hb]
    simp only [Device.releaseChain, he, Option.map_some, Device.accounts_freeChain]
    rfl
  rw [hacc]
  exact .single hstep

/-! ## The yield counters, calibration and notices (R115, R116, R123, R136, R193) -/

theorem Runs.takeSnapshot (d : Device) : Runs d { d with yields := d.yields.takeSnapshot } :=
  ⟨.single (.snapshot d.accounts), fun _ _ => .refl⟩

/-- COUNTER SNAPSHOT with clear (R116). -/
theorem Runs.snapshotClear (d : Device) :
    Runs d { d with yields := { d.yields.takeSnapshot with live := d.clearedLive } } :=
  ⟨(Relation.ReflTransGen.single (.snapshot d.accounts)).tail (.clear _), fun _ _ => .refl⟩

theorem Runs.noticeConfig (d : Device) (priorities : Vector (Option Byte) 9) (count : Option Byte)
    (time : Option Word16) (threshold : Option Byte) : Runs d (d.noticeConfig priorities count time threshold) := by
  simp only [Device.noticeConfig]
  split <;> exact .of_same rfl rfl

/-! ## The table banks (R155 to R166) -/

/-- An operation of the Table Store begins or ends. -/
structure Operates (d e : Device) : Prop where
  accounts : d.accounts.Operate e.accounts
  arbiters : e.arbiters = d.arbiters

/-- An answer of a command: with its reply given the operation in flight stays; with it held an operation begins
(R184). -/
def Answer.Acts (a : Answer) (d : Device) : Prop :=
  match a.reply with
  | some _ => Runs d a.dev
  | none => Operates d a.dev ∧ a.dev.tables.operation ≠ .none

theorem Answer.Acts.ok {d e : Device} {data : ReplyData} (h : Runs d e) : (Answer.ok e data).Acts d := h
theorem Answer.Acts.refuse (d : Device) (st : Status) : (Answer.refuse d st).Acts d := Runs.refl d

/-- A bank's state and pin count change, and with them nothing else of the accounts. -/
theorem Device.accounts_modBank_state (d : Device) {b : BankId} {f : Bank → Bank} {st : BankState}
    (hs : (f (d.tables.bank b)).state = st) (hp : (f (d.tables.bank b)).pins = (d.tables.bank b).pins) :
    Device.accounts { d with tables := d.tables.modBank b f }
      = { d.accounts with bank := Function.update d.accounts.bank b (st, (d.accounts.bank b).2) } := by
  rw [Device.accounts_modBank, hs, hp]
  rfl

theorem Device.tableWrite_acts (kind plan row : Byte) (codes : List Nat) (d : Device) :
    (d.tableWrite kind plan row codes).Acts d := by
  simp only [Device.tableWrite]
  split
  · exact .refuse d _
  · split
    · exact .refuse d _
    · split
      · exact .refuse d _
      · rename_i f _ _ b hb
        split
        · refine Answer.Acts.ok ⟨?_, fun _ _ => .refl⟩
          have h := d.accounts_modBank_state (b := b) (f := fun x => x.write f)
            (st := openedState (d.accounts.bank b).1) rfl rfl
          show d.accounts.Steps (Device.accounts { d with tables := _ })
          rw [h]
          exact .single (.write d.accounts b (by rw [Device.accounts_standby]; exact hb))
        · exact .refuse d _

theorem Device.bankCopy_acts (d : Device) : d.bankCopy.Acts d := by
  simp only [Device.bankCopy]
  split
  · exact .refuse d _
  · split
    · exact .refuse d _
    · rename_i ho
      split
      · rename_i b _ hb
        refine ⟨⟨?_, rfl⟩, by simp⟩
        have h := d.accounts_modBank_state (b := b) (f := fun x =>
          { x with state := openedState x.state, fingerprints := if x.state = .ready then none else x.fingerprints })
          (st := openedState (d.accounts.bank b).1) rfl rfl
        have hop := Accounts.Operate.copy d.accounts b (by rw [Device.accounts_standby]; exact hb)
          (by simpa using ho)
        have := congrArg (fun a : Accounts => { a with operation := .copy }) h
        exact Eq.mpr (congrArg (Accounts.Operate d.accounts) this) hop
      · exact .refuse d _

theorem Device.sequenceError_acts (d : Device) (r : Reason) : (d.sequenceError r).Acts d :=
  Runs.of_same rfl rfl

theorem Device.tableCommit_acts (body : Option (Byte × Word16)) (d : Device) : (d.tableCommit body).Acts d := by
  simp only [Device.tableCommit]
  split
  · exact .refuse d _
  · split
    · exact .refuse d _
    · rename_i ho
      split
      · exact d.sequenceError_acts _
      · rename_i code declared
        split
        · exact d.sequenceError_acts _
        · split
          · exact d.sequenceError_acts _
          · rename_i b hb
            split
            · rename_i hs
              refine ⟨⟨?_, rfl⟩, by simp [Device.takeCommit]⟩
              have h := d.accounts_modBank_state (b := b) (f := fun x => { x with state := .verifying })
                (st := .verifying) rfl rfl
              have hop := Accounts.Operate.commit d.accounts b declared (by rw [Device.accounts_standby]; exact hb) hs ho
              have := congrArg (fun a : Accounts => { a with operation := .commit declared }) h
              exact Eq.mpr (congrArg (Accounts.Operate d.accounts) this) hop
            · exact d.sequenceError_acts _

/-- A copy completes (R157). -/
theorem Operates.finishCopy {d : Device} (ho : d.tables.operation = .copy) (a b : BankId) :
    Operates d (d.finishCopy a b) := by
  refine ⟨?_, rfl⟩
  have h := d.accounts_modBank_state (b := b) (f := fun x => { x with rows := (d.tables.bank a).rows, fingerprints := none })
    (st := (d.accounts.bank b).1) rfl rfl
  have he : Function.update d.accounts.bank b ((d.accounts.bank b).1, (d.accounts.bank b).2) = d.accounts.bank :=
    Function.update_eq_self _ _
  rw [he] at h
  exact Eq.mpr (congrArg (Accounts.Operate d.accounts) (congrArg (fun a : Accounts => { a with operation := .none }) h))
    (Accounts.Operate.copied d.accounts ho)

/-- A verification completes (R160). -/
theorem Operates.verified {d : Device} {b : BankId} {w : Word16} (hb : d.tables.standby = some b)
    (ho : d.tables.operation = .commit w) : Operates d (d.verified b) := by
  refine ⟨?_, rfl⟩
  have h := d.accounts_modBank_state (b := b) (f := fun x =>
    { x with state := .ready, fingerprints := some x.rows.fingerprints }) (st := .ready) rfl rfl
  exact Eq.mpr (congrArg (Accounts.Operate d.accounts) (congrArg (fun a : Accounts => { a with operation := .none }) h))
    (Accounts.Operate.verified d.accounts b w .ready (by rw [Device.accounts_standby]; exact hb) ho)

theorem Operates.notVerified {d : Device} {b : BankId} {w : Word16} (hb : d.tables.standby = some b)
    (ho : d.tables.operation = .commit w) (e : ErrorDetail) : Operates d (d.notVerified b e) := by
  refine ⟨?_, rfl⟩
  have h := d.accounts_modBank_state (b := b) (f := fun x => { x with state := .opened }) (st := .opened) rfl rfl
  have hstep := Accounts.Operate.verified d.accounts b w .opened (by rw [Device.accounts_standby]; exact hb) ho
  have hacc : (d.notVerified b e).accounts = { Device.accounts { d with
      tables := d.tables.modBank b fun x => { x with state := .opened } } with operation := .none } := by
    cases b <;> rfl
  rw [hacc, h]
  exact hstep

/-- The records are reset or restamped: calibration and notices alone change (R133, R134). -/
theorem Device.restamp_frame (d : Device) (old : Option Bank) (new : Bank) :
    ∃ c a, d.restamp old new = { d with calibration := c, notices := a } := by
  simp only [Device.restamp]
  have fold : ∀ (p : NestId → Bool) (l : List NestId) (e : Device), (∃ c a, e = { d with calibration := c, notices := a }) →
      ∃ c a, l.foldl (fun (e : Device) n => if p n then e.raiseCal n .switched none else e) e
        = { d with calibration := c, notices := a } := by
    intro p l
    induction l with
    | nil => exact fun e h => h
    | cons n l ih =>
      rintro e ⟨c, a, rfl⟩
      refine ih _ ?_
      dsimp only
      split
      · exact ⟨_, _, rfl⟩
      · exact ⟨_, _, rfl⟩
  exact fold _ _ _ ⟨_, _, rfl⟩

/-- The banks after a switch (R163). -/
theorem TableStore.switchTo_bank (t : TableStore) {b : BankId} (hb : t.standby = some b) (c : BankId) :
    (((t.switchTo b).bank c).state, ((t.switchTo b).bank c).pins)
      = if c = b then (.active, 0) else if t.activeBank = some c then retired ((t.bank c).state, (t.bank c).pins)
        else ((t.bank c).state, (t.bank c).pins) := by
  have hbank : (t.switchTo b).bank c = ((match t.activeBank with
      | some a => t.modBank a Bank.retire
      | none => t).modBank b fun x => x.activate (nextGeneration t.generationCounter)).bank c := by
    cases c <;> rfl
  rw [hbank]
  by_cases e : c = b
  · subst e
    rw [TableStore.bank_modBank_same, if_pos rfl]
    rfl
  · rw [TableStore.bank_modBank_ne _ _ e, if_neg e]
    cases ha : t.activeBank with
    | none => rfl
    | some a =>
      by_cases e' : c = a
      · subst e'
        rw [TableStore.bank_modBank_same, if_pos rfl]
        simp only [Bank.retire, retired]
      · have e'' : some a ≠ some c := fun k => e' (Option.some.inj k).symm
        rw [TableStore.bank_modBank_ne _ _ e', if_neg e'']

theorem TableStore.switchTo_operation (t : TableStore) (b : BankId) : (t.switchTo b).operation = t.operation := by
  simp only [TableStore.switchTo]
  cases t.activeBank <;> simp

theorem Device.bankSwitch_acts (d : Device) : d.bankSwitch.Acts d := by
  simp only [Device.bankSwitch]
  split
  · exact .refuse d _
  · split
    · exact .refuse d _
    · rename_i b hb
      split
      · rename_i hs
        refine Answer.Acts.ok ?_
        obtain ⟨c, a, h⟩ := Device.restamp_frame { d with tables := d.tables.switchTo b }
          (d.tables.activeBank.map d.tables.bank) ((d.tables.switchTo b).bank b)
        rw [h]
        refine ⟨?_, fun _ _ => .refl⟩
        have hstep := Accounts.Step.switch d.accounts b (by rw [Device.accounts_standby]; exact hb) hs
        refine .single (Eq.mp (congrArg (Accounts.Step d.accounts) ?_) hstep)
        have hbanks : (fun c => (((d.tables.switchTo b).bank c).state, ((d.tables.switchTo b).bank c).pins))
            = fun c => if c = b then (.active, 0) else if d.accounts.activeBank = some c then retired (d.accounts.bank c)
              else d.accounts.bank c := funext fun c => TableStore.switchTo_bank _ hb c
        rw [← hbanks]
        simp only [Device.accounts, TableStore.switchTo_operation]
        rfl
      · exact .refuse d _

/-! ## LINK RESET (R166, R170, R177, R186) -/

/-- The blocks' parts of LINK RESET: the nests act, and an operation in flight is abandoned. -/
theorem Device.linkReset_turns (d : Device) (order : List NestId) :
    ∃ e, Runs d e ∧ Operates e (d.linkReset order) := by
  refine ⟨(nestOrder order).foldl Device.linkResetNest d, .foldl _ (fun e n => .linkResetNest e n) _ _, ?_⟩
  simp only [Device.linkReset]
  generalize (nestOrder order).foldl Device.linkResetNest d = e
  refine ⟨?_, ?_⟩
  · refine Eq.mp (congrArg (Accounts.Operate e.accounts) ?_) (Accounts.Operate.abandon e.accounts)
    have hbanks : (fun b => (((e.tables.linkReset).bank b).state, ((e.tables.linkReset).bank b).pins))
        = fun b => (if (e.accounts.bank b).1 = .verifying then BankState.opened else (e.accounts.bank b).1,
          (e.accounts.bank b).2) := by
      funext b
      cases b
      · show (((if e.tables.bankA.state = .verifying then _ else e.tables.bankA : Bank)).state, _) = _
        by_cases h : e.tables.bankA.state = .verifying <;>
          simp [TableStore.linkReset, TableStore.bank, Device.accounts, h]
      · show (((if e.tables.bankB.state = .verifying then _ else e.tables.bankB : Bank)).state, _) = _
        by_cases h : e.tables.bankB.state = .verifying <;>
          simp [TableStore.linkReset, TableStore.bank, Device.accounts, h]
    rw [← hbanks]
    rfl
  · simp only [Device.arbiters, Device.group, Device.nest, Device.groupOf, Fin.getElem_fin, Vector.getElem_ofFn,
      Group.linkReset]

end Sys2Proof.Machine

namespace Sys2Proof.Machine

/-! ## What a row does to the whole part -/

/-- The credit stays the number of commands taken and not yet answered, and at most 8, and no reply comes to be held or
ceases to be (R183). -/
structure Management.Balances (m k : Management) : Prop where
  held : k.held = m.held
  credit : m.credit = m.unanswered → m.credit ≤ 8 → k.credit = k.unanswered ∧ k.credit ≤ 8

theorem Management.Balances.refl (m : Management) : m.Balances m := ⟨rfl, fun h k => ⟨h, k⟩⟩
theorem Management.Balances.trans {m k l : Management} (h : m.Balances k) (h' : k.Balances l) : m.Balances l :=
  ⟨h'.held.trans h.held, fun a b => h'.credit (h.credit a b).1 (h.credit a b).2⟩

/-- No queue and no count of the interface changes. -/
theorem Management.Balances.of_same {m k : Management} (hc : k.credit = m.credit) (hu : k.unanswered = m.unanswered)
    (hh : k.held = m.held) : m.Balances k := ⟨hh, fun a b => by rw [hc, hu]; exact ⟨a, b⟩⟩

/-- What is not yet answered is counted from the queues, the held reply and the message being sent. -/
theorem Management.unanswered_congr {m k : Management} (hq : k.queue.length = m.queue.length)
    (hr : k.replies.length = m.replies.length) (hh : k.held = m.held)
    (hs : k.sending.any Sending.isReply = m.sending.any Sending.isReply) : k.unanswered = m.unanswered := by
  simp only [Management.unanswered, hq, hr, hh, hs]

/-- A row that takes no command and ends no operation: it leaves the queue of rows, keeps the credit in balance, and
joins the blocks by steps. -/
structure Link (s t : State) : Prop where
  pending : t.pending = s.pending
  mgmt : s.mgmt.Balances t.mgmt
  runs : Runs s.dev t.dev

theorem Link.refl (s : State) : Link s s := ⟨rfl, .refl _, .refl _⟩
theorem Link.trans {s t u : State} (h : Link s t) (k : Link t u) : Link s u :=
  ⟨k.pending.trans h.pending, h.mgmt.trans k.mgmt, h.runs.trans k.runs⟩
theorem Link.dev {s : State} {d : Device} (h : Runs s.dev d) : Link s { s with dev := d } := ⟨rfl, .refl _, h⟩

/-- Everything that a row which answers a next state can do. -/
inductive Turn (c : Instr) (s t : State) : Prop
  /-- power-on reset (R31) -/
  | reset (hc : c = .powerOnReset) (ht : t = { State.reset with pending := s.pending })
  /-- a row that takes no command and writes no sample -/
  | plain (h : Link s t) (hs : t.samples = s.samples)
  /-- the closing of a window that is captured (R141) -/
  | window (n : NestId) (m : Measures) (hc : c = .windowClose n m) (limit : Nat) (r : Recording) (xs : List Sample)
      (h : Link s t) (hr : r.samples = s.samples) (hs : t.samples = (recordWindow limit r xs).samples)
  /-- a command is executed (R184) -/
  | command (tag type : Byte) (a : Answer) (hq : s.mgmt.queue ≠ []) (ha : a.Acts s.dev)
      (ht : t = s.answered tag type a)
  /-- an operation of the Table Store completes (R157, R160) -/
  | completes (d : Device) (st : Status) (data : ReplyData) (hd : Operates s.dev d)
      (ho : s.dev.tables.operation ≠ .none) (hn : d.tables.operation = .none)
      (ht : t = State.releaseHeld { s with dev := d } st data)
  /-- LINK RESET is carried out (R186) -/
  | linkReset (tag : Byte) (order : List NestId) (hq : s.mgmt.queue ≠ []) (ht : t = s.linkReset tag order)

/-- A row, in the outcome it gives. -/
def Turns (c : Instr) (s : State) (o : Host.Outcome State Fault Refusal) : Prop := ∀ t, o = .next t → Turn c s t

theorem Turns.of_turn {c : Instr} {s t : State} (h : Turn c s t) : Turns c s (.next t) := by
  rintro _ ⟨⟩
  exact h

theorem Turns.same (c : Instr) (s : State) : Turns c s (.next s) := .of_turn (.plain (.refl s) rfl)

/-- A row that changes the blocks alone. -/
theorem Turns.dev {c : Instr} {s : State} {d : Device} (h : Runs s.dev d) : Turns c s (.next { s with dev := d }) :=
  .of_turn (.plain (.dev h) rfl)

/-- A row that acts where its event is due, and changes nothing elsewhere (log 2). -/
theorem Turns.due {c : Instr} {s : State} {d : Device} {p : Prop} [Decidable p] (h : p → Runs s.dev d) :
    Turns c s (.next (if p then { s with dev := d } else s)) := by
  by_cases hp : p
  · rw [if_pos hp]; exact .dev (h hp)
  · rw [if_neg hp]; exact .same c s

/-- A command row (R184). -/
theorem Turns.command {c : Instr} {s : State} {type tag : Byte} {agrees : List Byte → Bool} {act : Device → Answer}
    (h : (act s.dev).Acts s.dev) : Turns c s (.next (s.runCommand type tag agrees act)) := by
  rcases s.runCommand_cases type tag agrees act with he | ⟨x, rest, hq, _, _, he | he⟩
  · rw [he]; exact .same c s
  · exact .of_turn (.command tag type _ (by rw [hq]; simp) (.refuse s.dev .badLength) he)
  · exact .of_turn (.command tag type _ (by rw [hq]; simp) h he)

/-! ### The links and the messages -/

theorem State.discardMessage_link (s : State) : Link s s.discardMessage := by
  refine ⟨rfl, .of_same rfl rfl rfl, ?_⟩
  simp only [State.discardMessage]
  split
  · exact .raise _ _
  · exact .refl _

theorem State.discardMessage_samples (s : State) : s.discardMessage.samples = s.samples := rfl

/-- Nothing but the parser's own state changes. -/
theorem Link.parser (s : State) (p : ParserState) (bytes : List Byte) (completed : List (List Byte)) :
    Link s { s with mgmt := { s.mgmt with parser := p, partBytes := bytes, completed := completed } } :=
  ⟨rfl, .of_same rfl rfl rfl, .refl _⟩

theorem State.dropPartMessage_link (s : State) :
    Link s s.dropPartMessage ∧ s.dropPartMessage.samples = s.samples := by
  simp only [State.dropPartMessage]
  split
  · exact ⟨s.discardMessage_link.trans (Link.parser s.discardMessage .hunt [] _), rfl⟩
  · exact ⟨Link.parser s .hunt [] _, rfl⟩

theorem State.feedByte_link (s : State) (b : Option Byte) : Link s (s.feedByte b) ∧ (s.feedByte b).samples = s.samples := by
  simp only [State.feedByte]
  split
  · exact ⟨Link.parser s .ready _ _, rfl⟩
  · exact ⟨.refl s, rfl⟩
  · exact ⟨.refl s, rfl⟩
  · exact ⟨Link.parser s .receiving _ _, rfl⟩
  · exact ⟨s.discardMessage_link.trans (Link.parser s.discardMessage .ready [] _), rfl⟩
  · split
    · exact s.dropPartMessage_link
    · split
      · exact ⟨Link.parser s .hunt [] _, rfl⟩
      · exact ⟨Link.parser s _ _ _, rfl⟩

theorem State.feedBytes_link (l : List (Option Byte)) (s : State) :
    Link s (l.foldl State.feedByte s) ∧ (l.foldl State.feedByte s).samples = s.samples := by
  induction l generalizing s with
  | nil => exact ⟨.refl s, rfl⟩
  | cons b l ih =>
    obtain ⟨h1, e1⟩ := s.feedByte_link b
    obtain ⟨h2, e2⟩ := ih (s.feedByte b)
    exact ⟨h1.trans h2, e2.trans e1⟩

theorem Link.port (s : State) (p : ControllerPort) : Link s { s with dev := { s.dev with controllerPort := p } } :=
  .dev (.of_same rfl rfl)

theorem State.receiveFrame_link (s : State) (frame : Option ControllerFrame) :
    Link s (s.receiveFrame frame) ∧ (s.receiveFrame frame).samples = s.samples := by
  have both : ∀ (p : ControllerPort) (l : List (Option Byte)),
      Link s (l.foldl State.feedByte { s with dev := { s.dev with controllerPort := p } })
      ∧ (l.foldl State.feedByte { s with dev := { s.dev with controllerPort := p } }).samples = s.samples := fun p l =>
    ⟨(Link.port s p).trans (State.feedBytes_link l _).1, (State.feedBytes_link l _).2⟩
  delta State.receiveFrame
  dsimp only
  split
  · exact both _ _
  · split
    · exact both _ _
    · exact ⟨Link.port s _, rfl⟩
  · exact ⟨Link.port s _, rfl⟩

theorem Sending.any_isReply_map (x : Option Sending) (f : Sending → Sending) (h : ∀ y, (f y).isReply = y.isReply) :
    (x.map f).any Sending.isReply = x.any Sending.isReply := by
  cases x with
  | none => rfl
  | some y => exact h y

theorem State.sendFrame_link (s : State) : Link s s.sendFrame ∧ s.sendFrame.samples = s.samples := by
  refine ⟨⟨rfl, .of_same rfl (Management.unanswered_congr rfl rfl rfl ?_) rfl, .of_same rfl rfl⟩, rfl⟩
  exact Sending.any_isReply_map _ _ fun _ => rfl

theorem execControllerLinkFrame_turns (c : Instr) (frame : Option ControllerFrame) (s : State) :
    Turns c s (execControllerLinkFrame frame s) := by
  simp only [execControllerLinkFrame]
  split
  · exact .same c s
  · obtain ⟨h1, e1⟩ := s.receiveFrame_link frame
    obtain ⟨h2, e2⟩ := (s.receiveFrame frame).sendFrame_link
    exact .of_turn (.plain (h1.trans h2) (e2.trans e1))

theorem execControllerLinkHoldover_turns (c : Instr) (s : State) : Turns c s (execControllerLinkHoldover s) := by
  simp only [execControllerLinkHoldover]
  split
  · obtain ⟨h, e⟩ := s.dropPartMessage_link
    refine .of_turn (.plain (h.trans ⟨rfl, .of_same rfl (Management.unanswered_congr rfl rfl rfl ?_) rfl,
      (Runs.endPassAll s.dropPartMessage.dev).trans (.of_same rfl rfl)⟩) e)
    refine Sending.any_isReply_map _ _ fun y => ?_
    split <;> rfl
  · exact .same c s

theorem State.takeMessage_link (s : State) (bytes : List Byte) :
    Link s (s.takeMessage bytes) ∧ (s.takeMessage bytes).samples = s.samples := by
  simp only [State.takeMessage]
  split
  · exact ⟨s.discardMessage_link, rfl⟩
  · split
    · exact ⟨s.discardMessage_link, rfl⟩
    · rename_i h
      refine ⟨⟨rfl, ⟨rfl, fun hc _ => ?_⟩, .refl _⟩, rfl⟩
      simp only [Management.unanswered] at hc ⊢
      simp only [List.length_append, List.length_cons, List.length_nil]
      exact ⟨by omega, by omega⟩

theorem execMessageReceived_turns (c : Instr) (s : State) : Turns c s (execMessageReceived s) := by
  simp only [execMessageReceived]
  split
  · exact .same c s
  · rename_i bytes rest _
    obtain ⟨h, e⟩ := State.takeMessage_link { s with mgmt := { s.mgmt with completed := rest } } bytes
    exact .of_turn (.plain ((Link.parser s _ _ rest).trans h) e)

theorem Runs.selectNotice (d : Device) (i : SourceId) : Runs d (d.selectNotice i) := by
  simp only [Device.selectNotice, Device.consumeDetail]
  split
  · exact .of_same rfl rfl
  · split
    · exact .of_same rfl rfl
    · split
      · exact .of_same rfl rfl
      · split <;> exact .of_same rfl rfl

theorem State.sendNotice_link {s : State} (hs : s.mgmt.sending = none) (i : SourceId) : Link s (s.sendNotice i) :=
  ⟨rfl, .of_same rfl (Management.unanswered_congr rfl rfl rfl (by rw [hs]; rfl)) rfl,
    .selectNotice s.dev i⟩

theorem State.sendReply_link {s : State} (hs : s.mgmt.sending = none) {r : Reply} {rest : List Reply}
    (hr : s.mgmt.replies = r :: rest) : Link s (s.sendReply r rest) := by
  refine ⟨rfl, .of_same rfl ?_ rfl, .refl _⟩
  have hnew : (s.sendReply r rest).mgmt.unanswered
      = s.mgmt.queue.length + rest.length + (if s.mgmt.held.isSome then 1 else 0) + 1 := rfl
  have hold : s.mgmt.unanswered
      = s.mgmt.queue.length + (rest.length + 1) + (if s.mgmt.held.isSome then 1 else 0) + 0 := by
    simp only [Management.unanswered, hs, hr]
    rfl
  rw [hnew, hold]
  omega

theorem execMessageChoice_turns (c : Instr) (s : State) : Turns c s (execMessageChoice s) := by
  simp only [execMessageChoice]
  split
  · rename_i hm
    have hs : s.mgmt.sending = none := by
      simp only [State.mayChoose, Bool.and_eq_true, Option.isNone_iff_eq_none] at hm
      exact hm.1.2
    split
    · exact .of_turn (.plain (State.sendNotice_link hs _) rfl)
    · rename_i hr
      split
      · exact .of_turn (.plain (State.sendNotice_link hs _) rfl)
      · exact .of_turn (.plain (State.sendReply_link hs hr) rfl)
    · rename_i hr
      exact .of_turn (.plain (State.sendReply_link hs hr) rfl)
    · exact .same c s
  · exact .same c s

theorem execMessageSent_turns (c : Instr) (s : State) : Turns c s (execMessageSent s) := by
  simp only [execMessageSent]
  split
  · exact .same c s
  · rename_i x hx
    split
    · refine .of_turn (.plain ⟨rfl, ⟨rfl, fun hc h8 => ?_⟩, .refl _⟩ rfl)
      simp only [Management.unanswered, hx, Option.any_some, Option.any_none] at hc ⊢
      cases hr : x.isReply <;> simp [hr] at hc ⊢ <;> omega
    · exact .same c s

theorem execUnknownType_turns (c : Instr) (tag type : Byte) (s : State) : Turns c s (execUnknownType tag type s) := by
  simp only [execUnknownType]
  split
  · exact .same c s
  · rename_i hq
    split
    · exact .of_turn (.command tag type _ (by rw [hq]; simp) (.refuse s.dev _) rfl)
    · exact .same c s

/-! ### The frame of the nest link -/

theorem Device.toneAfterFrame_mode (d : Device) (n : NestId) (sense mic : Sample) :
    (d.toneAfterFrame n sense mic).mode = (d.nest n).tone.mode := by
  simp only [Device.toneAfterFrame]
  split <;> rfl

theorem Runs.nestFrame (d : Device) (frame : Option NestFrame) : Runs d (d.nestFrame frame) := by
  have hn := fun n => Device.nestAfterFrame_frame d n (d.nestFrame frame).nestPort.mic[n]
    (d.nestFrame frame).nestPort.sense[n] (d.nestFrame frame).nestPort.ambient[d.groupOf n]
  have hstate : ∀ n, ((d.nestFrame frame).nest n).state = (d.nest n).state := fun n => by
    rw [Device.nestFrame_nest, hn n]
  have hrec : ∀ n, ((d.nestFrame frame).nest n).record = (d.nest n).record := fun n => by
    rw [Device.nestFrame_nest, hn n]
  have hmark : ∀ n, ((d.nestFrame frame).nest n).markClaim = (d.nest n).markClaim := fun n => by
    rw [Device.nestFrame_nest, hn n]
  have hmode : ∀ n, ((d.nestFrame frame).nest n).tone.mode = (d.nest n).tone.mode := fun n => by
    rw [Device.nestFrame_nest, hn n]
    exact Device.toneAfterFrame_mode d n _ _
  have htab : ∀ b, ((d.nestFrame frame).tables.bank b) = d.tables.bank b := fun b => by
    rw [Device.nestFrame_tables, TableStore.afterFrame]
    split <;> rfl
  have hop : (d.nestFrame frame).tables.operation = d.tables.operation := by
    rw [Device.nestFrame_tables, TableStore.afterFrame]
    split <;> rfl
  refine .of_same ?_ ?_
  · simp only [Device.accounts, hstate, hrec, hmark, htab, hop, Device.nestFrame_labels, Device.nestFrame_yields,
      Device.nestFrame_pool]
  · simp only [Device.arbiters, hstate, hrec, hmode, Device.group, Device.groupOf, Device.nestFrame_groups,
      Device.nestFrame_groupMap]

/-! ### The timed events of a unit -/

theorem Nest.settleOver_state {x : Nest} (h : x.settleOver = true) : x.state = .clamping := by
  simp only [Nest.settleOver, Bool.and_eq_true, decide_eq_true_eq] at h
  exact h.1

theorem Nest.markOver_state {x : Nest} (h : x.markOver = true) : x.state = .marking := by
  simp only [Nest.markOver, Bool.and_eq_true, decide_eq_true_eq] at h
  exact h.1.1

theorem Device.locking_some {d : Device} {n : NestId} {x : PlanHeader × Nat} (h : d.locking n = some x) :
    (d.nest n).state = .levelLock ∧ ∃ r, (d.nest n).record = some r := by
  simp only [Device.locking] at h
  split at h
  · rename_i hs _ hr; exact ⟨hs, _, hr⟩
  · cases h

theorem Device.quietUnit_some {d : Device} {n : NestId} {sub : SubStage} {r : UnitRecord}
    (h : d.quietUnit n sub = some r) : (d.nest n).state = .quietCheck ∧ (d.nest n).record = some r ∧ r.sub = sub := by
  simp only [Device.quietUnit] at h
  split at h
  · rename_i r' hs hr
    split at h
    · rename_i hx
      cases h
      exact ⟨hs, hr, hx⟩
    · cases h
  · cases h

theorem Device.sweepingUnit_some {d : Device} {n : NestId} {r : UnitRecord} (h : d.sweepingUnit n = some r) :
    (d.nest n).state = .sweeping ∧ (d.nest n).record = some r := by
  simp only [Device.sweepingUnit] at h
  split at h
  · rename_i hs _ hr
    cases h
    exact ⟨hs, hr⟩
  · cases h

theorem execSettleEnd_turns (c : Instr) (n : NestId) (s : State) : Turns c s (execSettleEnd n s) := by
  refine .due fun h => ?_
  have hs := Nest.settleOver_state h
  have h0 : Runs s.dev (s.dev.modNest n fun x => { x with settling := none }) := .setNest_of_same rfl rfl rfl rfl
  exact h0.trans (.enterLevelLock_of_clamping (by simpa [Device.modNest_eq] using hs))

theorem execLockIntervalEnd_turns (c : Instr) (n : NestId) (a b : Nat) (s : State) :
    Turns c s (execLockIntervalEnd n a b s) := by
  simp only [execLockIntervalEnd]
  split
  · exact .same c s
  · rename_i hl
    obtain ⟨hs, r, hr⟩ := Device.locking_some hl
    exact .due fun _ => .lockInterval hs hr _

theorem execLockTimeout_turns (c : Instr) (n : NestId) (s : State) : Turns c s (execLockTimeout n s) := by
  simp only [execLockTimeout]
  split
  · exact .same c s
  · rename_i hl
    obtain ⟨hs, _⟩ := Device.locking_some hl
    exact .due fun _ => .failStage (by rw [hs]; rfl) _ _

theorem execQuietWindowClose_turns (c : Instr) (n : NestId) (a : Nat) (s : State) :
    Turns c s (execQuietWindowClose n a s) := by
  simp only [execQuietWindowClose]
  split
  · exact .same c s
  · rename_i hq
    obtain ⟨hs, hr, _⟩ := Device.quietUnit_some hq
    exact .due fun _ => .quietClose hs hr

theorem execQuietRetryWaitEnd_turns (c : Instr) (n : NestId) (s : State) : Turns c s (execQuietRetryWaitEnd n s) := by
  simp only [execQuietRetryWaitEnd]
  split
  · exact .same c s
  · rename_i hq
    obtain ⟨hs, hr, hx⟩ := Device.quietUnit_some hq
    exact .due fun _ => .presentAgain hs hr hx

theorem State.acceptWindow_rest (s : State) (n : NestId) (r : UnitRecord) (m : Measures) :
    (s.acceptWindow n r m).pending = s.pending ∧ (s.acceptWindow n r m).mgmt = s.mgmt := by
  simp only [State.acceptWindow]
  split <;> exact ⟨rfl, rfl⟩

theorem State.closeWindow_rest (s : State) (n : NestId) (r : UnitRecord) (m : Measures) :
    (s.closeWindow n r m).pending = s.pending ∧ (s.closeWindow n r m).mgmt = s.mgmt := by
  simp only [State.closeWindow]
  split
  · exact ⟨rfl, rfl⟩
  · split
    · exact ⟨rfl, rfl⟩
    · exact State.acceptWindow_rest { s with dev := _ } n r m

/-- The samples that a closing window writes are those of its block claim (R141). -/
theorem State.closeWindow_samples (s : State) (n : NestId) (r : UnitRecord) (m : Measures) :
    (s.closeWindow n r m).samples = s.samples
    ∨ ∃ (limit : Nat) (x : Recording) (xs : List Sample), x.samples = s.samples
        ∧ (s.closeWindow n r m).samples = (recordWindow limit x xs).samples := by
  have accept : ∀ s' : State, s'.samples = s.samples → (s'.acceptWindow n r m).samples = s.samples
      ∨ ∃ (limit : Nat) (x : Recording) (xs : List Sample), x.samples = s.samples
          ∧ (s'.acceptWindow n r m).samples = (recordWindow limit x xs).samples := fun s' hs => by
    simp only [State.acceptWindow]
    split
    · exact Or.inr ⟨_, _, _, hs, rfl⟩
    · exact Or.inl hs
  simp only [State.closeWindow]
  split
  · exact Or.inl rfl
  · split
    · exact Or.inl rfl
    · exact accept _ rfl

theorem execWindowClose_turns (n : NestId) (m : Measures) (s : State) :
    Turns (.windowClose n m) s (execWindowClose n m s) := by
  simp only [execWindowClose]
  split
  · exact .same _ s
  · rename_i r hw
    obtain ⟨hs, hr⟩ := Device.sweepingUnit_some hw
    split
    · obtain ⟨h1, h2⟩ := s.closeWindow_rest n r m
      have hl : Link s (s.closeWindow n r m) := ⟨h1, by rw [h2]; exact .refl _, .closeWindow hs hr m⟩
      rcases s.closeWindow_samples n r m with h | ⟨limit, x, xs, hx, h⟩
      · exact .of_turn (.plain hl h)
      · exact .of_turn (.window n m rfl limit x xs hl hx h)
    · exact .same _ s

theorem execSegmentEnd_turns (c : Instr) (n : NestId) (s : State) : Turns c s (execSegmentEnd n s) := by
  simp only [execSegmentEnd]
  split
  · exact .same c s
  · rename_i hw
    obtain ⟨hs, hr⟩ := Device.sweepingUnit_some hw
    exact .due fun _ => .endSegment hs hr

theorem execJudgeComplete_turns (c : Instr) (n : NestId) (s : State) : Turns c s (execJudgeComplete n s) := by
  simp only [execJudgeComplete]
  split
  · rename_i r hs hr
    have h0 := Runs.addHistory s.dev n .judged
    have hs' : ((s.dev.addHistory n .judged).nest n).state = .judging := by simpa [Device.addHistory_eq] using hs
    have hr' : ((s.dev.addHistory n .judged).nest n).record = some r := by simpa [Device.addHistory_eq] using hr
    split
    · exact .dev (h0.trans (.goldenComplete hs' hr' ⟨rfl, rfl, rfl⟩))
    all_goals
      split
      · rintro _ ⟨⟩
      · exact .dev (h0.trans (Runs.actOnEntry (r := (s.dev.addHistory n .judged).judgedRecord r) hs' hr'
          ⟨rfl, rfl, rfl⟩ _ _))
  · exact .same c s

/-! ### The commands -/

theorem Device.nestStart_acts (f : StartFields) (d : Device) : (d.nestStart f).Acts d := by
  simp only [Device.nestStart]
  split
  · split
    · simp only [Device.startCommand]
      split
      · rename_i hb
        obtain ⟨hs, hb⟩ := Device.startCheck_inv hb
        exact .ok (.startUnit hs hb _ _ _ _)
      · exact .refuse d _
    · exact .refuse d _
  · exact .refuse d _

theorem execStatusRead_turns (c : Instr) (tag : Byte) (clear : Option Bool) (s : State) :
    Turns c s (execStatusRead tag clear s) := by
  refine .command ?_
  split
  · exact .refuse _ _
  · refine .ok ?_
    split
    · exact .clearHistories _
    · exact .refl _

theorem execNestAbort_turns (c : Instr) (tag nest : Byte) (s : State) : Turns c s (execNestAbort tag nest s) := by
  refine .command ?_
  split
  · exact .refuse _ _
  · exact .ok (.abortNest _ _)

theorem execNestGate_turns (c : Instr) (tag nest : Byte) (gate : Option GateArg) (auto : Option AutoArg) (s : State) :
    Turns c s (execNestGate tag nest gate auto s) := by
  refine .command ?_
  split
  · exact .ok (.setGate _ _ _ _)
  · exact .refuse _ _

theorem execUnitRead_turns (c : Instr) (tag nest : Byte) (clear : Option Bool) (page : Byte) (s : State) :
    Turns c s (execUnitRead tag nest clear page s) := by
  refine .command ?_
  split
  · split
    · refine .ok ?_
      split
      · exact .setNest_of_same rfl rfl rfl rfl
      · exact .refl _
    · exact .refuse _ _
  · exact .refuse _ _

theorem execLoopback_turns (c : Instr) (tag nest : Byte) (on : Option Bool) (s : State) :
    Turns c s (execLoopback tag nest on s) := by
  refine .command ?_
  split
  · split
    · rename_i hs
      refine .ok ?_
      split
      · exact .loopbackOn hs
      · exact .loopbackOff hs
    · exact .refuse _ _
  · exact .refuse _ _

theorem execPassThrough_turns (c : Instr) (tag nest : Byte) (source : Option PassArg) (s : State) :
    Turns c s (execPassThrough tag nest source s) := by
  refine .command ?_
  split
  · split
    · rename_i h
      simp only [Bool.and_eq_true] at h
      exact .ok (.pass h.1 _)
    · exact .refuse _ _
  · exact .ok (.endPass _ _)
  · exact .refuse _ _

theorem execMonitorSelect_turns (c : Instr) (tag : Byte) (first second : Option MonitorSel) (s : State) :
    Turns c s (execMonitorSelect tag first second s) := by
  refine .command ?_
  split
  · exact .ok (.of_same rfl rfl)
  · exact .refuse _ _

theorem execGroupMapWrite_turns (c : Instr) (tag : Byte) (groups : Vector Byte 4) (thresholds : Vector Int 2)
    (s : State) : Turns c s (execGroupMapWrite tag groups thresholds s) := by
  refine .command ?_
  split
  · exact .refuse _ _
  · split
    · exact .refuse _ _
    · rename_i h
      exact .ok (.setGroups (by simpa using h) _ _)

theorem execRingRead_turns (c : Instr) (tag start count : Byte) (s : State) :
    Turns c s (execRingRead tag start count s) := by
  refine .command ?_
  split
  · exact .refuse _ _
  · split
    · split
      · exact .ok (.refl _)
      · exact .refuse _ _
    · exact .refuse _ _

theorem execRingReturn_turns (c : Instr) (tag index : Byte) (s : State) : Turns c s (execRingReturn tag index s) := by
  refine .command ?_
  split
  · exact .refuse _ _
  · rename_i i _
    split
    · exact .refuse _ _
    · rename_i h
      have hi : s.dev.labels.ring[i].isSome = true := by
        cases he : s.dev.labels.ring[i] with
        | none => rw [he] at h; exact absurd rfl h
        | some _ => rfl
      exact .ok ((Runs.returnEntries hi).trans (.grantEntries _ _))

theorem execCaptureFetch_turns (c : Instr) (tag : Byte) (label : Word32) (block chunk : Byte) (s : State) :
    Turns c s (execCaptureFetch tag label block chunk s) := by
  refine .command ?_
  split
  · exact .refuse _ _
  · split
    · exact .refuse _ _
    · split
      · exact .ok (.refl _)
      · exact .refuse _ _

theorem execCaptureRelease_turns (c : Instr) (tag : Byte) (label : Word32) (s : State) :
    Turns c s (execCaptureRelease tag label s) := by
  refine .command ?_
  split
  · exact .refuse _ _
  · rename_i h
    exact .ok (.releaseChain h)

theorem execCounterSnapshot_turns (c : Instr) (tag : Byte) (no : Bool) (s : State) :
    Turns c s (execCounterSnapshot tag no s) := by
  refine .command ?_
  split
  · exact .ok (.takeSnapshot _)
  · exact .refuse _ _

theorem execCounterRead_turns (c : Instr) (tag nest page : Byte) (s : State) :
    Turns c s (execCounterRead tag nest page s) := by
  refine .command ?_
  split
  · exact .refuse _ _
  · split
    · exact .ok (.refl _)
    · exact .refuse _ _

theorem execCorrectionRead_turns (c : Instr) (tag nest plan : Byte) (s : State) :
    Turns c s (execCorrectionRead tag nest plan s) := by
  refine .command ?_
  split
  · exact .ok (.refl _)
  · exact .refuse _ _

theorem execCorrectionClear_turns (c : Instr) (tag nest plan : Byte) (s : State) :
    Turns c s (execCorrectionClear tag nest plan s) := by
  refine .command ?_
  split
  · split
    · exact .refuse _ _
    · exact .ok (.replaceCal _ _ _ _ _)
  · exact .refuse _ _

theorem execDriftSettingsWrite_turns (c : Instr) (tag : Byte) (nests : Option DriftSel) (length limit : Option Nat)
    (s : State) : Turns c s (execDriftSettingsWrite tag nests length limit s) := by
  refine .command ?_
  split
  · exact .refuse _ _
  · split
    · exact .ok (.of_same rfl rfl)
    · exact .refuse _ _

theorem execNoticeConfig_turns (c : Instr) (tag : Byte) (priorities : Vector (Option Byte) 9) (count : Option Byte)
    (time : Option Word16) (threshold : Option Byte) (s : State) :
    Turns c s (execNoticeConfig tag priorities count time threshold s) := by
  refine .command ?_
  split
  · exact .ok (.noticeConfig _ _ _ _ _)
  · exact .refuse _ _

theorem execFixtureMapWrite_turns (c : Instr) (tag nest : Byte) (fields : MapFields) (order : List DueItem)
    (s : State) : Turns c s (execFixtureMapWrite tag nest fields order s) := by
  refine .command ?_
  split
  · exact .refuse _ _
  · split
    · exact .refuse _ _
    · split
      · exact .refuse _ _
      · exact .ok (.mapWrite _ _ _ _)

theorem execBankCopyComplete_turns (c : Instr) (s : State) : Turns c s (execBankCopyComplete s) := by
  simp only [execBankCopyComplete]
  split
  · rename_i ho _ _
    exact .of_turn (.completes _ _ _ (.finishCopy ho _ _) (by rw [ho]; simp) rfl rfl)
  · exact .same c s

theorem execVerificationComplete_turns (c : Instr) (s : State) : Turns c s (execVerificationComplete s) := by
  simp only [execVerificationComplete]
  split
  · rename_i ho hb
    split
    · exact .of_turn (.completes _ _ _ (.verified hb ho) (by rw [ho]; simp) rfl rfl)
    · exact .of_turn (.completes _ _ _ (.notVerified hb ho _) (by rw [ho]; simp) rfl rfl)
  · exact .same c s

theorem execLinkReset_turns (c : Instr) (tag : Byte) (confirm : Option Byte) (order : List NestId) (s : State) :
    Turns c s (execLinkReset tag confirm order s) := by
  simp only [execLinkReset]
  split
  · exact .same c s
  · rename_i hq
    split
    · exact .of_turn (.linkReset tag order (by rw [hq]; simp) rfl)
    · exact .command (.refuse _ _)

/-- Every row is one of these turns. -/
theorem exec_turns (c : Instr) (s : State) : Turns c s (exec c s) := by
  cases c with
  | powerOnReset => exact .of_turn (.reset rfl rfl)
  | nestLinkFrame frame =>
    show Turns _ s (.next (if s.dev.frameDue then s else { s with dev := s.dev.nestFrame frame }))
    split
    · exact .same _ s
    · exact .dev (.nestFrame _ _)
  | nestLinkLocked => exact .due fun _ => .of_same rfl rfl
  | nestLinkLoss order =>
    have hport : Runs s.dev ((({ s.dev with nestPort := { s.dev.nestPort with
        locked := false, received := 0 } } : Device).clearCounts).raise linkSource) := .of_same rfl rfl
    exact .due fun _ => hport.trans (.foldl _ (fun e n => .linkLossNest e n) (nestOrder order) _)
  | controllerLinkFrame frame => exact execControllerLinkFrame_turns _ frame s
  | controllerLinkLocked =>
    show Turns _ s (.next (if _ then _ else s))
    split
    · exact .of_turn (.plain ⟨rfl, .of_same rfl rfl rfl, .of_same rfl rfl⟩ rfl)
    · exact .same _ s
  | controllerLinkHoldover => exact execControllerLinkHoldover_turns _ s
  | messageReceived => exact execMessageReceived_turns _ s
  | messageChoice => exact execMessageChoice_turns _ s
  | messageSent => exact execMessageSent_turns _ s
  | unknownType tag type => exact execUnknownType_turns _ tag type s
  | statusRead tag historyClear => exact execStatusRead_turns _ tag historyClear s
  | versionRead tag => exact .command (.ok (.refl _))
  | nestStart tag fields => exact .command (s.dev.nestStart_acts fields)
  | nestAbort tag nest => exact execNestAbort_turns _ tag nest s
  | nestGate tag nest gate auto => exact execNestGate_turns _ tag nest gate auto s
  | unitRead tag nest clear page => exact execUnitRead_turns _ tag nest clear page s
  | loopback tag nest on => exact execLoopback_turns _ tag nest on s
  | passThrough tag nest source => exact execPassThrough_turns _ tag nest source s
  | monitorSelect tag first second => exact execMonitorSelect_turns _ tag first second s
  | ringRead tag start count => exact execRingRead_turns _ tag start count s
  | ringReturn tag index => exact execRingReturn_turns _ tag index s
  | captureFetch tag label block chunk => exact execCaptureFetch_turns _ tag label block chunk s
  | captureRelease tag label => exact execCaptureRelease_turns _ tag label s
  | tableWrite tag kind plan row codes => exact .command (Device.tableWrite_acts kind plan row _ s.dev)
  | tableCommit tag body => exact .command (Device.tableCommit_acts body s.dev)
  | bankCopy tag => exact .command s.dev.bankCopy_acts
  | bankSwitch tag => exact .command s.dev.bankSwitch_acts
  | loadStatusClear tag => exact .command (.ok (.of_same rfl rfl))
  | counterSnapshot tag flagIsNo => exact execCounterSnapshot_turns _ tag flagIsNo s
  | counterSnapshotClear tag => exact .command (.ok (.snapshotClear _))
  | counterRead tag nest page => exact execCounterRead_turns _ tag nest page s
  | correctionRead tag nest plan => exact execCorrectionRead_turns _ tag nest plan s
  | correctionClear tag nest plan => exact execCorrectionClear_turns _ tag nest plan s
  | fixtureSet tag outputs => exact .command (.ok (.of_same rfl rfl))
  | fixtureClear tag outputs => exact .command (.ok (.of_same rfl rfl))
  | fixtureMapWrite tag nest fields order => exact execFixtureMapWrite_turns _ tag nest fields order s
  | groupMapWrite tag groups thresholds => exact execGroupMapWrite_turns _ tag groups thresholds s
  | driftSettingsWrite tag nests length limit => exact execDriftSettingsWrite_turns _ tag nests length limit s
  | noticeConfig tag priorities count time threshold =>
    exact execNoticeConfig_turns _ tag priorities count time threshold s
  | linkReset tag confirm order => exact execLinkReset_turns _ tag confirm order s
  | inputChangeTaken nest line => exact .due fun _ => .takeLevel _ nest line
  | settleEnd nest => exact execSettleEnd_turns _ nest s
  | clampTimeout nest => exact .due fun h => .earlyEnd (by rw [Device.clampExpired_state h]; rfl) _
  | releaseTimeout nest => exact .due fun h => .releaseTimeout (Device.releaseExpired_state h)
  | lockIntervalEnd nest tryNumber interval => exact execLockIntervalEnd_turns _ nest tryNumber interval s
  | lockTimeout nest => exact execLockTimeout_turns _ nest s
  | quietWindowClose nest attempt => exact execQuietWindowClose_turns _ nest attempt s
  | quietRetryWaitEnd nest => exact execQuietRetryWaitEnd_turns _ nest s
  | windowClose nest measures => exact execWindowClose_turns nest measures s
  | segmentEnd nest => exact execSegmentEnd_turns _ nest s
  | judgeComplete nest => exact execJudgeComplete_turns _ nest s
  | markPulseEnd nest => exact .due fun h => .exitTest_of_marking (Nest.markOver_state h)
  | bankCopyComplete => exact execBankCopyComplete_turns _ s
  | verificationComplete => exact execVerificationComplete_turns _ s
  | coalescingTimerExpiry => exact .due fun _ => .of_same rfl rfl
  | autoStartAfterReset => exact .dev (.foldl _ (fun e n => .autoStartOwed e n) _ _)

end Sys2Proof.Machine

namespace Sys2Proof.Machine

/-! ## The invariants of a row -/

/-- What steps and operations keep of the accounts, every row keeps; power-on reset gives it anew. -/
theorem Turn.accounts {P : Accounts → Prop} (hsteps : ∀ {a b}, P a → a.Step b → P b)
    (hoperate : ∀ {a b}, P a → a.Operate b → P b) (hreset : P State.reset.dev.accounts) {c : Instr} {s t : State}
    (h : Turn c s t) (hs : P s.dev.accounts) : P t.dev.accounts := by
  have runs : ∀ {d e : Device}, Runs d e → P d.accounts → P e.accounts := fun h k =>
    Accounts.Steps.keeps (fun _ _ => hsteps) h.accounts k
  cases h with
  | reset hc ht => subst ht; exact hreset
  | plain h _ => exact runs h.runs hs
  | window _ _ _ _ _ _ h _ _ => exact runs h.runs hs
  | command tag type a hq ha ht =>
    subst ht
    show P a.dev.accounts
    obtain ⟨d, reply⟩ := a
    cases reply with
    | some _ => exact runs ha hs
    | none => exact hoperate hs ha.1.accounts
  | completes d st data hd ho hn ht =>
    subst ht
    have he : (State.releaseHeld { s with dev := d } st data).dev = d := by
      simp only [State.releaseHeld]; split <;> rfl
    rw [he]
    exact hoperate hs hd.accounts
  | linkReset tag order hq ht =>
    subst ht
    obtain ⟨e, he, ho⟩ := s.dropPartMessage.dev.linkReset_turns order
    exact hoperate (runs he (runs s.dropPartMessage_link.1.runs hs)) ho.accounts

/-- The arbiters of a row, likewise, with the units whole. -/
theorem Turn.arbiters {c : Instr} {s t : State} (h : Turn c s t) (hu : s.dev.accounts.Units)
    (hk : s.dev.arbiters.Kept) (hreset : State.reset.dev.arbiters.Kept) : t.dev.arbiters.Kept := by
  have runs : ∀ {d e : Device}, Runs d e → d.accounts.Units → d.arbiters.Kept → e.accounts.Units ∧ e.arbiters.Kept :=
    fun h u k => ⟨h.accounts.units u, (h.arbiters u k).kept k⟩
  cases h with
  | reset hc ht => subst ht; exact hreset
  | plain h _ => exact (runs h.runs hu hk).2
  | window _ _ _ _ _ _ h _ _ => exact (runs h.runs hu hk).2
  | command tag type a hq ha ht =>
    subst ht
    show a.dev.arbiters.Kept
    obtain ⟨d, reply⟩ := a
    cases reply with
    | some _ => exact (runs ha hu hk).2
    | none => rw [ha.1.arbiters]; exact hk
  | completes d st data hd ho hn ht =>
    subst ht
    have he : (State.releaseHeld { s with dev := d } st data).dev = d := by
      simp only [State.releaseHeld]; split <;> rfl
    rw [he, hd.arbiters]
    exact hk
  | linkReset tag order hq ht =>
    subst ht
    obtain ⟨e, he, ho⟩ := s.dropPartMessage.dev.linkReset_turns order
    obtain ⟨u1, k1⟩ := runs s.dropPartMessage_link.1.runs hu hk
    show (s.dropPartMessage.dev.linkReset order).arbiters.Kept
    rw [ho.arbiters]
    exact (runs he u1 k1).2

/-- No row changes the rows that wait (log 1). -/
theorem Turn.pending {c : Instr} {s t : State} (h : Turn c s t) : t.pending = s.pending := by
  cases h with
  | reset hc ht => rw [ht]
  | plain h _ => exact h.pending
  | window _ _ _ _ _ _ h _ _ => exact h.pending
  | command tag type a hq ha ht => rw [ht]; rfl
  | completes d st data hd ho hn ht =>
    rw [ht]
    simp only [State.releaseHeld]
    split <;> rfl
  | linkReset tag order hq ht => rw [ht]; exact s.dropPartMessage_link.1.pending

/-- No sample is written but by the closing of a window and power-on reset (R141). -/
theorem Turn.samples {c : Instr} {s t : State} (h : Turn c s t) :
    t.samples = s.samples ∨ c = .powerOnReset ∧ t.samples = State.reset.samples
    ∨ (∃ n m, c = .windowClose n m) ∧ ∃ (limit : Nat) (r : Recording) (xs : List Sample),
        r.samples = s.samples ∧ t.samples = (recordWindow limit r xs).samples := by
  cases h with
  | reset hc ht => exact Or.inr (Or.inl ⟨hc, by rw [ht]⟩)
  | plain _ hs => exact Or.inl hs
  | window n m hc limit r xs _ hr hs => exact Or.inr (Or.inr ⟨⟨n, m, hc⟩, limit, r, xs, hr, hs⟩)
  | command tag type a hq ha ht => exact Or.inl (by rw [ht]; rfl)
  | completes d st data hd ho hn ht =>
    refine Or.inl ?_
    rw [ht]
    simp only [State.releaseHeld]
    split <;> rfl
  | linkReset tag order hq ht => exact Or.inl (by rw [ht]; exact s.dropPartMessage_link.2)

/-- A step is the turn of the row at the front of the queue, or idles (log 1). -/
theorem step_turn {s t : State} (h : step s = .next t) : t = s ∨ ∃ c rest, Turn c { s with pending := rest } t := by
  simp only [step] at h
  split at h
  · cases h; exact Or.inl rfl
  · rename_i c rest _
    exact Or.inr ⟨c, rest, exec_turns c _ t h⟩

/-! ### The state after power-on reset (R31) -/

theorem reset_nest (n : NestId) : State.reset.dev.nest n = State.reset.dev.nest 0 := by
  revert n; decide

theorem reset_units : State.reset.dev.accounts.Units := by
  refine ⟨fun n => ?_, fun n hn => ?_, by decide, fun n hn => ?_⟩
  · rw [Device.accounts_unit, Device.accounts_state, reset_nest]; rfl
  · have : State.reset.dev.accounts.mark n = false := by
      show (State.reset.dev.nest n).markClaim = false
      rw [reset_nest]; rfl
    rw [this] at hn; cases hn
  · cases hn

theorem reset_contiguous : State.reset.dev.accounts.labels.Contiguous := by
  have hring : ∀ i : EntryId, State.reset.dev.accounts.labels.ring[i] = none := fun i =>
    Vector.getElem_replicate i.isLt
  refine ⟨by decide, by decide, fun i => ?_, fun i e he => ?_⟩
  · rw [hring]; exact (decide_eq_false (Nat.not_lt_zero _)).symm
  · rw [hring] at he; cases he

theorem reset_yields : State.reset.dev.accounts.Yields := by
  rw [← yieldsKept_iff]
  refine ⟨(unitsKept_iff _).mpr reset_units, fun n => ?_⟩
  unfold Counters.Sums
  revert n
  decide

theorem reset_pins : State.reset.dev.accounts.Pins := by
  rw [← pinsKept_iff]
  refine ⟨(unitsKept_iff _).mpr reset_units, fun b => ?_, fun w hw => ?_⟩
  · revert b; intro b; cases b <;> decide
  · cases hw

theorem reset_arbiters : State.reset.dev.arbiters.Kept := by
  have hsub : ∀ n, State.reset.dev.arbiters.sub n = none := fun n => by
    rw [Device.arbiters_sub, reset_nest]; rfl
  have hmode : ∀ n, State.reset.dev.arbiters.mode n = .silent := fun n => by
    rw [Device.arbiters_mode, reset_nest]; rfl
  have hgroup : ∀ g, State.reset.dev.arbiters.holder g = none ∧ State.reset.dev.arbiters.queue g = []
      ∧ ∀ n, State.reset.dev.arbiters.loud g n = false := by decide
  refine ⟨fun n x hx => ?_, fun n => ?_, fun g n hx => ?_, fun g => ?_, fun g n => ?_, fun g n hx => ?_, fun n hx => ?_⟩
  · rw [hsub] at hx; cases hx
  · rw [hmode]; trivial
  · rw [(hgroup g).1] at hx; cases hx
  · rw [(hgroup g).2.1]; exact List.nodup_nil
  · rw [(hgroup g).2.1, hsub]; simp
  · rw [(hgroup g).2.2 n] at hx; cases hx
  · rw [hsub] at hx; cases hx

theorem reset_pool : State.reset.dev.accounts.Pool := by
  have hring : ∀ i : EntryId, State.reset.dev.labels.ring[i] = none := fun i => Vector.getElem_replicate i.isLt
  have hrec : ∀ n, (State.reset.dev.nest n).record = none := fun n => by rw [reset_nest]; rfl
  rw [← poolKept_iff]
  refine ⟨(unitsKept_iff _).mpr reset_units, reset_contiguous, fun b => ?_, fun n r _ hr => ?_⟩
  · have hblocks : State.reset.dev.allBlocks = List.finRange 64 := by
      have h1 : ((List.finRange 4).flatMap fun n =>
          ((State.reset.dev.nest n).record.map fun r => r.chain.blocks).getD []) = [] := by
        simp [hrec]
      have h2 : ((List.finRange 64).flatMap fun i : EntryId => entryBlocks State.reset.dev.labels.ring[i]) = [] := by
        refine List.flatMap_eq_nil_iff.mpr fun i _ => ?_
        rw [hring]; rfl
      simp only [Device.allBlocks, h1, h2, List.append_nil]
      rfl
    rw [hblocks]
    exact List.count_eq_one_of_mem (List.nodup_finRange 64) (List.mem_finRange b)
  · rw [hrec] at hr; cases hr

theorem reset_credit : CreditKept State.reset := by
  refine ⟨by decide, by decide, by decide, fun w hw => ?_⟩
  cases hw

/-- Settles O12. -/
theorem resetSatisfiesInvariants : Obligations.ResetSatisfiesInvariants :=
  ⟨rfl, reset_credit, (yieldsKept_iff _).mpr reset_yields, reset_contiguous, (pinsKept_iff _).mpr reset_pins,
    (arbitersKept_iff _).mpr ⟨(unitsKept_iff _).mpr reset_units, reset_arbiters⟩, (poolKept_iff _).mpr reset_pool⟩

/-! ### The steps keep the invariants -/

/-- An invariant of the accounts that steps and operations keep is kept by every step of the part. -/
theorem step_keeps_accounts {P : Accounts → Prop} (hsteps : ∀ {a b}, P a → a.Step b → P b)
    (hoperate : ∀ {a b}, P a → a.Operate b → P b) (hreset : P State.reset.dev.accounts) {s t : State}
    (hs : P s.dev.accounts) (h : step s = .next t) : P t.dev.accounts := by
  rcases step_turn h with rfl | ⟨c, rest, ht⟩
  · exact hs
  · exact ht.accounts hsteps hoperate hreset hs

/-- Settles O9, by `Accounts.Step.yields`. -/
theorem stepKeepsYieldRelations : Obligations.StepKeepsYieldRelations := fun s t hs h =>
  (yieldsKept_iff t).mpr (step_keeps_accounts (P := Accounts.Yields) Accounts.Step.yields Accounts.Operate.yields
    reset_yields ((yieldsKept_iff s).mp hs) h)

/-- Settles O10, by `Accounts.Step.contiguous`. -/
theorem stepKeepsRing : Obligations.StepKeepsRing := fun _ _ hs h =>
  step_keeps_accounts (P := fun a => a.labels.Contiguous) Accounts.Step.contiguous Accounts.Operate.contiguous
    reset_contiguous hs h

/-- Settles O11, by `Accounts.Step.pins`. -/
theorem stepKeepsPins : Obligations.StepKeepsPins := fun s t hs h =>
  (pinsKept_iff t).mpr (step_keeps_accounts (P := Accounts.Pins) Accounts.Step.pins Accounts.Operate.pins reset_pins
    ((pinsKept_iff s).mp hs) h)

/-- Settles O6, by `Accounts.Step.pool`. -/
theorem stepKeepsPool : Obligations.StepKeepsPool := fun s t hs h =>
  (poolKept_iff t).mpr (step_keeps_accounts (P := Accounts.Pool) Accounts.Step.pool Accounts.Operate.pool reset_pool
    ((poolKept_iff s).mp hs) h)

/-- Settles O3, by `Arbiters.Step.kept`. -/
theorem stepKeepsArbiters : Obligations.StepKeepsArbiters := fun s t hs h => by
  obtain ⟨hu, hk⟩ := (arbitersKept_iff s).mp hs
  have hu' := (unitsKept_iff s.dev).mp hu
  refine (arbitersKept_iff t).mpr ⟨(unitsKept_iff t.dev).mpr ?_, ?_⟩
  · exact step_keeps_accounts (P := Accounts.Units) Accounts.Step.units Accounts.Operate.units reset_units hu' h
  · rcases step_turn h with rfl | ⟨c, rest, ht⟩
    · exact hk
    · exact ht.arbiters hu' hk reset_arbiters

/-- Settles O7: samples are written by block claims alone (`Turn.samples`), which keep the canonical form. -/
theorem stepKeepsMemoryCanonical : Obligations.StepKeepsMemoryCanonical := fun s t hs h => by
  rcases step_turn h with rfl | ⟨c, rest, ht⟩
  · exact hs
  · rcases ht.samples with he | ⟨_, he⟩ | ⟨_, limit, r, xs, hr, he⟩
    · show Memory.wf t.samples = true
      rw [he]; exact hs
    · show Memory.wf t.samples = true
      rw [he]; rfl
    · show Memory.wf t.samples = true
      rw [he]
      refine recordWindow_wf limit r xs ?_
      rw [hr]; exact hs

/-! ### The credit (R183, R184) -/

/-- The credit of a command that is answered, or whose reply is held. -/
theorem State.answered_unanswered {s : State} (hq : s.mgmt.queue ≠ []) (tag type : Byte) (a : Answer)
    (hh : a.reply = none → s.mgmt.held = none) :
    (s.answered tag type a).mgmt.unanswered = s.mgmt.unanswered := by
  obtain ⟨c, rest, hc⟩ := List.exists_cons_of_ne_nil hq
  obtain ⟨d, reply⟩ := a
  cases reply with
  | some r => simp [State.answered, Management.unanswered, hc]; omega
  | none => simp [State.answered, Management.unanswered, hc, hh rfl]; omega

/-- While an operation begins, none was in flight: a commit in flight has its bank VERIFYING (R158). -/
theorem Accounts.Operate.none_before {a b : Accounts} (h : a.Operate b) (hc : a.Committed) (hb : b.operation ≠ .none) :
    a.operation = .none := by
  cases h with
  | copy b hsb ho => exact ho
  | copied ho => exact absurd rfl hb
  | commit b w hsb hs ho =>
    cases hop : a.operation with
    | none => rfl
    | copy => exact absurd hop ho
    | commit v =>
      obtain ⟨c, hsc, hv⟩ := hc v hop
      rw [hsb, Option.some.injEq] at hsc
      subst hsc
      rw [hs] at hv; cases hv
  | verified b w st hsb ho => exact absurd rfl hb
  | abandon => exact absurd rfl hb

/-- The credit relations of a state, with the operation in flight read from the accounts. -/
structure Credited (m : Management) (a : Accounts) : Prop where
  balance : m.credit = m.unanswered
  bound : m.credit ≤ 8
  held : m.held.isSome = true ↔ a.operation ≠ .none
  committed : a.Committed

theorem creditKept_iff (s : State) : CreditKept s ↔ Credited s.mgmt s.dev.accounts := by
  have hc : s.dev.accounts.Committed ↔ ∀ w, s.dev.tables.operation = .commit w →
      ∃ b, s.dev.tables.standby = some b ∧ (s.dev.tables.bank b).state = .verifying := by
    simp only [Accounts.Committed, Device.accounts_standby]
    rfl
  constructor
  · rintro ⟨h1, h2, h3, h4⟩; exact ⟨h1, h2, h3, hc.mpr h4⟩
  · rintro ⟨h1, h2, h3, h4⟩; exact ⟨h1, h2, h3, hc.mp h4⟩

theorem Credited.link {s t : State} (h : Credited s.mgmt s.dev.accounts) (k : Link s t) :
    Credited t.mgmt t.dev.accounts := by
  obtain ⟨h1, h2⟩ := k.mgmt.credit h.balance h.bound
  refine ⟨h1, h2, ?_, k.runs.accounts.keeps (fun _ _ hc hs => hs.committed hc) h.committed⟩
  rw [k.mgmt.held, k.runs.accounts.operation]
  exact h.held

theorem Credited.answered {s : State} (h : Credited s.mgmt s.dev.accounts) (hq : s.mgmt.queue ≠ []) (tag type : Byte)
    {a : Answer} (ha : a.Acts s.dev) : Credited (s.answered tag type a).mgmt (s.answered tag type a).dev.accounts := by
  obtain ⟨d, reply⟩ := a
  cases reply with
  | some r =>
    have hu := State.answered_unanswered hq tag type { dev := d, reply := some r } (by simp)
    have hr : Runs s.dev d := ha
    refine ⟨by rw [hu]; exact h.balance, h.bound, ?_, hr.accounts.keeps (fun _ _ hc hs => hs.committed hc) h.committed⟩
    show s.mgmt.held.isSome = true ↔ d.accounts.operation ≠ .none
    rw [hr.accounts.operation]
    exact h.held
  | none =>
    have hop : s.dev.accounts.operation = .none := ha.1.accounts.none_before h.committed ha.2
    have hh : s.mgmt.held = none := by
      cases hm : s.mgmt.held with
      | none => rfl
      | some x => exact absurd hop (h.held.mp (by rw [hm]; rfl))
    have hu := State.answered_unanswered hq tag type { dev := d, reply := none } (fun _ => hh)
    exact ⟨by rw [hu]; exact h.balance, h.bound, ⟨fun _ => ha.2, fun _ => rfl⟩, ha.1.accounts.committed⟩

theorem Credited.completes {s : State} (h : Credited s.mgmt s.dev.accounts) {d : Device} (hd : Operates s.dev d)
    (ho : s.dev.tables.operation ≠ .none) (hn : d.tables.operation = .none) (st : Status) (data : ReplyData) :
    Credited (State.releaseHeld { s with dev := d } st data).mgmt
      (State.releaseHeld { s with dev := d } st data).dev.accounts := by
  obtain ⟨⟨tag, type⟩, hm⟩ := Option.isSome_iff_exists.mp (h.held.mpr ho)
  have hu : (State.releaseHeld { s with dev := d } st data).mgmt.unanswered = s.mgmt.unanswered := by
    simp [State.releaseHeld, Management.unanswered, hm]; omega
  have hc : (State.releaseHeld { s with dev := d } st data).mgmt.credit = s.mgmt.credit := by
    simp [State.releaseHeld, hm]
  have hh : (State.releaseHeld { s with dev := d } st data).mgmt.held = none := by simp [State.releaseHeld, hm]
  have he : (State.releaseHeld { s with dev := d } st data).dev = d := by simp [State.releaseHeld, hm]
  refine ⟨by rw [hu, hc]; exact h.balance, by rw [hc]; exact h.bound, ?_, by rw [he]; exact hd.accounts.committed⟩
  rw [hh, he]
  simp [hn]

/-- LINK RESET gives back the credit of what is lost, and the one command that is answered keeps its own (R186). -/
theorem Credited.linkReset {s : State} (h : Credited s.mgmt s.dev.accounts) (hq : s.mgmt.queue ≠ []) (tag : Byte)
    (order : List NestId) : Credited (s.linkReset tag order).mgmt (s.linkReset tag order).dev.accounts := by
  obtain ⟨c, rest, hc⟩ := List.exists_cons_of_ne_nil hq
  have hdrop : s.dropPartMessage.mgmt.credit = s.mgmt.credit ∧ s.dropPartMessage.mgmt.sending = s.mgmt.sending := by
    simp only [State.dropPartMessage]
    split <;> exact ⟨rfl, rfl⟩
  obtain ⟨e, _, ho⟩ := s.dropPartMessage.dev.linkReset_turns order
  have hbal := h.balance
  simp only [Management.unanswered, hc, List.length_cons] at hbal
  have hcredit : (s.linkReset tag order).mgmt.credit
      = s.mgmt.credit - (rest.length + s.mgmt.replies.length + if s.mgmt.held.isSome then 1 else 0) := by
    simp [State.linkReset, hdrop.1, hc]
  have hun : (s.linkReset tag order).mgmt.unanswered = 1 + if s.mgmt.sending.any Sending.isReply then 1 else 0 := by
    simp [State.linkReset, Management.unanswered, hdrop.2]
  refine ⟨?_, ?_, ?_, ho.accounts.committed⟩
  · rw [hcredit, hun]; omega
  · rw [hcredit]; have := h.bound; omega
  · have : (s.linkReset tag order).dev.accounts.operation = .none := rfl
    rw [this]
    simp [State.linkReset]

/-- Settles O8. -/
theorem stepKeepsCredit : Obligations.StepKeepsCredit := fun s t hs h => by
  rw [creditKept_iff] at hs ⊢
  rcases step_turn h with rfl | ⟨c, rest, ht⟩
  · exact hs
  · cases ht with
    | reset hc ht => rw [ht]; exact (creditKept_iff _).mp reset_credit
    | plain hl _ => exact Credited.link (s := { s with pending := rest }) hs hl
    | window _ _ _ _ _ _ hl _ _ => exact Credited.link (s := { s with pending := rest }) hs hl
    | command tag type a hq ha ht => rw [ht]; exact Credited.answered (s := { s with pending := rest }) hs hq tag type ha
    | completes d st data hd ho hn ht =>
      rw [ht]; exact Credited.completes (s := { s with pending := rest }) hs hd ho hn st data
    | linkReset tag order hq ht => rw [ht]; exact Credited.linkReset (s := { s with pending := rest }) hs hq tag order

/-! ## The step and its rows (log 1, log 20) -/

/-- Settles O1. -/
theorem stepRunsFrontRow : Obligations.StepRunsFrontRow := fun _ _ => rfl

/-- Settles O2: no word spells a row, and every row is a turn. -/
theorem queueOfRows : Obligations.QueueOfRows := by
  refine ⟨fun s hs => ?_, fun s nbits w => ?_, fun c s t h => (exec_turns c s t h).pending⟩
  · simp only [step, hs]
  · rfl

end Sys2Proof.Machine

namespace Sys2Proof.Machine

/-! ## Rows that stop, samples and the Management Interface (O4, O5) -/

/-- JUDGE_COMPLETE answers a next state, or stops where no verdict entry matches (R92; log 20). -/
theorem execJudgeComplete_cases (n : NestId) (s : State) :
    (∃ t, execJudgeComplete n s = .next t)
    ∨ ∃ r : UnitRecord, (s.dev.nest n).state = .judging ∧ (s.dev.nest n).record = some r ∧ r.role ≠ .golden
        ∧ (∀ i : Fin 16, ((s.dev.tables.bank r.bank).rows.verdicts[i]).accepts (judgedFailures (s.dev.planOf r) r)
            = false)
        ∧ execJudgeComplete n s = .fault .noMatchingVerdict := by
  simp only [execJudgeComplete]
  split
  · rename_i r hs hr
    split
    · exact Or.inl ⟨_, rfl⟩
    all_goals
      rename_i hrole
      split
      · rename_i hnone
        exact Or.inr ⟨r, hs, hr, by rw [hrole]; decide, selectEntry_none.mp hnone, rfl⟩
      · exact Or.inl ⟨_, rfl⟩
  · exact Or.inl ⟨_, rfl⟩

/-- Settles O4, by `execJudgeComplete_cases`. -/
theorem onlyUnmatchedJudgingStops : Obligations.OnlyUnmatchedJudgingStops := fun c s => by
  cases c with
  | judgeComplete n =>
    rcases execJudgeComplete_cases n s with h | ⟨r, hs, hr, hg, hv, h⟩
    · exact Or.inl h
    · exact Or.inr ⟨n, r, rfl, hs, hr, hg, hv, h⟩
  | _ => exact Or.inl ⟨_, rfl⟩

/-- A row that answers a next state leaves the Management Interface as it is. -/
def KeepsManagement (s : State) (o : Host.Outcome State Fault Refusal) : Prop := ∀ t, o = .next t → t.mgmt = s.mgmt

theorem KeepsManagement.of_eq {s t : State} (h : t.mgmt = s.mgmt) : KeepsManagement s (.next t) := by
  rintro _ ⟨⟩
  exact h

/-- A row that changes the blocks where its event is due. -/
theorem KeepsManagement.due {s t : State} {p : Prop} [Decidable p] (h : t.mgmt = s.mgmt) :
    KeepsManagement s (.next (if p then t else s)) := by
  refine .of_eq ?_
  split
  · exact h
  · rfl

theorem execJudgeComplete_keepsManagement (n : NestId) (s : State) : KeepsManagement s (execJudgeComplete n s) := by
  simp only [execJudgeComplete]
  split
  · split
    · exact .of_eq rfl
    all_goals
      split
      · rintro _ ⟨⟩
      · exact .of_eq rfl
  · exact .of_eq rfl

theorem execWindowClose_keepsManagement (n : NestId) (m : Measures) (s : State) :
    KeepsManagement s (execWindowClose n m s) := by
  refine .of_eq ?_
  split
  · rfl
  · split
    · exact (s.closeWindow_rest n _ m).2
    · rfl

/-- Settles O5: the samples by `Turn.samples`, the Management Interface row by row. -/
theorem rowsLeaveSamplesAndManagement : Obligations.RowsLeaveSamplesAndManagement := by
  refine ⟨fun c s t h hreset hclose => ?_, fun n k l f o a b m s t c hc h => ?_⟩
  · rcases (exec_turns c s t h).samples with he | ⟨hc, _⟩ | ⟨⟨n, m, hc⟩, _⟩
    · exact he
    · exact absurd hc hreset
    · exact absurd hc (hclose n m)
  · refine (?_ : KeepsManagement s (exec c s)) t h
    simp only [List.mem_cons, List.not_mem_nil, or_false] at hc
    rcases hc with rfl | rfl | rfl | rfl | rfl | rfl | rfl | rfl | rfl | rfl | rfl | rfl | rfl | rfl | rfl | rfl | rfl
    case _ => exact .of_eq (by split <;> rfl)
    case _ => exact .due rfl
    case _ => exact .due rfl
    case _ => exact .due rfl
    case _ => exact .due rfl
    case _ => exact .due rfl
    case _ => exact .due rfl
    case _ => exact .of_eq (by split; exacts [rfl, by split <;> rfl])
    case _ => exact .of_eq (by split; exacts [rfl, by split <;> rfl])
    case _ => exact .of_eq (by split; exacts [rfl, by split <;> rfl])
    case _ => exact .of_eq (by split; exacts [rfl, by split <;> rfl])
    case _ => exact execWindowClose_keepsManagement n m s
    case _ => exact .of_eq (by split; exacts [rfl, by split <;> rfl])
    case _ => exact execJudgeComplete_keepsManagement n s
    case _ => exact .due rfl
    case _ => exact .due rfl
    case _ => exact .of_eq rfl

/-! ## Power-on reset (O13) -/

/-- Settles O13: the values are those of `State.reset`. -/
theorem powerOnResetValues : Obligations.PowerOnResetValues := by
  have hnest : ∀ n, ((State.reset.dev.nest n).state = .empty ∧ (State.reset.dev.nest n).record = none
      ∧ (State.reset.dev.nest n).history = 0 ∧ (State.reset.dev.nest n).gateOpen = true
      ∧ (State.reset.dev.nest n).autoStart = none ∧ (State.reset.dev.nest n).loopback = false
      ∧ (State.reset.dev.nest n).tone.mode = .silent ∧ (State.reset.dev.nest n).tone.gain = 0) := fun n => by
    rw [reset_nest]; exact ⟨rfl, rfl, rfl, rfl, rfl, rfl, rfl, rfl⟩
  refine fun s => ⟨_, rfl, rfl, hnest, rfl, rfl, rfl, rfl, rfl, rfl, rfl, rfl, fun i => ?_, fun n => ?_, fun b => ?_, rfl⟩
  · exact Vector.getElem_replicate i.isLt
  · exact ⟨Vector.getElem_replicate n.isLt, Vector.getElem_replicate n.isLt⟩
  · cases b <;> exact ⟨rfl, rfl, rfl⟩

end Sys2Proof.Machine

namespace Sys2Proof.Machine

/-! ## LINK RESET: the Management Interface (O14) -/

/-- LINK RESET at its execution, with the confirm code (R186). -/
theorem exec_linkReset_confirmed {s : State} {tag : Byte} (hs : s.Heads 0x1D tag [0xD5]) (order : List NestId) :
    exec (.linkReset tag (some 0xD5) order) s = .next (s.linkReset tag order) := by
  obtain ⟨rest, hq⟩ := State.heads_queue hs
  change execLinkReset _ _ _ _ = _
  simp [execLinkReset, hq, confirmOf]

/-- LINK RESET at its execution, without the confirm code: BAD_FIELD (R186). -/
theorem exec_linkReset_badField {s : State} {tag : Byte} {body : List Byte} {confirm : Option Byte}
    (hs : s.Heads 0x1D tag body) (hl : body.length ∈ [0, 1]) (hb : confirmOf body = some confirm)
    (hc : confirm ≠ some 0xD5) (order : List NestId) :
    exec (.linkReset tag confirm order) s = .next (s.repliedWith 0x1D tag .badField .none s.dev) := by
  obtain ⟨rest, hq⟩ := State.heads_queue hs
  change execLinkReset _ _ _ _ = _
  have hcommand := State.runCommand_heads (agrees := fun b => decide (confirmOf b = some confirm))
    (act := fun d => .refuse d .badField) hs (lengthFits_of_mem (by decide) hl) (by simp [hb])
  simp only [execLinkReset, hq, hc, and_false, if_false, hcommand, State.answered_refuse]

theorem State.dropPartMessage_mgmt (s : State) : s.dropPartMessage.mgmt = { s.mgmt with
    parser := .hunt
    partBytes := []
    discards := if s.mgmt.parser = .receiving then s.mgmt.discards + 1 else s.mgmt.discards } := by
  simp only [State.dropPartMessage]
  split <;> rfl

/-- Settles O14. -/
theorem linkResetManagement : Obligations.LinkResetManagement := by
  refine ⟨fun s tag order hs => ⟨_, exec_linkReset_confirmed hs order, ?_⟩, fun s tag order => ⟨fun hs => ?_, fun c hc hs => ?_⟩⟩
  · have hm := s.dropPartMessage_mgmt
    refine ⟨rfl, rfl, rfl, rfl, ?_, ?_, ?_, ?_, ?_, ?_, s.dropPartMessage_link.2⟩
    all_goals simp only [State.linkReset, hm]
  · exact exec_linkReset_badField hs (by decide) rfl (by decide) order
  · exact exec_linkReset_badField hs (by simp) rfl (fun h => hc (Option.some.inj h)) order

/-! ## Starts that are refused (R9) -/

theorem Device.Seated.check {d : Device} {n : NestId} (h : d.Seated n) :
    (decide ((d.nest n).state = .loaded) && (d.nest n).gateOpen && d.nestPort.locked
      && (!d.detects n .lid || (d.nest n).loopback || d.taken n .lid)) = true := by
  obtain ⟨h1, h2, h3, h4⟩ := h
  have hlid : (!d.detects n .lid || (d.nest n).loopback || d.taken n .lid) = true := by
    cases hl : (d.nest n).loopback <;> cases hd : d.detects n .lid <;> simp_all
  simp only [h1, h2, h3, hlid, decide_true, Bool.and_self]

theorem Device.seated_of_check {d : Device} {n : NestId}
    (h : (decide ((d.nest n).state = .loaded) && (d.nest n).gateOpen && d.nestPort.locked
      && (!d.detects n .lid || (d.nest n).loopback || d.taken n .lid)) = true) : d.Seated n := by
  simp only [Bool.and_eq_true, decide_eq_true_eq] at h
  obtain ⟨⟨⟨h1, h2⟩, h3⟩, h4⟩ := h
  refine ⟨h1, h2, h3, fun hl hd => ?_⟩
  simpa [hl, hd] using h4

/-- The first check that fails gives the reply (Table 1-4). -/
theorem Device.startCheck_refused {d : Device} {n : NestId} {role : Role} {p : PlanId} {st : Status}
    (h : d.StartRefused n role p st) : d.startCheck n role p = .error st := by
  rcases h with ⟨hs, rfl⟩ | ⟨hs, ha, rfl⟩ | ⟨b, hs, ha, hrest⟩
  · have hc := fun k => hs (Device.seated_of_check k)
    simp only [Device.startCheck, Bool.not_eq_true _ |>.mp hc, Bool.not_false, if_true]
  · simp only [Device.startCheck, hs.check, Bool.not_true, if_neg Bool.false_ne_true, ha]
  · simp only [Device.startCheck, hs.check, Bool.not_true, if_neg Bool.false_ne_true, ha]
    rcases hrest with ⟨hd, rfl⟩ | ⟨hd, hr, hc, rfl⟩ | ⟨hd, hr, hv, rfl⟩
    · simp only [hd, Bool.not_false, if_true]
    · have hcal : role = .production ∧ (d.calibration.record n p).state ≠ .ok
          ∧ (d.calibration.record n p).state ≠ .notRequired := by
        rcases hc with hc | hc <;> simp [hr, hc]
      simp only [hd, Bool.not_true, if_neg Bool.false_ne_true, if_pos hcal]
    · have hcal : ¬ (role = .production ∧ (d.calibration.record n p).state ≠ .ok
          ∧ (d.calibration.record n p).state ≠ .notRequired) := by simp [hr]
      have hgold : role = .golden ∧ (!(d.tables.bank b).rows.plans[p].header.isReferenceValid) = true := ⟨hr, by rw [hv]; rfl⟩
      simp only [hd, Bool.not_true, if_neg Bool.false_ne_true, if_neg hcal, if_pos hgold]

/-! ## AUTO_START_AFTER_RESET (O16) -/

/-- A fold over nests of which one alone does anything. -/
theorem foldl_one {α β : Type} [DecidableEq β] {f : α → β → α} {a : α} {n : β} (h1 : ∀ m, m ≠ n → f a m = a)
    (h2 : ∀ m, m ≠ n → f (f a n) m = f a n) : ∀ {l : List β}, n ∈ l → l.Nodup → l.foldl f a = f a n := by
  have rest : ∀ l : List β, n ∉ l → l.foldl f (f a n) = f a n := by
    intro l
    induction l with
    | nil => exact fun _ => rfl
    | cons m l ih =>
      intro hn
      rw [List.foldl_cons, h2 m (fun e => hn (by simp [e]))]
      exact ih fun k => hn (List.mem_cons_of_mem m k)
  intro l
  induction l with
  | nil => exact fun hn => absurd hn (List.not_mem_nil)
  | cons m l ih =>
    intro hn hd
    obtain ⟨hm, hd⟩ := List.nodup_cons.mp hd
    by_cases e : m = n
    · subst e
      exact rest l hm
    · rw [List.foldl_cons, h1 m e]
      exact ih ((List.mem_cons.mp hn).resolve_left fun k => e k.symm) hd

theorem SameButStart.autoTestOwed {x y : Nest} (h : SameButStart x y) : y.autoTestOwed = x.autoTestOwed := by rw [h.1]

theorem Device.enterLevelLock_owed (d : Device) (n : NestId) :
    ((d.enterLevelLock n).nest n).autoTestOwed = (d.nest n).autoTestOwed := by
  simp only [Device.enterLevelLock, Device.modNest_eq]
  rw [((Device.presentStart_startsOnly _ n).nests n).autoTestOwed, Device.nest_setNest_same]

theorem Device.enterClamping_owed (d : Device) (n : NestId) :
    ((d.enterClamping n).nest n).autoTestOwed = (d.nest n).autoTestOwed := by
  by_cases hc : d.taken n .clamped = true
  · by_cases hz : (d.map n).settle = 0
    · simp [Device.enterClamping, Device.modNest_eq, Device.clampedTaken, Device.addHistory_eq, hc, hz,
        Device.enterLevelLock_owed]
    · simp [Device.enterClamping, Device.modNest_eq, Device.clampedTaken, Device.addHistory_eq, hc, hz]
  · simp [Device.enterClamping, Device.modNest_eq, hc]

/-- A start lets an owed test lapse (log 24). -/
theorem Device.startUnit_owed (d : Device) (n : NestId) (role : Role) (p : PlanId) (serial : List Byte) (lot : Word32)
    (b : BankId) : ((d.startUnit n role p serial lot b).nest n).autoTestOwed = false := by
  simp only [Device.startUnit]
  split
  · rw [Device.enterLevelLock_owed]; simp [Device.modNest_eq]
  · rw [Device.enterClamping_owed]; simp [Device.modNest_eq]

/-- A start on a nest of which another field was changed first. -/
theorem UnitStarted.of_setNest {d e : Device} {n : NestId} {x : Nest} {role : Role} {p : PlanId} {b : BankId}
    {serial : List Byte} {lot : Word32} (hx : x.loopback = (d.nest n).loopback)
    (h : UnitStarted (d.setNest n x) e n role p b serial lot) : UnitStarted d e n role p b serial lot := by
  obtain ⟨h1, h2, h3, h4, h5, h6, h7⟩ := h
  have hl : ((d.setNest n x).nest n).loopback = (d.nest n).loopback := by rw [Device.nest_setNest_same, hx]
  refine ⟨?_, ?_, h3, h4, h5, fun m hm => (h6 m hm).trans (d.nest_setNest_ne x hm), h7⟩
  · rw [h1]; simp only [Device.startState, hl]; rfl
  · rw [h2]; simp only [Device.startHistory, hl]; rfl

/-- The checks of a start read of the nest its state, its gate and its loopback flag alone. -/
theorem Device.Seated.setNest {d : Device} {n : NestId} {x : Nest} (h1 : x.state = (d.nest n).state)
    (h2 : x.gateOpen = (d.nest n).gateOpen) (h3 : x.loopback = (d.nest n).loopback) :
    (d.setNest n x).Seated n ↔ d.Seated n := by
  simp only [Device.Seated, Device.nest_setNest_same, h1, h2, h3, Device.setNest_nestPort, Device.setNest_detects,
    Device.setNest_taken]

theorem Device.Startable.setNest {d : Device} {n : NestId} {x : Nest} {role : Role} {p : PlanId} {b : BankId}
    (h1 : x.state = (d.nest n).state) (h2 : x.gateOpen = (d.nest n).gateOpen) (h3 : x.loopback = (d.nest n).loopback)
    (h : d.Startable n role p b) : (d.setNest n x).Startable n role p b := by
  simpa only [Device.Startable, Device.nest_setNest_same, h1, h2, h3, Device.setNest_nestPort, Device.setNest_detects,
    Device.setNest_taken, Device.setNest_tables, Device.setNest_calibration] using h

theorem Device.StartRefused.setNest {d : Device} {n : NestId} {x : Nest} {role : Role} {p : PlanId} {st : Status}
    (h1 : x.state = (d.nest n).state) (h2 : x.gateOpen = (d.nest n).gateOpen) (h3 : x.loopback = (d.nest n).loopback)
    (h : d.StartRefused n role p st) : (d.setNest n x).StartRefused n role p st := by
  simpa only [Device.StartRefused, Device.Seated.setNest h1 h2 h3, Device.setNest_tables, Device.setNest_calibration]
    using h

/-- The one nest that is owed the test is tested. -/
theorem exec_autoStartAfterReset_one {s : State} {n : NestId} (ho : (s.dev.nest n).autoTestOwed = true)
    (hm : ∀ m, m ≠ n → (s.dev.nest m).autoTestOwed = false) (hs : (s.dev.nest n).state = .loaded) {e : Device}
    (he : (s.dev.setNest n { s.dev.nest n with autoTestOwed := false }).autoStartTest n = e)
    (hsame : ∀ m, m ≠ n → (e.nest m).autoTestOwed = (s.dev.nest m).autoTestOwed) :
    exec .autoStartAfterReset s = .next { s with dev := e } := by
  have hn : s.dev.autoStartOwed n = e := by
    rw [← he]
    simp only [Device.autoStartOwed, ho, if_true, hs, Device.modNest_eq]
  have hrest : ∀ (d : Device) m, (d.nest m).autoTestOwed = false → d.autoStartOwed m = d := fun d m h => by
    simp [Device.autoStartOwed, h]
  change Host.Outcome.next { s with dev := (List.finRange 4).foldl Device.autoStartOwed s.dev } = _
  rw [foldl_one (n := n) (fun m k => hrest _ m (hm m k))
    (fun m k => hrest _ m (by rw [hn, hsame m k]; exact hm m k)) (List.mem_finRange n) (List.nodup_finRange 4), hn]

/-- Settles O16: a start by `Device.autoStartTest_starts`, a refusal by `Device.startCheck_refused`. -/
theorem autoStartAfterResetTests : Obligations.AutoStartAfterResetTests := by
  intro s n p ho hm hs ha hg hl
  refine ⟨fun b hb => ?_, fun st hst => ?_⟩
  · have hb' := Device.Startable.setNest (x := { s.dev.nest n with autoTestOwed := false }) rfl rfl rfl hb
    have he := Device.autoStartTest_starts (d := s.dev.setNest n { s.dev.nest n with autoTestOwed := false }) (n := n)
      (by simpa using ha) (by simpa using hg) (by simpa using hl) hb'
    have hstart := Device.startUnit_starts (s.dev.setNest n { s.dev.nest n with autoTestOwed := false }) n .production p
      [] 0 b
    have howed := Device.startUnit_owed (s.dev.setNest n { s.dev.nest n with autoTestOwed := false }) n .production p
      [] 0 b
    refine ⟨_, exec_autoStartAfterReset_one ho hm hs he fun m hmn => ?_, hstart.of_setNest (by rfl), howed, rfl⟩
    obtain ⟨_, _, _, _, _, hothers, _⟩ := hstart
    rw [hothers m hmn, Device.nest_setNest_ne _ _ hmn]
  · have hst' := Device.StartRefused.setNest (x := { s.dev.nest n with autoTestOwed := false }) rfl rfl rfl hst
    have he := Device.autoStartTest_refused (d := s.dev.setNest n { s.dev.nest n with autoTestOwed := false }) (n := n)
      (by simpa using ha) (by simpa using hg) (by simpa using hl) (Device.startCheck_refused hst')
    rw [exec_autoStartAfterReset_one ho hm hs he fun m hmn => congrArg Nest.autoTestOwed (Device.nest_setNest_ne _ _ hmn)]
    rfl

end Sys2Proof.Machine

namespace Sys2Proof.Machine

/-! ## Commands at the head of the Command Queue -/

/-- A command at the head, with a body of a length of its type and agreeing fields, is executed and answered (R184). -/
theorem exec_command {c : Instr} {s : State} {type tag : Byte} {body : List Byte} {agrees : List Byte → Bool}
    {act : Device → Answer} (hc : exec c s = .next (s.runCommand type tag agrees act)) (hs : s.Heads type tag body)
    (hl : body.length ∈ bodyLengths type) (ha : agrees body = true) (ht : type ≠ 0x0E := by decide) :
    exec c s = .next (s.answered tag type (act s.dev)) := by
  rw [hc, State.runCommand_heads hs (lengthFits_of_mem ht hl) ha]

/-! ## PASS-THROUGH and MONITOR SELECT (O37) -/

theorem NestState.takesPass_of_idle {st : NestState} (h : st = .empty ∨ st = .loaded ∨ st = .done) :
    st.takesPass = true := by rcases h with rfl | rfl | rfl <;> rfl

theorem NestState.takesPass_of_busy {st : NestState} (h : st.testStage = true ∨ st = .releasing ∨ st = .fault) :
    st.takesPass = false := by
  cases st <;> simp_all [NestState.testStage, NestState.takesPass]

/-- Settles O37. -/
theorem audioRouting : Obligations.AudioRouting := by
  refine fun s tag n i body => ⟨fun hs hl => ?_, fun a b hs hl => ?_⟩
  · have hexec := fun source => exec_command (c := .passThrough tag (BitVec.ofNat 8 n.val) (some source)) rfl hs
      (by rw [hl]; decide) rfl
    simp only [hexec, nestOf_ofNat]
    refine ⟨fun hst hlk => ?_, fun h => ?_, fun hm => ?_, fun hm => ?_⟩
    · rw [NestState.takesPass_of_idle hst, hlk]
      rfl
    · have hno : ((s.dev.nest n).state.takesPass && s.dev.controllerPort.locked) = false := by
        rcases h with h | h | h | h
        · rw [NestState.takesPass_of_busy (.inl h), Bool.false_and]
        · rw [NestState.takesPass_of_busy (.inr (.inl h)), Bool.false_and]
        · rw [NestState.takesPass_of_busy (.inr (.inr h)), Bool.false_and]
        · rw [h, Bool.and_false]
      rw [hno]
      rfl
    · simp only [Device.modNest_eq, Nest.endPass, hm, State.answered_ok]
    · have hsame : (s.dev.nest n).endPass = s.dev.nest n := by
        simp only [Nest.endPass]
        split
        · exact absurd ‹_› (hm _)
        all_goals rfl
      rw [Device.modNest_eq, hsame, Device.setNest_nest, State.answered_ok]
  · rw [exec_command rfl hs (by rw [hl]; decide) rfl]
    rfl

/-! ## GROUP MAP WRITE (O38) -/

theorem Device.anyInTest_iff (d : Device) : d.anyInTest = true ↔ ∃ n, (d.nest n).state.inTest = true := by
  simp [Device.anyInTest]

theorem isThreshold_iff (t : Int) : isThreshold t = true ↔ -600 ≤ t ∧ t ≤ 0 ∧ t % 5 = 0 := by
  simp [isThreshold, and_assoc]

theorem groupField_val {b : Byte} (h : b.toNat ≤ 1) : (groupField b).val = b.toNat := by
  rcases Nat.le_one_iff_eq_zero_or_eq_one.mp h with h0 | h1
  · rw [BitVec.eq_of_toNat_eq (x := b) (y := 0) h0]; rfl
  · rw [BitVec.eq_of_toNat_eq (x := b) (y := 1) h1]; rfl

/-- GROUP MAP WRITE with its fields within their ranges (R67). -/
theorem exec_groupMapWrite {s : State} {tag : Byte} {groups : Vector Byte 4} {thresholds : Vector Int 2}
    {body : List Byte} (hs : s.Heads 0x1A tag body) (hl : body.length = 6)
    (hg : ∀ n : NestId, (groups[n]).toNat ≤ 1)
    (ht : ∀ g : GroupId, -600 ≤ thresholds[g] ∧ thresholds[g] ≤ 0 ∧ thresholds[g] % 5 = 0) :
    exec (.groupMapWrite tag groups thresholds) s = .next (s.answered tag 0x1A
      (if s.dev.anyInTest then .refuse s.dev .refusedState else .ok (s.dev.setGroups groups thresholds) .none)) := by
  have h1 : (groups.toList.all fun b => decide (b.toNat ≤ 1)) = true := by
    simp only [List.all_eq_true, decide_eq_true_eq, Vector.mem_toList_iff, Vector.forall_mem_iff_forall_getElem]
    exact fun i hi => hg ⟨i, hi⟩
  have h2 : thresholds.toList.all isThreshold = true := by
    simp only [List.all_eq_true, isThreshold_iff, Vector.mem_toList_iff, Vector.forall_mem_iff_forall_getElem]
    exact fun i hi => ht ⟨i, hi⟩
  rw [exec_command rfl hs (by rw [hl]; decide) rfl]
  simp only [h1, h2, Bool.not_true, Bool.or_self, if_neg Bool.false_ne_true]

/-- Settles O38. -/
theorem groupMapReplaced : Obligations.GroupMapReplaced := by
  refine fun s tag groups thresholds body hs hl hg ht => ⟨fun h => ?_, fun h => ?_⟩
  · rw [exec_groupMapWrite hs hl hg ht, if_pos ((Device.anyInTest_iff _).mpr h), State.answered_refuse]
  · have hno : ¬ s.dev.anyInTest = true := fun k => by
      obtain ⟨n, hn⟩ := (Device.anyInTest_iff _).mp k
      rw [h n] at hn
      exact Bool.false_ne_true hn
    refine ⟨s.dev.setGroups groups thresholds, ?_, fun n => ?_, fun g => ?_, rfl⟩
    · rw [exec_groupMapWrite hs hl hg ht, if_neg hno, State.answered_ok]
    · rw [← groupField_val (hg n)]
      simp [Device.setGroups, Device.groupOf]
    · simp [Device.setGroups, Device.group]

/-! ## COUNTER SNAPSHOT (O43) -/

theorem Device.clearedLive_get (d : Device) (n : NestId) :
    d.clearedLive[n] = { Counters.zero with started := d.inTestCount n } := by
  simp [Device.clearedLive, Nest.carriedCounters, Device.inTestCount]

/-- Settles O43. -/
theorem counterSnapshots : Obligations.CounterSnapshots := by
  refine fun s tag body hs hl => ⟨?_, ?_, ⟨{ s.dev with
    yields := { s.dev.yields.takeSnapshot with live := s.dev.clearedLive } }, ?_, rfl, rfl, s.dev.clearedLive_get, rfl⟩⟩
  all_goals
    rw [exec_command rfl hs (by rw [hl]; decide) rfl]
    rfl

/-! ## NEST START (O30, O31) -/

theorem lengthFits_startFields {body : List Byte} {f : StartFields} (h : startFieldsOf body = some f) :
    body.length = 24 := by
  unfold startFieldsOf at h
  split at h
  · split at h
    · simp_all
    · cases h
  · cases h

theorem exec_nestStart {s : State} {tag : Byte} {body : List Byte} {f : StartFields} (hs : s.Heads 0x03 tag body)
    (hf : startFieldsOf body = some f) :
    exec (.nestStart tag f) s = .next (s.answered tag 0x03 (s.dev.nestStart f)) :=
  exec_command rfl hs (by rw [lengthFits_startFields hf]; decide) (by simp [hf])

theorem serialFits_iff (f : StartFields) : serialFits f = true ↔ f.serialLength.toNat ≤ 16
    ∧ ∀ c ∈ f.serial.toList.take f.serialLength.toNat, 0x20 ≤ c.toNat ∧ c.toNat ≤ 0x7E := by
  simp [serialFits, serialCharsOf, isPrintable]

/-- NEST START with fields that pass check 1 (Table 1-4). -/
theorem Device.nestStart_fits {d : Device} {f : StartFields} {n : NestId} {role : Role} {p : PlanId}
    (hn : f.nest.toNat = n.val) (hr : f.role = roleCode role) (hp : f.plan.toNat = p.val)
    (hl : f.serialLength.toNat ≤ 16)
    (hc : ∀ c ∈ f.serial.toList.take f.serialLength.toNat, 0x20 ≤ c.toNat ∧ c.toNat ≤ 0x7E) :
    d.nestStart f = d.startCommand n role p (f.serial.toList.take f.serialLength.toNat) f.lot := by
  simp only [Device.nestStart, nestOf_eq hn, hr, roleOf_roleCode, planOf_eq hp, if_pos ((serialFits_iff f).mpr ⟨hl, hc⟩),
    serialCharsOf]

theorem planOf_none {b : Byte} (h : 7 < b.toNat) : planOf b = none := dif_neg (by omega)

theorem roleOf_none {b : Byte} (h : 2 < b.toNat) : roleOf b = none := by
  revert h
  revert b
  decide

/-- NEST START with fields that fail check 1 (Table 1-4). -/
theorem Device.nestStart_badField (d : Device) {f : StartFields}
    (h : 3 < f.nest.toNat ∨ 2 < f.role.toNat ∨ 7 < f.plan.toNat ∨ 16 < f.serialLength.toNat
      ∨ ∃ c ∈ f.serial.toList.take f.serialLength.toNat, c.toNat < 0x20 ∨ 0x7E < c.toNat) :
    d.nestStart f = .refuse d .badField := by
  simp only [Device.nestStart]
  split
  · rename_i hn hr hp
    rw [if_neg]
    rw [serialFits_iff]
    rintro ⟨hl, hc⟩
    rcases h with h | h | h | h | ⟨c, hm, h⟩
    · rw [nestOf_none h] at hn; cases hn
    · rw [roleOf_none h] at hr; cases hr
    · rw [planOf_none h] at hp; cases hp
    · omega
    · have := hc c hm; omega
  · rfl

/-- Settles O30: the checks pass by `Device.startCheck_startable`, and `Device.startUnit_starts` starts the unit. -/
theorem nestStartTaken : Obligations.NestStartTaken := by
  intro s tag body f n role p b hs hf hn hr hp hl hc hstart
  refine ⟨_, ?_, Device.startUnit_starts _ _ _ _ _ _ _⟩
  rw [exec_nestStart hs hf, Device.nestStart_fits hn hr hp hl hc, Device.startCommand, Device.startCheck_ok hstart]
  rfl

/-- Settles O31. -/
theorem nestStartRefused : Obligations.NestStartRefused := by
  intro s tag body f hs hf
  refine ⟨fun h => ?_, fun n role p st hn hr hp hl hc href => ?_⟩
  · rw [exec_nestStart hs hf, s.dev.nestStart_badField h, State.answered_refuse]
  · rw [exec_nestStart hs hf, Device.nestStart_fits hn hr hp hl hc, Device.startCommand, Device.startCheck_refused href]
    rfl

end Sys2Proof.Machine

namespace Sys2Proof.Machine

/-! ## Packed bits (Table 11-8) -/

theorem packBits_testBit (l : List Bool) (i : Nat) : (packBits l).testBit i = l.getD i false := by
  induction l generalizing i with
  | nil => simp [packBits]
  | cons b l ih =>
    have hcons : packBits (b :: l) = (if b then 1 else 0) + 2 * packBits l := rfl
    cases i with
    | zero => cases b <;> simp [hcons, Nat.testBit_zero]
    | succ i =>
      have hdiv : packBits (b :: l) / 2 = packBits l := by rw [hcons]; split <;> omega
      rw [Nat.testBit_succ, hdiv, ih, List.getD_cons_succ]

theorem ofNat_packBits_getLsbD (w : Nat) (l : List Bool) (i : Nat) :
    (BitVec.ofNat w (packBits l)).getLsbD i = (decide (i < w) && l.getD i false) := by
  rw [BitVec.getLsbD_ofNat, packBits_testBit]

theorem byteOf4_getLsbD (f : Fin 4 → Bool) (i : Fin 4) : (byteOf4 f).getLsbD i.val = f i := by
  rw [byteOf4, ofNat_packBits_getLsbD]
  have hi : i.val < 8 := by omega
  simp [hi]

theorem byteOf4_getLsbD_high (f : Fin 4 → Bool) {i : Nat} (h : 4 ≤ i) : (byteOf4 f).getLsbD i = false := by
  rw [byteOf4, ofNat_packBits_getLsbD]
  simp [h]

theorem pairByte_bits (a b : Bool) : (BitVec.ofNat 8 (packBits [a, b])).getLsbD 0 = a
    ∧ (BitVec.ofNat 8 (packBits [a, b])).getLsbD 1 = b
    ∧ ∀ i : Nat, 2 ≤ i → (BitVec.ofNat 8 (packBits [a, b])).getLsbD i = false := by
  refine ⟨?_, ?_, fun i hi => ?_⟩ <;> rw [ofNat_packBits_getLsbD]
  · rfl
  · rfl
  · rw [List.getD_eq_default _ _ (by simpa using hi), Bool.and_false]

theorem Device.linkByte_bits (d : Device) : d.linkByte.getLsbD 0 = d.controllerPort.locked
    ∧ d.linkByte.getLsbD 1 = d.nestPort.locked ∧ ∀ i : Nat, 2 ≤ i → d.linkByte.getLsbD i = false :=
  pairByte_bits _ _

/-! ## STATUS READ (O29) -/

theorem detailBytes_length (e : Option ErrorDetail) : (detailBytes e).length = 6 := by cases e <;> rfl

/-- The pending notice set as a word (Table 11-8). -/
def NoticeArbiter.pendingWord (a : NoticeArbiter) : BitVec 24 := BitVec.ofNat 24 (packBits a.pending.toList)

theorem NoticeArbiter.pendingWord_source (a : NoticeArbiter) (i : SourceId) :
    a.pendingWord.getLsbD i.val = a.pending[i] := by
  rw [NoticeArbiter.pendingWord, ofNat_packBits_getLsbD]
  have hi : i.val < 24 := by omega
  simp [hi]

theorem NoticeArbiter.pendingWord_high (a : NoticeArbiter) {i : Nat} (h : 18 ≤ i) : a.pendingWord.getLsbD i = false := by
  rw [NoticeArbiter.pendingWord, ofNat_packBits_getLsbD]
  simp [h]

theorem Device.clearHistories_nest (d : Device) (n : NestId) :
    d.clearHistories.nest n = { d.nest n with history := 0 } := by
  simp [Device.clearHistories, Device.nest]

theorem exec_statusRead {s : State} {tag b : Byte} (hs : s.Heads 0x01 tag [b]) (clear : Bool) :
    exec (.statusRead tag (some clear)) s = .next (s.repliedWith 0x01 tag .ok
      (.status (s.dev.statusBody s.mgmt.discards)) (if clear then s.dev.clearHistories else s.dev)) := by
  rw [exec_command rfl hs (List.mem_singleton.mpr rfl) rfl]
  rfl

/-- Settles O29. -/
theorem statusReadReplies : Obligations.StatusReadReplies := by
  intro s tag b hs
  refine ⟨?_, ⟨byteOf4 fun n => (s.dev.nest n).gateOpen,
    BitVec.ofNat 8 (packBits [s.dev.tables.loadError, s.dev.tables.sequenceError]), s.dev.linkByte,
    detailBytes s.dev.tables.detail, s.dev.notices.pendingWord, ?_, ?_⟩, fun w => rfl, fun w => rfl,
    exec_statusRead hs false, ⟨s.dev.clearHistories, exec_statusRead hs true, s.dev.clearHistories_nest, rfl⟩, ?_⟩
  · simp [Device.statusBody, NoticeArbiter.pendingBytes, detailBytes_length, bytes16, bytes32, List.finRange_succ]
  · simp [Device.statusBody, NoticeArbiter.pendingBytes, NoticeArbiter.pendingWord, List.finRange_succ]
  · obtain ⟨hl0, hl1, hlrest⟩ := s.dev.linkByte_bits
    obtain ⟨hf0, hf1, hfrest⟩ := pairByte_bits s.dev.tables.loadError s.dev.tables.sequenceError
    exact ⟨byteOf4_getLsbD _, fun i => byteOf4_getLsbD_high _, hf0, hf1, hfrest, hl0, hl1, hlrest,
      s.dev.notices.pendingWord_source, fun i => s.dev.notices.pendingWord_high, fun h => by rw [h]; rfl,
      fun d h => by rw [h]; rfl⟩
  · rw [exec_command rfl hs (List.mem_singleton.mpr rfl) rfl]
    rfl

/-! ## NEST ABORT (O32) -/

theorem exec_nestAbort {s : State} {tag : Byte} {n : NestId} (hs : s.Heads 0x04 tag [BitVec.ofNat 8 n.val]) :
    exec (.nestAbort tag (BitVec.ofNat 8 n.val)) s = .next (s.repliedWith 0x04 tag .ok .none (s.dev.abortNest n)) := by
  rw [exec_command rfl hs (List.mem_singleton.mpr rfl) (decide_eq_true rfl), nestOf_ofNat]
  rfl

theorem Device.abortNest_endsEarly {d : Device} {n : NestId} (h : (d.nest n).state.endsEarly = true) :
    d.abortNest n = d.earlyEnd n .aborted := by
  simp only [Device.abortNest]
  split <;> simp_all [NestState.endsEarly]

theorem Nest.endingEarly_history (x : Nest) {cause : FailureClass} (h : cause ≠ .fixture) :
    (x.endingEarly cause).history = x.history := if_neg h

theorem Device.discardUnit_nest (d : Device) (n : NestId) (r : UnitRecord) : (d.discardUnit n r).nest n
    = { d.nest n with record := (d.nest n).record.map fun r => { r with sub := .none } } := by
  obtain ⟨e, he, heq⟩ := d.discardUnit_spec n r
  rw [heq]
  exact he.self

/-- A discard leaves the fixture lines and the flag that say where the nest goes. -/
theorem Device.discardUnit_afterUnit (d : Device) (n : NestId) (r : UnitRecord) :
    (d.discardUnit n r).afterUnit n = d.afterUnit n := by
  refine Device.afterUnit_congr ?_ (by rw [d.discardUnit_nest n r])
  obtain ⟨e, he, heq⟩ := d.discardUnit_spec n r
  rw [heq]
  change e.fixture = _
  rw [he.frame]
  rfl

/-- A unit in LABEL_WAIT is discarded, and its nest left (R28). -/
theorem Device.discard_exits (d : Device) (n : NestId) (r : UnitRecord) :
    (((d.discardUnit n r).exitTest n).nest n).state = d.afterUnit n
    ∧ Discarded d ((d.discardUnit n r).exitTest n) n r := by
  obtain ⟨y, hy, hx⟩ := (d.discardUnit n r).exitTest_exits n
  rw [hy]
  refine ⟨?_, Device.discardUnit_discards (a := (d.discardUnit n r).notices) hx⟩
  rw [Device.nest_setNest_same, hx.state, d.discardUnit_afterUnit n r]

/-- Settles O32. -/
theorem nestAbort : Obligations.NestAbort := by
  refine ⟨fun s tag n r hs hst hr => ⟨_, exec_nestAbort hs, ?_⟩, fun s tag n hs => ⟨?_, ?_, ?_, ?_⟩⟩
  · rw [Device.abortNest_endsEarly hst]
    have hh := (s.dev.nest n).endingEarly_history (cause := .aborted) (by decide)
    by_cases hf : s.dev.labels.posted < 64
    · obtain ⟨hended, hstate, htone, hhist⟩ := Device.earlyEnd_labels .aborted hr hf
      exact ⟨hstate, htone, fun _ => ⟨hended, by rw [hhist, hh]⟩, fun k => absurd hf (by omega)⟩
    · obtain ⟨hdisc, hstate, htone, hhist⟩ := Device.earlyEnd_discards .aborted hr (by omega)
      exact ⟨hstate, htone, fun k => absurd k hf, fun _ => ⟨hdisc, by rw [hhist, hh]⟩⟩
  · intro hst
    have hno : s.dev.abortNest n = s.dev := by
      simp only [Device.abortNest]
      split <;> simp_all
    rw [exec_nestAbort hs, hno]
  · intro r hst hr
    have hd : s.dev.abortNest n = (s.dev.discardUnit n r).exitTest n := by
      simp only [Device.abortNest, hst, hr]
    exact ⟨_, exec_nestAbort hs, hd ▸ s.dev.discard_exits n r⟩
  · intro hst
    have hd : s.dev.abortNest n = s.dev.exitTest n := by
      simp only [Device.abortNest, hst, Device.endMarking]
    obtain ⟨y, hy, hx⟩ := s.dev.exitTest_exits n
    refine ⟨_, exec_nestAbort hs, ?_⟩
    rw [hd, hy]
    refine ⟨?_, ?_, ?_, fun m hm => Device.nest_setNest_ne _ _ hm, rfl⟩ <;> rw [Device.nest_setNest_same]
    exacts [hx.state, hx.markClaim, hx.record]
  · intro hst ha
    have hd : s.dev.abortNest n = s.dev.leaveFault n := by
      simp only [Device.abortNest, hst]
    refine ⟨_, exec_nestAbort hs, ?_⟩
    rw [hd, Device.leaveFault_off _ _ ha]
    refine ⟨?_, fun m hm => Device.nest_setNest_ne _ _ hm, rfl⟩
    rw [Device.nest_setNest_same]
    simp only [Bool.or_eq_true]
    split <;> rfl

end Sys2Proof.Machine

namespace Sys2Proof.Machine

/-! ## NEST GATE (O34) -/

theorem exec_nestGate {s : State} {tag : Byte} {body : List Byte} (hs : s.Heads 0x05 tag body) (hl : body.length = 3)
    (n : NestId) (g : GateArg) (a : AutoArg) :
    exec (.nestGate tag (BitVec.ofNat 8 n.val) (some g) (some a)) s
      = .next (s.repliedWith 0x05 tag .ok .none (s.dev.setGate n g a)) := by
  rw [exec_command rfl hs (by rw [hl]; decide) rfl, nestOf_ofNat]
  rfl

/-- No auto-start test starts a unit while the gate is CLOSED (R12). -/
theorem Device.autoStartTest_closed (d : Device) (n : NestId) (h : (d.nest n).gateOpen = false) :
    d.autoStartTest n = d := by
  simp only [Device.autoStartTest]
  split
  · rfl
  · simp [h]

/-- Settles O34. -/
theorem nestGateStores : Obligations.NestGateStores := by
  refine fun s tag n g a body hs hl => ⟨fun h => ?_, fun p b hg ha hlo hst => ?_⟩
  · rw [exec_nestGate hs hl]
    congr 2
    simp only [Device.setGate, Device.modNest_eq]
    split
    · rename_i hstate
      rcases h with h | h | h | h
      · exact absurd hstate h
      · rw [Device.autoStartTest_loopback _ _ (by simpa using h)]
      · rw [Device.autoStartTest_closed _ _ (by simpa using h)]
      · rw [Device.autoStartTest_off _ _ (by simpa using h)]
    · rfl
  · have hstate : (s.dev.nest n).state = .loaded := by
      have := hst.1
      rwa [Device.nest_setNest_same] at this
    refine ⟨_, exec_nestGate hs hl n g a, ?_⟩
    have hset : s.dev.setGate n g a
        = (s.dev.setNest n { s.dev.nest n with gateOpen := true, autoStart := some p }).autoStartTest n := by
      simp only [Device.setGate, if_pos hstate, Device.modNest_eq, hg, ha]
    rw [hset, Device.autoStartTest_starts (by simp) (by simp) (by simpa using hlo) hst]
    exact Device.startUnit_starts _ n _ p _ _ b

/-! ## UNIT READ (O35) -/

theorem exec_unitRead {s : State} {tag page : Byte} {body : List Byte} (hs : s.Heads 0x06 tag body)
    (hl : body.length = 2) (hp : page.toNat ≤ 3) (n : NestId) (clear : Bool) :
    exec (.unitRead tag (BitVec.ofNat 8 n.val) (some clear) page) s = .next (s.repliedWith 0x06 tag .ok
      (s.dev.unitData n page.toNat) (if clear then s.dev.clearHistory n else s.dev)) := by
  rw [exec_command rfl hs (by rw [hl]; decide) rfl, nestOf_ofNat]
  simp only [if_pos hp, State.answered_ok]

/-- What a page shows of a band (R195). -/
def UnitRecord.bandReport (r : UnitRecord) (bandCount : Nat) (i : BandId) : Option AccumulatorReport :=
  if i.val < bandCount then some r.accumulators[i].report else none

theorem filterMap_ite_some {α β : Type} (p : α → Prop) [DecidablePred p] (g : α → β) (l : List α) :
    l.filterMap (fun x => if p x then some (g x) else none) = (l.filter fun x => decide (p x)).map g := by
  induction l with
  | nil => rfl
  | cons x l ih => by_cases h : p x <;> simp [h, ih]

theorem UnitRecord.page_eq (r : UnitRecord) (bandCount page : Nat) : r.page bandCount page
    = ((List.finRange 32).filter fun i => decide (i.val / 8 = page)).map (r.bandReport bandCount) :=
  filterMap_ite_some (fun i : BandId => i.val / 8 = page) _ _

/-- A page holds eight bands, each at its place (R195). -/
theorem pageBands : ∀ page : Fin 4,
    ((List.finRange 32).filter fun i => decide (i.val / 8 = page.val)).length = 8
    ∧ ∀ i : BandId, i.val / 8 = page.val →
      ((List.finRange 32).filter fun i => decide (i.val / 8 = page.val))[i.val % 8]? = some i := by
  decide

theorem UnitRecord.page_spec (r : UnitRecord) (bandCount : Nat) {page : Nat} (hp : page ≤ 3) :
    (r.page bandCount page).length = 8
    ∧ ∀ i : BandId, i.val / 8 = page → (r.page bandCount page)[i.val % 8]? = some (r.bandReport bandCount i) := by
  obtain ⟨hlen, hget⟩ := pageBands ⟨page, by omega⟩
  rw [r.page_eq]
  refine ⟨by rw [List.length_map, hlen], fun i hi => ?_⟩
  rw [List.getElem?_map, hget i hi]
  rfl

/-- Settles O35. -/
theorem unitReadReports : Obligations.UnitReadReports := by
  intro s tag n clear page body hs hl hp
  refine ⟨_, match (s.dev.nest n).record with
    | none => []
    | some r => r.page (s.dev.planOf r).header.bandCount page.toNat, exec_unitRead hs hl hp n clear, ?_, ?_,
    rfl, fun v => rfl, rfl, rfl⟩
  · intro hr
    rw [hr]
  · intro r hr
    obtain ⟨hlen, hget⟩ := r.page_spec (s.dev.planOf r).header.bandCount hp
    rw [hr]
    exact ⟨hlen, rfl, rfl, rfl, hget, _, rfl⟩

/-! ## LOOPBACK (O36) -/

theorem exec_loopback {s : State} {tag : Byte} {body : List Byte} (hs : s.Heads 0x07 tag body) (hl : body.length = 2)
    {n : NestId} (hst : (s.dev.nest n).state = .empty ∨ (s.dev.nest n).state = .loaded) (on : Bool) :
    exec (.loopback tag (BitVec.ofNat 8 n.val) (some on)) s = .next (s.repliedWith 0x07 tag .ok .none
      (if on then s.dev.loopbackOn n else s.dev.loopbackOff n)) := by
  rw [exec_command rfl hs (by rw [hl]; decide) rfl, nestOf_ofNat]
  simp only [if_pos hst, State.answered_ok]

/-- LOOPBACK OFF while auto-start is OFF starts no unit (R29). -/
theorem Device.loopbackOff_off (d : Device) (n : NestId) (h : (d.nest n).autoStart = none) :
    d.loopbackOff n = d.setNest n (if d.taken n .present
      then { d.nest n with loopback := false, state := .loaded, autoTestOwed := false }
      else { d.nest n with loopback := false, state := .empty, gateClaim := false, lampClaim := false,
                           autoTestOwed := false }) := by
  simp only [Device.loopbackOff, Device.modNest_eq, Device.enterLoaded]
  split
  · rw [Device.autoStartTest_off _ _ (by simpa using h), Device.setNest_setNest, Device.nest_setNest_same]
  · rw [Device.enterEmpty_eq, Device.setNest_setNest, Device.nest_setNest_same]

/-- Settles O36. -/
theorem loopbackSets : Obligations.LoopbackSets := by
  refine fun s tag n body hs hl => ⟨fun hst => ⟨exec_loopback hs hl hst true, fun ha => ?_⟩, fun hne hnl on => ?_⟩
  · refine ⟨_, exec_loopback hs hl hst false, ?_⟩
    rw [if_neg Bool.false_ne_true, Device.loopbackOff_off _ _ ha]
    refine ⟨?_, ?_, ?_, ?_, fun m hm => Device.nest_setNest_ne _ _ hm, rfl⟩ <;>
      rw [Device.nest_setNest_same] <;> split <;> rfl
  · rw [exec_command rfl hs (by rw [hl]; decide) rfl, nestOf_ofNat]
    simp only [hne, hnl, or_self, if_false, State.answered_refuse]

/-! ## RING READ (O39) -/

theorem ringIndex_zero (i : EntryId) : i + Fin.ofNat 64 0 = i := by apply Fin.ext; simp

theorem ringIndex_succ (i : EntryId) (j : Nat) : i + 1 + Fin.ofNat 64 j = i + Fin.ofNat 64 (j + 1) := by
  apply Fin.ext
  simp [Fin.val_add]
  omega

theorem LabelUnit.readFrom_ok (u : LabelUnit) (k : Nat) (i : EntryId)
    (h : ∀ j : Nat, j < k → (u.ring[i + Fin.ofNat 64 j]).isSome = true) :
    ∃ entries, u.readFrom i k = some entries ∧ entries.length = k
      ∧ ∀ j : Nat, j < k → ∃ e, u.ring[i + Fin.ofNat 64 j] = some e
          ∧ entries[j]? = some (i + Fin.ofNat 64 j, e.label) := by
  induction k generalizing i with
  | zero => exact ⟨[], rfl, rfl, fun j hj => absurd hj (by omega)⟩
  | succ k ih =>
    obtain ⟨rest, hrest, hlen, hget⟩ := ih (i + 1) fun j hj => by simp only [ringIndex_succ]; exact h (j + 1) (by omega)
    obtain ⟨e, he⟩ := Option.isSome_iff_exists.mp (h 0 (by omega))
    simp only [ringIndex_zero] at he
    refine ⟨(i, e.label) :: rest, ?_, by simp [hlen], fun j hj => ?_⟩
    · simp only [LabelUnit.readFrom, he, hrest]
    · cases j with
      | zero => simp only [ringIndex_zero]; exact ⟨e, he, rfl⟩
      | succ j =>
        obtain ⟨x, hx, hg⟩ := hget j (by omega)
        simp only [ringIndex_succ] at hx hg
        exact ⟨x, hx, hg⟩

theorem LabelUnit.readFrom_none (u : LabelUnit) (k : Nat) (i : EntryId)
    (h : ∃ j : Nat, j < k ∧ u.ring[i + Fin.ofNat 64 j] = none) : u.readFrom i k = none := by
  induction k generalizing i with
  | zero => obtain ⟨j, hj, _⟩ := h; omega
  | succ k ih =>
    obtain ⟨j, hj, hnone⟩ := h
    cases j with
    | zero =>
      simp only [ringIndex_zero] at hnone
      simp only [LabelUnit.readFrom, hnone]
    | succ j =>
      have hrest := ih (i + 1) ⟨j, by omega, by simp only [ringIndex_succ]; exact hnone⟩
      simp only [LabelUnit.readFrom, hrest]
      split <;> simp_all

theorem padSerial_length (l : List Byte) : (padSerial l).length = 16 := by
  simp [padSerial]

theorem padSerial_eq {l : List Byte} (h : l.length ≤ 16) : padSerial l = l ++ List.replicate (16 - l.length) 0 := by
  rw [padSerial, List.take_append, List.take_of_length_le h, List.take_replicate, Nat.min_eq_left (by omega)]

theorem Label.bytes_length (l : Label) : l.bytes.length = 45 := by
  simp [Label.bytes, bytes32, bytes16, padSerial_length]

theorem staleByte_bits (b : Bool) : (if b then (1 : Byte) else 0).getLsbD 0 = b
    ∧ ∀ i : Nat, 1 ≤ i → (if b then (1 : Byte) else 0).getLsbD i = false := by
  cases b
  · exact ⟨rfl, fun i _ => by simp⟩
  · exact ⟨rfl, fun i hi => by simp; omega⟩

/-- Settles O39. -/
theorem ringReadReturnsLabels : Obligations.RingReadReturnsLabels := by
  refine ⟨fun entries => rfl, fun l hl => ⟨l.bytes_length, padSerial l.serial,
    (l.worst.map fun w => BitVec.ofNat 8 w.1.val).getD absentByte, if l.calStale then 1 else 0,
    ((l.worst.map fun w => w.2).getD 0), ?_, padSerial_eq hl, fun h => ?_, fun b m h => ?_, staleByte_bits _⟩,
    by decide, by decide, by decide, by decide, fun s tag i k body hs hl hk hk4 => ?_⟩
  · rw [Label.bytes]
    cases l.worst <;> rfl
  · rw [h]; exact ⟨rfl, rfl⟩
  · rw [h]; exact ⟨rfl, rfl⟩
  · have hval : (BitVec.ofNat 8 k).toNat = k := by rw [BitVec.toNat_ofNat]; omega
    refine ⟨fun h => ?_, fun h => ?_⟩
    · obtain ⟨entries, he, hspec⟩ := s.dev.labels.readFrom_ok k i h
      refine ⟨entries, ?_, hspec⟩
      rw [exec_command rfl hs (by rw [hl]; decide) rfl, entryOf_ofNat]
      simp only [hval, hk, hk4, and_self, if_true, he, State.answered_ok]
    · have hnone := s.dev.labels.readFrom_none k i h
      rw [exec_command rfl hs (by rw [hl]; decide) rfl, entryOf_ofNat]
      simp only [hval, hk, hk4, and_self, if_true, hnone, State.answered_refuse]

end Sys2Proof.Machine

namespace Sys2Proof.Machine

/-! ## Messages that do not fit (O27) -/

theorem lengthFits_iff {type : Byte} (ht : type ≠ 0x0E) (body : List Byte) :
    lengthFits type body = true ↔ body.length ∈ bodyLengths type := by
  rw [lengthFits, if_neg ht, List.contains_iff_mem]

theorem confirmOf_length {body : List Byte} {c : Option Byte} (h : confirmOf body = some c) :
    lengthFits 0x1D body = true := by
  refine lengthFits_of_mem (by decide) ?_
  unfold confirmOf at h
  split at h
  · decide
  · simp [bodyLengths]
  · cases h

/-- LINK RESET with a body of another length than 0 or 1 is a command like the others. -/
theorem exec_linkReset_badLength {s : State} {tag : Byte} {body : List Byte} (hs : s.Heads 0x1D tag body)
    (hl : lengthFits 0x1D body = false) (confirm : Option Byte) (order : List NestId) :
    exec (.linkReset tag confirm order) s = .next (s.repliedWith 0x1D tag .badLength .none s.dev) := by
  obtain ⟨rest, hq⟩ := State.heads_queue hs
  have hno : confirmOf body ≠ some confirm := fun h => by
    rw [confirmOf_length h] at hl
    cases hl
  have hcommand := State.runCommand_badLength (agrees := fun b => decide (confirmOf b = some confirm))
    (act := fun d => .refuse d .badField) hs hl
  change execLinkReset _ _ _ _ = _
  simp only [execLinkReset, hq, hno, false_and, and_false, if_false, hcommand]

theorem exec_badLength {c : Instr} {s : State} {type tag : Byte} {body : List Byte} (hs : s.Heads type tag body)
    (hc : rowCommand c = some (type, tag)) (hl : lengthFits type body = false) :
    exec c s = .next (s.repliedWith type tag .badLength .none s.dev) := by
  cases c <;> simp only [rowCommand, Option.some.injEq, Prod.mk.injEq, reduceCtorEq] at hc <;> obtain ⟨rfl, rfl⟩ := hc
  case linkReset confirm order => exact exec_linkReset_badLength hs hl confirm order
  all_goals
    change Host.Outcome.next (s.runCommand _ _ _ _) = _
    rw [State.runCommand_badLength hs hl]

theorem exec_unknownType {s : State} {type tag : Byte} {body : List Byte} (hs : s.Heads type tag body)
    (h : isCommandType type = false) :
    exec (.unknownType tag type) s = .next (s.repliedWith type tag .unknownType .none s.dev) := by
  obtain ⟨rest, hq⟩ := State.heads_queue hs
  change execUnknownType _ _ _ = _
  simp [execUnknownType, hq, h]

theorem tableKindOf_cases {kind : Byte} :
    (kind.toNat = 0 → tableKindOf kind = some .planHeader) ∧ (kind.toNat = 1 → tableKindOf kind = some .segment)
    ∧ (kind.toNat = 2 → tableKindOf kind = some .band) ∧ (kind.toNat = 3 → tableKindOf kind = some .reference)
    ∧ (kind.toNat = 4 → tableKindOf kind = some .verdict) ∧ (4 < kind.toNat → tableKindOf kind = none) := by
  revert kind
  decide

theorem lengthFits_tableWrite (kind : Byte) (rest : List Byte) :
    lengthFits 0x0E (kind :: rest) = tableWriteLengthFits (kind :: rest) := rfl

/-- Settles O27. -/
theorem unfitMessagesAnswered : Obligations.UnfitMessagesAnswered := by
  refine ⟨fun s type tag body hs => ⟨exec_unknownType hs, fun c hc hl => exec_badLength hs hc hl⟩, fun type => ?_,
    ?_, rfl, fun kind rest => ?_⟩
  · simp [isCommandType]
  · intro x hx body
    obtain ⟨ht, hb⟩ := (by decide : ∀ y ∈ ([(0x01, [1]), (0x02, [0]), (0x03, [24]), (0x04, [1]), (0x05, [3]),
      (0x06, [2]), (0x07, [2]), (0x08, [2]), (0x09, [4]), (0x0A, [2]), (0x0B, [1]), (0x0C, [6]), (0x0D, [4]),
      (0x0F, [0, 3]), (0x10, [0]), (0x11, [0]), (0x12, [0]), (0x13, [1]), (0x14, [2]), (0x15, [2]), (0x16, [2]),
      (0x17, [2]), (0x18, [2]), (0x19, [23]), (0x1A, [6]), (0x1B, [5]), (0x1C, [13]),
      (0x1D, [0, 1])] : List (Byte × List Nat)), y.1 ≠ 0x0E ∧ bodyLengths y.1 = y.2) x hx
    rw [lengthFits_iff ht, hb]
  · obtain ⟨h0, h1, h2, h3, h4, hhigh⟩ := tableKindOf_cases (kind := kind)
    rw [lengthFits_tableWrite]
    refine ⟨fun h => ?_, fun h => ?_, fun h => ?_, fun h => ?_⟩
    · simp [tableWriteLengthFits, h0 h]
    · rcases h with h | h | h
      · simp [tableWriteLengthFits, h1 h]
      · simp [tableWriteLengthFits, h2 h]
      · simp [tableWriteLengthFits, h4 h]
    · simp [tableWriteLengthFits, h3 h]
    · simp [tableWriteLengthFits, hhigh h]
      omega

/-! ## CAPTURE FETCH and CAPTURE RELEASE (O42) -/

theorem bytes32_length (w : Word32) : (bytes32 w).length = 4 := rfl

/-- A sample of a block that the chain holds (R147). -/
theorem chainSample_block (m : List Host.Cell) (c : Chain) {block chunk k : Nat} (hb : block < c.blocks.length)
    (hc : chunk ≤ 63) (hk : k < 64) : chainSample m c (4096 * block + 64 * chunk + k)
      = if 4096 * block + 64 * chunk + k < c.sampleCount then readSample m (c.blocks.getD block 0) (64 * chunk + k)
        else 0 := by
  have hdiv : (4096 * block + 64 * chunk + k) / 4096 = block := by omega
  have hmod : (4096 * block + 64 * chunk + k) % 4096 = 64 * chunk + k := by omega
  simp only [chainSample, hdiv, hmod, List.getElem?_eq_getElem hb, List.getD_eq_getElem?_getD, Option.getD_some]

theorem exec_captureFetch {s : State} {tag block chunk : Byte} {label : Word32} {i : EntryId} {c : Chain}
    (hc : s.dev.labels.chainOf label = some (i, c)) (hs : s.Heads 0x0C tag (bytes32 label ++ [block, chunk]))
    (h63 : chunk.toNat ≤ 63) (h31 : block.toNat ≤ 31) (hb : block.toNat < c.blocks.length) :
    exec (.captureFetch tag label block chunk) s = .next (s.repliedWith 0x0C tag .ok
      (captureData s.samples label c block.toNat chunk.toNat) s.dev) := by
  rw [exec_command rfl hs (by simp [bytes32_length, bodyLengths]) (decide_eq_true rfl), if_neg (by omega)]
  simp only [hc, if_pos hb, State.answered_ok]

theorem exec_captureRelease {s : State} {tag : Byte} {label : Word32} {i : EntryId} {c : Chain}
    (hc : s.dev.labels.chainOf label = some (i, c)) (hs : s.Heads 0x0D tag (bytes32 label)) :
    exec (.captureRelease tag label) s = .next (s.repliedWith 0x0D tag .ok (.released label c.blocks.length)
      (s.dev.releaseChain i c)) := by
  rw [exec_command rfl hs (by simp [bytes32_length, bodyLengths]) (decide_eq_true rfl), hc]
  rfl

/-- Settles O42. -/
theorem captureCommands : Obligations.CaptureCommands := by
  refine fun s tag label i c hc => ⟨fun block chunk hs h63 h31 hb => ?_, fun hs =>
    ⟨_, exec_captureRelease hc hs, rfl, fun j => ?_, ?_, rfl⟩⟩
  · refine ⟨_, _, exec_captureFetch hc hs h63 h31 hb, rfl, by simp, fun k hk => ?_, ?_⟩
    · rw [List.getElem?_map, List.getElem?_range hk, Option.map_some, chainSample_block s.samples c hb h63 hk]
    · simp [ReplyData.bytes, bytes32]
      rfl
  · by_cases h : j = i
    · subst h
      simp [Device.releaseChain, Device.freeChain]
      rfl
    · have hv : i.val ≠ j.val := fun e => h (Fin.ext e.symm)
      simp [Device.releaseChain, Device.freeChain, hv]
  · simp [Device.releaseChain, Device.freeChain]

/-! ## CORRECTION READ and CORRECTION CLEAR, DRIFT SETTINGS WRITE (O45) -/

theorem exec_correctionClear {s : State} {tag : Byte} {n : NestId} {p : PlanId} {body : List Byte}
    (hs : s.Heads 0x16 tag body) (hl : body.length = 2) :
    exec (.correctionClear tag (BitVec.ofNat 8 n.val) (BitVec.ofNat 8 p.val)) s = .next (s.answered tag 0x16
      (if s.dev.usesPlan n p then .refuse s.dev .refusedState
        else .ok (s.dev.clearCorrection n p) ((s.dev.clearCorrection n p).correctionData n p (BitVec.ofNat 8 n.val)
          (BitVec.ofNat 8 p.val)))) := by
  rw [exec_command rfl hs (by rw [hl]; decide) rfl, nestOf_ofNat, planOf_ofNat]

theorem Device.usesPlan_iff (d : Device) (n : NestId) (p : PlanId) : d.usesPlan n p = true
    ↔ (d.nest n).state.inTest = true ∧ ∃ r, (d.nest n).record = some r ∧ r.plan = p := by
  cases hr : (d.nest n).record <;> simp [Device.usesPlan, hr]

/-- What the replacement of a calibration record does (R137). -/
theorem Device.replaceCal_spec (d : Device) (n : NestId) (p : PlanId) (c : CalRecord) (cause : CalCause) :
    (d.replaceCal n p c cause).calibration = d.calibration.setRecord n p c
    ∧ (c.state ≠ (d.calibration.record n p).state → (d.replaceCal n p c cause).notices = { d.notices with
        pending := d.notices.pending.set (calSource n) true
        calCause := d.notices.calCause.set n (some (cause, some p)) })
    ∧ (c.state = (d.calibration.record n p).state → (d.replaceCal n p c cause).notices = d.notices)
    ∧ d.replaceCal n p c cause = { d with
        calibration := (d.replaceCal n p c cause).calibration, notices := (d.replaceCal n p c cause).notices } := by
  by_cases h : c.state = (d.calibration.record n p).state
  · simp only [Device.replaceCal, if_pos h]
    exact ⟨trivial, fun k => absurd h k, fun _ => trivial, trivial⟩
  · simp only [Device.replaceCal, if_neg h]
    exact ⟨rfl, fun _ => rfl, fun k => absurd k h, rfl⟩

theorem exec_driftSettingsWrite {s : State} {tag : Byte} {body : List Byte} (hs : s.Heads 0x1B tag body)
    (hl : body.length = 5) (sel : DriftSel) (w m : Option Nat) :
    exec (.driftSettingsWrite tag (some sel) w m) s = .next (s.answered tag 0x1B
      (if s.dev.driftFits (selectedNests sel) w m then
        .ok (s.dev.setDrift (selectedNests sel) w m) (.drift ((selectedNests sel).map (s.dev.driftReport w m)))
      else .refuse s.dev .badField)) := by
  rw [exec_command rfl hs (by rw [hl]; decide) rfl]

/-- DRIFT SETTINGS WRITE with every field UNCHANGED changes nothing (R123). -/
theorem Device.setDrift_unchanged (d : Device) (nests : List NestId) : d.setDrift nests none none = d := by
  have hwindows : (Vector.ofFn fun n : NestId =>
      if nests.contains n then d.calibration.drift[n].set none none else d.calibration.drift[n])
      = d.calibration.drift := by
    apply Vector.ext
    intro i hi
    rw [Vector.getElem_ofFn]
    split <;> rfl
  simp only [Device.setDrift, hwindows]

/-- Settles O45. -/
theorem calibrationCommands : Obligations.CalibrationCommands := by
  refine ⟨fun s tag n p body hl => ⟨fun hs => ?_, fun hs hin hr => ?_, fun hs h => ?_⟩,
    fun s tag n w m body hs hl => ⟨fun h10 hw hm hmw => ?_, fun hmw => ?_, fun h => ?_⟩⟩
  · rw [exec_command rfl hs (by rw [hl]; decide) rfl, nestOf_ofNat, planOf_ofNat]
    rfl
  · rw [exec_correctionClear hs hl, if_pos ((s.dev.usesPlan_iff n p).mpr ⟨hin, hr⟩), State.answered_refuse]
  · have hno : ¬ s.dev.usesPlan n p = true := fun k => by
      obtain ⟨hin, r, hr, hp⟩ := (s.dev.usesPlan_iff n p).mp k
      rcases h with h | h
      · rw [h] at hin; cases hin
      · exact h r hr hp
    obtain ⟨hcal, hnew, hsame, hframe⟩ := s.dev.replaceCal_spec n p
      (clearedRecord (s.dev.activeReferenceValid p) s.dev.tables.activeGeneration) .clear
    have hrec : (s.dev.clearCorrection n p).calibration.record n p
        = clearedRecord (s.dev.activeReferenceValid p) s.dev.tables.activeGeneration := by
      rw [Device.clearCorrection, hcal, CalibrationStore.record_setRecord_same]
    refine ⟨s.dev.clearCorrection n p, _, by rw [exec_correctionClear hs hl, if_neg hno, State.answered_ok], ?_,
      fun i => ?_, fun b hb => ?_, fun hb => ?_, fun k q hk => ?_, ?_, fun k => ?_, fun k => ?_, hframe⟩
    · rw [hrec]; rfl
    · rw [hrec]; exact Vector.getElem_replicate i.isLt
    · rw [hrec]; simp only [clearedRecord, TableStore.activeGeneration, hb]
    · rw [hrec]; simp only [clearedRecord, TableStore.activeGeneration, hb]
    · rw [Device.clearCorrection, hcal, CalibrationStore.record_setRecord_ne _ _ hk]
    · rw [Device.clearCorrection, hcal, CalibrationStore.setRecord_drift]
    · rw [hrec] at k; exact hnew k
    · rw [hrec] at k; exact hsame k
  · have hfit : s.dev.driftFits [n] (some w) (some m) = true := by
      simp [Device.driftFits, h10, hw, hm, hmw, Nat.le_trans hmw hw]
    refine ⟨s.dev.setDrift [n] (some w) (some m), ?_, ?_, fun k hk => ?_, rfl, rfl⟩
    · rw [exec_driftSettingsWrite hs hl, selectedNests, if_pos hfit]
      rfl
    · simp [Device.setDrift, DriftWindow.set]
    · simp [Device.setDrift, hk]
  · have hfit : ¬ s.dev.driftFits (selectedNests .all) (some w) (some m) = true := by
      simp [Device.driftFits, selectedNests, hmw]
    rw [exec_driftSettingsWrite hs hl, if_neg hfit, State.answered_refuse]
  · have hfit : s.dev.driftFits (selectedNests .all) none none = true := by
      simpa [Device.driftFits, selectedNests] using h
    exact ⟨_, by rw [exec_driftSettingsWrite hs hl, if_pos hfit, Device.setDrift_unchanged, State.answered_ok]⟩

/-! ## NOTICE CONFIG (O46) -/

theorem noticeFieldsOf_length {body : List Byte} {x} (h : noticeFieldsOf body = some x) : body.length = 13 := by
  unfold noticeFieldsOf at h
  split at h
  · rfl
  · cases h

theorem noticeConfigFits_given {p : Vector Byte 9} {count threshold : Byte} {time : Word16}
    (hp : ∀ i : Fin 9, (p[i]).toNat ≤ 15) (hc : 1 ≤ count.toNat ∧ count.toNat ≤ 32)
    (ht : 1 ≤ time.toNat ∧ time.toNat ≤ 1000) (hth : threshold.toNat ≤ 63) :
    noticeConfigFits (Vector.ofFn fun i => some p[i]) (some count) (some time) (some threshold) = true := by
  simp [noticeConfigFits, hc, ht, hth]
  exact fun i hi => hp ⟨i, hi⟩

theorem NoticeArbiter.configReaches_given (a : NoticeArbiter) (count : Byte) (time : Word16) :
    a.configReaches (some count) (some time) = true
    ↔ (a.labelsPosted ≠ 0 ∧ count.toNat ≤ a.labelsPosted.toNat) ∨ ∃ t, a.timer = some t ∧ 96 * time.toNat ≤ t := by
  simp only [NoticeArbiter.configReaches, Option.any_some, Bool.or_eq_true, Bool.and_eq_true, decide_eq_true_eq,
    Option.any_eq_true]
  rfl

/-- Settles O46. -/
theorem noticeConfigSets : Obligations.NoticeConfigSets := by
  intro s tag p count time threshold body hs hl hf hp hc1 hc32 ht1 ht1000 hth
  have hexec : exec (.noticeConfig tag (Vector.ofFn fun i => some p[i]) (some count) (some time) (some threshold)) s
      = .next (s.repliedWith 0x1C tag .ok (s.dev.noticeConfig (Vector.ofFn fun i => some p[i]) (some count) (some time)
          (some threshold)).noticeSettingsData
        (s.dev.noticeConfig (Vector.ofFn fun i => some p[i]) (some count) (some time) (some threshold))) := by
    rw [exec_command rfl hs (by rw [hl]; decide) (decide_eq_true hf),
      if_pos (noticeConfigFits_given hp ⟨hc1, hc32⟩ ⟨ht1, ht1000⟩ hth), State.answered_ok]
  refine ⟨_, _, hexec, ?_⟩
  have hreach := s.dev.notices.configReaches_given count time
  by_cases h : s.dev.notices.configReaches (some count) (some time) = true
  · simp only [Device.noticeConfig, if_pos h]
    refine ⟨fun i => ?_, rfl, rfl, rfl, rfl, fun i hi => ?_, ?_, rfl⟩
    · simp [NoticeArbiter.raise, NoticeArbiter.configure]
    · exact NoticeArbiter.raise_pending_ne _ hi
    · exact iff_of_true (NoticeArbiter.raise_pending_same _ _) (Or.inr (hreach.mp h))
  · simp only [Device.noticeConfig, if_neg h]
    refine ⟨fun i => ?_, rfl, rfl, rfl, rfl, fun i hi => ?_, ?_, ?_⟩
    · simp [NoticeArbiter.configure]
    · simp [NoticeArbiter.configure]
    · exact ⟨Or.inl, fun k => k.resolve_right (mt hreach.mpr h)⟩
    · trivial

end Sys2Proof.Machine

namespace Sys2Proof.Machine

/-! ## Field codes (R154): a code is accepted exactly when it is that of a value in the range -/

theorem stepValue_iff {bottom step top v : Int} {code : Nat} (hs : 0 < step) :
    stepValue bottom step top code = some v ↔ OnSteps bottom step top v ∧ stepCode bottom step v = code := by
  simp only [stepValue, stepCode, OnSteps, Option.ite_none_right_eq_some, Option.some.injEq]
  constructor
  · rintro ⟨htop, rfl⟩
    have hsub : bottom + step * code - bottom = step * code := by omega
    have hpos : 0 ≤ step * (code : Int) := Int.mul_nonneg hs.le (Int.natCast_nonneg code)
    refine ⟨⟨by omega, htop, by rw [hsub]; exact Int.mul_emod_right _ _⟩, ?_⟩
    rw [hsub, Int.mul_ediv_cancel_left _ hs.ne', Int.toNat_natCast]
  · rintro ⟨⟨hbot, htop, hmod⟩, rfl⟩
    have hdiv : 0 ≤ (v - bottom) / step := Int.ediv_nonneg (by omega) hs.le
    have hmul : step * ((v - bottom) / step) = v - bottom := Int.mul_ediv_cancel' (Int.dvd_of_emod_eq_zero hmod)
    rw [Int.toNat_of_nonneg hdiv, hmul]
    omega

theorem stepValue_stepCode {bottom step top v : Int} (hs : 0 < step) (h : OnSteps bottom step top v) :
    stepValue bottom step top (stepCode bottom step v) = some v := (stepValue_iff hs).mpr ⟨h, rfl⟩

theorem natValue_iff {bottom top code v : Nat} :
    natValue bottom top code = some v ↔ (bottom ≤ v ∧ v ≤ top) ∧ v - bottom = code := by
  simp only [natValue, Option.ite_none_right_eq_some, Option.some.injEq]
  omega

theorem natValue_sub {bottom top v : Nat} (h : bottom ≤ v ∧ v ≤ top) : natValue bottom top (v - bottom) = some v :=
  natValue_iff.mpr ⟨h, rfl⟩

theorem natValue_zero {top v : Nat} (h : v ≤ top) : natValue 0 top v = some v :=
  natValue_iff.mpr ⟨⟨Nat.zero_le v, h⟩, rfl⟩

theorem boolValue_iff {code : Nat} {b : Bool} : boolValue code = some b ↔ boolCode b = code := by
  simp only [boolValue, boolCode]
  split <;> cases b <;> simp_all [eq_comm]

theorem boolValue_boolCode (b : Bool) : boolValue (boolCode b) = some b := boolValue_iff.mpr rfl

theorem capturePolicyOf_iff {code : Nat} {x : CapturePolicy} : capturePolicyOf code = some x ↔ x.code = code := by
  simp only [capturePolicyOf, CapturePolicy.code]
  split_ifs <;> cases x <;> simp_all [eq_comm]

theorem capturePolicyOf_code (x : CapturePolicy) : capturePolicyOf x.code = some x := capturePolicyOf_iff.mpr rfl

theorem segmentKindOf_iff {code : Nat} {x : SegmentKind} : segmentKindOf code = some x ↔ x.code = code := by
  simp only [segmentKindOf, SegmentKind.code]
  split_ifs <;> cases x <;> simp_all [eq_comm]

theorem segmentKindOf_code (x : SegmentKind) : segmentKindOf x.code = some x := segmentKindOf_iff.mpr rfl

theorem labelClassOf_iff {code : Nat} {x : LabelClass} : labelClassOf code = some x ↔ x.code.toNat = code := by
  simp only [labelClassOf, LabelClass.code]
  split_ifs <;> cases x <;> simp_all [eq_comm]

theorem labelClassOf_code (x : LabelClass) : labelClassOf x.code.toNat = some x := labelClassOf_iff.mpr rfl

theorem captureOverrideOf_iff {code : Nat} {x : CaptureOverride} : captureOverrideOf code = some x ↔ x.code = code := by
  simp only [captureOverrideOf, CaptureOverride.code]
  split_ifs <;> cases x <;> simp_all [eq_comm]

theorem captureOverrideOf_code (x : CaptureOverride) : captureOverrideOf x.code = some x :=
  captureOverrideOf_iff.mpr rfl

theorem stepValue_bind {α : Type} {bottom step top : Int} {code : Nat} {f : Int → Option α} {y : α} (hs : 0 < step)
    (h : (stepValue bottom step top code).bind f = some y) :
    ∃ v, OnSteps bottom step top v ∧ stepCode bottom step v = code ∧ f v = some y := by
  obtain ⟨v, hv, hf⟩ := Option.bind_eq_some_iff.mp h
  obtain ⟨hrange, hcode⟩ := (stepValue_iff hs).mp hv
  exact ⟨v, hrange, hcode, hf⟩

theorem natValue_bind {α : Type} {bottom top code : Nat} {f : Nat → Option α} {y : α}
    (h : (natValue bottom top code).bind f = some y) : ∃ v, (bottom ≤ v ∧ v ≤ top) ∧ v - bottom = code ∧ f v = some y := by
  obtain ⟨v, hv, hf⟩ := Option.bind_eq_some_iff.mp h
  obtain ⟨hrange, hcode⟩ := natValue_iff.mp hv
  exact ⟨v, hrange, hcode, hf⟩

theorem boolValue_bind {α : Type} {code : Nat} {f : Bool → Option α} {y : α}
    (h : (boolValue code).bind f = some y) : ∃ v, boolCode v = code ∧ f v = some y := by
  obtain ⟨v, hv, hf⟩ := Option.bind_eq_some_iff.mp h
  exact ⟨v, boolValue_iff.mp hv, hf⟩

theorem capturePolicyOf_bind {α : Type} {code : Nat} {f : CapturePolicy → Option α} {y : α}
    (h : (capturePolicyOf code).bind f = some y) : ∃ v, CapturePolicy.code v = code ∧ f v = some y := by
  obtain ⟨v, hv, hf⟩ := Option.bind_eq_some_iff.mp h
  exact ⟨v, capturePolicyOf_iff.mp hv, hf⟩

/-! ## Row images (R154, R155) -/

theorem planHeaderOf_image {h : PlanHeader} (hr : h.InRange) : planHeaderOf h.image = some h := by
  obtain ⟨h1, h2, h3, h4, h5, h6, h7, h8, h9, h10, h11, h12, h13, h14, h15, h16, h17⟩ := hr
  simp only [planHeaderOf, PlanHeader.image, boolValue_boolCode, capturePolicyOf_code, natValue_sub h1, natValue_sub h2,
    natValue_sub h3, stepValue_stepCode (by decide) h4, stepValue_stepCode (by decide) h5,
    stepValue_stepCode (by decide) h6, natValue_sub h7, stepValue_stepCode (by decide) h8, natValue_zero h9,
    stepValue_stepCode (by decide) h10, natValue_zero h11, stepValue_stepCode (by decide) h12, natValue_zero h13,
    natValue_zero h14, natValue_sub h15, natValue_sub h16, stepValue_stepCode (by decide) h17, Option.bind_eq_bind,
    Option.bind_some]

theorem planHeaderOf_some {codes : List Nat} {h : PlanHeader} (hc : planHeaderOf codes = some h) :
    h.InRange ∧ h.image = codes := by
  unfold planHeaderOf at hc
  split at hc
  · obtain ⟨_, rfl, k1⟩ := boolValue_bind hc
    obtain ⟨_, h1, rfl, k2⟩ := natValue_bind k1
    obtain ⟨_, h2, rfl, k3⟩ := natValue_bind k2
    obtain ⟨_, h3, rfl, k4⟩ := natValue_bind k3
    obtain ⟨_, h4, rfl, k5⟩ := stepValue_bind (by decide) k4
    obtain ⟨_, h5, rfl, k6⟩ := stepValue_bind (by decide) k5
    obtain ⟨_, h6, rfl, k7⟩ := stepValue_bind (by decide) k6
    obtain ⟨_, h7, rfl, k8⟩ := natValue_bind k7
    obtain ⟨_, h8, rfl, k9⟩ := stepValue_bind (by decide) k8
    obtain ⟨_, h9, rfl, k10⟩ := natValue_bind k9
    obtain ⟨_, h10, rfl, k11⟩ := stepValue_bind (by decide) k10
    obtain ⟨_, h11, rfl, k12⟩ := natValue_bind k11
    obtain ⟨_, h12, rfl, k13⟩ := stepValue_bind (by decide) k12
    obtain ⟨_, h13, rfl, k14⟩ := natValue_bind k13
    obtain ⟨_, h14, rfl, k15⟩ := natValue_bind k14
    obtain ⟨_, h15, rfl, k16⟩ := natValue_bind k15
    obtain ⟨_, rfl, k17⟩ := capturePolicyOf_bind k16
    obtain ⟨_, h16, rfl, k18⟩ := natValue_bind k17
    obtain ⟨_, rfl, k19⟩ := boolValue_bind k18
    obtain ⟨_, h17, rfl, k20⟩ := stepValue_bind (by decide) k19
    obtain rfl := Option.some.inj k20
    exact ⟨⟨h1, h2, h3, h4, h5, h6, h7, h8, h9.2, h10, h11.2, h12, h13.2, h14.2, h15, h16, h17⟩, rfl⟩
  · cases hc

theorem segmentOf_image {x : Segment} (hr : x.InRange) : segmentOf x.image = some x := by
  obtain ⟨h1, h2, h3, h4, h5, h6⟩ := hr
  simp only [segmentOf, Segment.image, boolValue_boolCode, segmentKindOf_code, natValue_sub h1, natValue_sub h2,
    stepValue_stepCode (by decide) h3, natValue_sub h4, natValue_zero h5, Option.bind_eq_bind, Option.bind_some,
    if_pos h6]

theorem segmentOf_some {codes : List Nat} {x : Segment} (hc : segmentOf codes = some x) :
    x.InRange ∧ x.image = codes := by
  unfold segmentOf at hc
  split at hc
  · simp only [Option.bind_eq_bind, Option.bind_eq_some_iff, natValue_iff, boolValue_iff, segmentKindOf_iff,
      stepValue_iff (show (0 : Int) < 5 by decide), Option.ite_none_right_eq_some, Option.some.injEq] at hc
    obtain ⟨_, rfl, _, ⟨h1, rfl⟩, _, ⟨h2, rfl⟩, _, ⟨h3, rfl⟩, _, ⟨h4, rfl⟩, _, ⟨h5, rfl⟩, _, rfl, _, rfl, h6, rfl⟩ := hc
    exact ⟨⟨h1, h2, h3, h4, h5.2, h6⟩, rfl⟩
  · cases hc

theorem bandOf_image {b : Band} (hr : b.InRange) : bandOf b.image = some b := by
  obtain ⟨h1, h2, h3, h4, h5, h6, h7, h8, h9, h10⟩ := hr
  simp only [bandOf, Band.image, natValue_sub h1, natValue_sub h2, stepValue_stepCode (by decide) h4,
    stepValue_stepCode (by decide) h5, natValue_sub h7, stepValue_stepCode (by decide) h8,
    stepValue_stepCode (by decide) h9, stepValue_stepCode (by decide) h10, Option.bind_eq_bind, Option.bind_some,
    if_pos (And.intro h3 h6)]

theorem bandOf_some {codes : List Nat} {b : Band} (hc : bandOf codes = some b) : b.InRange ∧ b.image = codes := by
  unfold bandOf at hc
  split at hc
  · simp only [Option.bind_eq_bind, Option.bind_eq_some_iff, natValue_iff,
      stepValue_iff (show (0 : Int) < 1 by decide), Option.ite_none_right_eq_some, Option.some.injEq] at hc
    obtain ⟨_, ⟨h1, rfl⟩, _, ⟨h2, rfl⟩, _, ⟨h3, rfl⟩, _, ⟨h4, rfl⟩, _, ⟨h5, rfl⟩, _, ⟨h6, rfl⟩, _, ⟨h7, rfl⟩,
      _, ⟨h8, rfl⟩, ⟨h9, h10⟩, rfl⟩ := hc
    exact ⟨⟨h1, h2, h9, h3, h4, h10, h5, h6, h7, h8⟩, rfl⟩
  · cases hc

theorem referenceOf_image {v : Reference} (hr : OnSteps (-1000) 1 400 v.response) : referenceOf v.image = some v := by
  simp only [referenceOf, Reference.image, boolValue_boolCode, stepValue_stepCode (by decide) hr, Option.bind_eq_bind,
    Option.bind_some]

theorem referenceOf_some {codes : List Nat} {v : Reference} (hc : referenceOf codes = some v) :
    OnSteps (-1000) 1 400 v.response ∧ v.image = codes := by
  unfold referenceOf at hc
  split at hc
  · simp only [Option.bind_eq_bind, Option.bind_eq_some_iff, boolValue_iff,
      stepValue_iff (show (0 : Int) < 1 by decide), Option.some.injEq] at hc
    obtain ⟨_, ⟨h1, rfl⟩, _, rfl, rfl⟩ := hc
    exact ⟨h1, rfl⟩
  · cases hc

theorem verdictOf_image {v : VerdictEntry} (hr : v.InRange) : verdictOf v.image = some v := by
  obtain ⟨h1, h2, h3, h4, h5⟩ := hr
  have hbin : v.bin.val ≤ 15 := by omega
  have hreq : v.require.toNat ≤ allFailures.toNat := h1
  have hexc : v.exclude.toNat ≤ allFailures.toNat := h2
  simp only [verdictOf, VerdictEntry.image, boolValue_boolCode, labelClassOf_code, captureOverrideOf_code,
    natValue_zero hreq, natValue_zero hexc, natValue_zero hbin, natValue_zero h4, natValue_sub h5,
    Option.bind_eq_bind, Option.bind_some, BitVec.ofNat_toNat, BitVec.setWidth_eq, if_pos h3, Fin.ofNat_val_eq_self]

theorem verdictOf_some {codes : List Nat} {v : VerdictEntry} (hc : verdictOf codes = some v) :
    v.InRange ∧ v.image = codes := by
  unfold verdictOf at hc
  split at hc
  · simp only [Option.bind_eq_bind, Option.bind_eq_some_iff, natValue_iff, boolValue_iff, labelClassOf_iff,
      captureOverrideOf_iff, Option.ite_none_right_eq_some, Option.some.injEq] at hc
    obtain ⟨require, ⟨⟨_, h1⟩, rfl⟩, exclude, ⟨⟨_, h2⟩, rfl⟩, _, rfl, _, rfl, bin, ⟨⟨_, h3⟩, rfl⟩, actions, ⟨⟨_, h4⟩, rfl⟩,
      _, ⟨h5, rfl⟩, _, rfl, h6, rfl⟩ := hc
    have hmax : allFailures.toNat = 0x1FFF := by decide
    rw [hmax] at h1 h2
    have hreq : (BitVec.ofNat 16 require).toNat = require := by rw [BitVec.toNat_ofNat]; omega
    have hexc : (BitVec.ofNat 16 exclude).toNat = exclude := by rw [BitVec.toNat_ofNat]; omega
    have hact : (BitVec.ofNat 8 actions).toNat = actions := by rw [BitVec.toNat_ofNat]; omega
    have hbin : (Fin.ofNat 16 bin).val = bin := by simp; omega
    refine ⟨⟨?_, ?_, h6, ?_, h5⟩, ?_⟩
    · rw [hreq]; exact h1
    · rw [hexc]; exact h2
    · rw [hact]; exact h4
    · simp only [VerdictEntry.image, hreq, hexc, hact, hbin, Nat.sub_zero]
  · cases hc

end Sys2Proof.Machine

namespace Sys2Proof.Machine

/-! ## TABLE WRITE (O47) -/

theorem rowChange_planHeader (p : PlanId) (row : Byte) (codes : List Nat) :
    rowChange 0 (BitVec.ofNat 8 p.val) row codes = if row = 0 then
      (planHeaderOf codes).map fun h r => r.modPlan p fun x => { x with header := h } else none := by
  simp only [rowChange, planOf_ofNat, Option.map_eq_bind]
  rfl

theorem rowChange_segment (p : PlanId) (row : Byte) (codes : List Nat) :
    rowChange 1 (BitVec.ofNat 8 p.val) row codes = if h : row.toNat < 24 then
      (segmentOf codes).map fun s r => r.modPlan p fun x => { x with segments := x.segments.set row.toNat s }
      else none := by
  simp only [rowChange, planOf_ofNat, Option.map_eq_bind]
  rfl

theorem rowChange_band (p : PlanId) (row : Byte) (codes : List Nat) :
    rowChange 2 (BitVec.ofNat 8 p.val) row codes = if h : row.toNat < 32 then
      (bandOf codes).map fun b r => r.modPlan p fun x => { x with bands := x.bands.set row.toNat b } else none := by
  simp only [rowChange, planOf_ofNat, Option.map_eq_bind]
  rfl

theorem rowChange_reference (p : PlanId) (row : Byte) (codes : List Nat) :
    rowChange 3 (BitVec.ofNat 8 p.val) row codes = if h : row.toNat < 32 then
      (referenceOf codes).map fun v r => r.modPlan p fun x => { x with references := x.references.set row.toNat v }
      else none := by
  simp only [rowChange, planOf_ofNat, Option.map_eq_bind]
  rfl

theorem rowChange_verdict (p : PlanId) (row : Byte) (codes : List Nat) :
    rowChange 4 (BitVec.ofNat 8 p.val) row codes = if h : row.toNat < 16 then if p = 0 then
      (verdictOf codes).map fun v r => { r with verdicts := r.verdicts.set row.toNat v } else none else none := by
  simp only [rowChange, planOf_ofNat, Option.map_eq_bind]
  rfl

theorem rowChange_none {kind plan : Byte} (row : Byte) (codes : List Nat) (h : 4 < kind.toNat ∨ 7 < plan.toNat) :
    rowChange kind plan row codes = none := by
  rcases h with h | h
  · simp only [rowChange, tableKindOf_cases.2.2.2.2.2 h, Option.bind_eq_bind, Option.bind_none]
  · simp only [rowChange, planOf_none h, Option.bind_eq_bind, Option.bind_none]
    cases tableKindOf kind <;> rfl

theorem planHeaderOf_isSome {codes : List Nat} :
    (planHeaderOf codes).isSome = true ↔ ∃ h : PlanHeader, h.InRange ∧ h.image = codes :=
  Option.isSome_iff_exists.trans
    ⟨fun ⟨h, hc⟩ => ⟨h, planHeaderOf_some hc⟩, fun ⟨h, hr, hi⟩ => ⟨h, hi ▸ planHeaderOf_image hr⟩⟩

theorem segmentOf_isSome {codes : List Nat} :
    (segmentOf codes).isSome = true ↔ ∃ x : Segment, x.InRange ∧ x.image = codes :=
  Option.isSome_iff_exists.trans
    ⟨fun ⟨h, hc⟩ => ⟨h, segmentOf_some hc⟩, fun ⟨h, hr, hi⟩ => ⟨h, hi ▸ segmentOf_image hr⟩⟩

theorem bandOf_isSome {codes : List Nat} :
    (bandOf codes).isSome = true ↔ ∃ b : Band, b.InRange ∧ b.image = codes :=
  Option.isSome_iff_exists.trans
    ⟨fun ⟨h, hc⟩ => ⟨h, bandOf_some hc⟩, fun ⟨h, hr, hi⟩ => ⟨h, hi ▸ bandOf_image hr⟩⟩

theorem referenceOf_isSome {codes : List Nat} :
    (referenceOf codes).isSome = true ↔ ∃ v : Reference, OnSteps (-1000) 1 400 v.response ∧ v.image = codes :=
  Option.isSome_iff_exists.trans
    ⟨fun ⟨h, hc⟩ => ⟨h, referenceOf_some hc⟩, fun ⟨h, hr, hi⟩ => ⟨h, hi ▸ referenceOf_image hr⟩⟩

theorem verdictOf_isSome {codes : List Nat} :
    (verdictOf codes).isSome = true ↔ ∃ v : VerdictEntry, v.InRange ∧ v.image = codes :=
  Option.isSome_iff_exists.trans
    ⟨fun ⟨h, hc⟩ => ⟨h, verdictOf_some hc⟩, fun ⟨h, hr, hi⟩ => ⟨h, hi ▸ verdictOf_image hr⟩⟩

/-- The number of a row as a byte. -/
theorem rowByte_toNat {m : Nat} (hm : m ≤ 32) (i : Fin m) : (BitVec.ofNat 8 i.val).toNat = i.val := by
  rw [BitVec.toNat_ofNat]
  omega

theorem row_eq_zero (row : Byte) : row = 0 ↔ row.toNat = 0 := BitVec.toNat_inj.symm

/-- TABLE WRITE at its execution: the checks of Table 9-3 in order. -/
theorem exec_tableWrite {s : State} {tag kind plan row : Byte} {codes : List Word16} {body : List Byte}
    (hs : s.Heads 0x0E tag body) (hl : lengthFits 0x0E body = true) (hb : tableBodyIs kind plan row codes body = true) :
    exec (.tableWrite tag kind plan row codes) s
      = .next (s.answered tag 0x0E (s.dev.tableWrite kind plan row (codes.map BitVec.toNat))) := by
  change Host.Outcome.next (s.runCommand _ _ _ _) = _
  rw [State.runCommand_heads hs hl hb]

/-- Settles O47: the answers by the order of the checks, the codes by the row images. -/
theorem tableWriteReplacesRow : Obligations.TableWriteReplacesRow := by
  refine ⟨fun s tag kind plan row codes body hs hl hb => ?_, fun kind plan row codes h => rowChange_none row codes h,
    fun p row codes => ⟨?_, ?_, ?_, ?_, ?_⟩,
    fun r p f => ⟨fun h hr hf => ?_, fun i x hr hf => ?_, fun i b hr hf => ?_, fun i v hr hf => ?_, fun i v hr hf => ?_⟩⟩
  · rw [exec_tableWrite hs hl hb]
    refine ⟨fun hbl => ?_, fun hbl hc => ?_, fun f hbl hc => ⟨fun hst => ?_, fun b hst => ⟨fun hop => ?_, fun hop => ?_⟩⟩⟩
    · simp only [Device.tableWrite, hbl, if_true, State.answered_refuse]
    · simp only [Device.tableWrite, hbl, hc, if_neg Bool.false_ne_true, State.answered_refuse]
    · simp only [Device.tableWrite, hbl, hc, hst, if_neg Bool.false_ne_true, State.answered_refuse]
    · simp only [Device.tableWrite, hbl, hc, hst, if_neg hop, if_neg Bool.false_ne_true, State.answered_refuse]
    · simp only [Device.tableWrite, hbl, hc, hst, if_pos hop, if_neg Bool.false_ne_true, State.answered_ok]
      rfl
  · rw [rowChange_planHeader, ← planHeaderOf_isSome, ← row_eq_zero]
    split <;> simp_all
  · rw [rowChange_segment, ← segmentOf_isSome]
    split <;> simp_all
  · rw [rowChange_band, ← bandOf_isSome]
    split <;> simp_all
  · rw [rowChange_reference, ← referenceOf_isSome]
    split <;> simp_all
  · rw [rowChange_verdict, ← verdictOf_isSome]
    split_ifs <;> simp_all
  · rw [rowChange_planHeader, if_pos rfl, planHeaderOf_image hr, Option.map_some, Option.some.injEq] at hf
    rw [← hf]
    rfl
  · rw [rowChange_segment, dif_pos (by rw [rowByte_toNat (by decide)]; exact i.isLt), segmentOf_image hr,
      Option.map_some, Option.some.injEq] at hf
    rw [← hf]
    simp only [rowByte_toNat (m := 24) (by decide) i]
    rfl
  · rw [rowChange_band, dif_pos (by rw [rowByte_toNat (by decide)]; exact i.isLt), bandOf_image hr,
      Option.map_some, Option.some.injEq] at hf
    rw [← hf]
    simp only [rowByte_toNat (m := 32) (by decide) i]
    rfl
  · rw [rowChange_reference, dif_pos (by rw [rowByte_toNat (by decide)]; exact i.isLt), referenceOf_image hr,
      Option.map_some, Option.some.injEq] at hf
    rw [← hf]
    simp only [rowByte_toNat (m := 32) (by decide) i]
    rfl
  · have hplan := rowChange_verdict 0 (BitVec.ofNat 8 i.val) v.image
    rw [dif_pos (by rw [rowByte_toNat (by decide)]; exact i.isLt), if_pos rfl, verdictOf_image hr,
      Option.map_some] at hplan
    have he := Option.some.inj (hplan.symm.trans hf)
    rw [← he]
    simp only [rowByte_toNat (m := 16) (by decide) i]

end Sys2Proof.Machine

namespace Sys2Proof.Machine

/-! ## BANK COPY (O48) -/

theorem Device.bankCopy_taken {d : Device} {a b : BankId} (hbl : d.tables.blocked = false)
    (hop : d.tables.operation = .none) (ha : d.tables.activeBank = some a) (hb : d.tables.standby = some b) :
    d.bankCopy = { dev := { d with tables := { d.tables.modBank b fun x => { x with
        state := openedState x.state
        fingerprints := if x.state = .ready then none else x.fingerprints } with
      operation := .copy, operationTimer := 0 } }, reply := none } := by
  simp only [Device.bankCopy, hbl, hop, ha, hb, if_neg Bool.false_ne_true, ne_eq, not_true_eq_false, if_false]

theorem Device.bankCopy_refused {d : Device} (hbl : d.tables.blocked = false) (hop : d.tables.operation = .none)
    (h : d.tables.activeBank = none ∨ d.tables.standby = none) : d.bankCopy = .refuse d .refusedState := by
  simp only [Device.bankCopy, hbl, hop, if_neg Bool.false_ne_true, ne_eq, not_true_eq_false, if_false]
  split
  · simp_all
  · rfl

/-- A bank of the tables, whatever stands beside the banks. -/
theorem TableStore.bank_congr {t u : TableStore} (ha : t.bankA = u.bankA) (hb : t.bankB = u.bankB) (c : BankId) :
    t.bank c = u.bank c := by cases c <;> assumption

/-- Settles O48. -/
theorem bankCopyCopies : Obligations.BankCopyCopies := by
  refine ⟨fun s tag hs hbl => ⟨fun hop => ?_, fun hop h => ?_, fun a b hop ha hb => ?_⟩,
    fun s a b tag type hop ha hb hheld => ?_⟩
  · rw [exec_command rfl hs (by decide) rfl]
    simp only [Device.bankCopy, hbl, if_neg Bool.false_ne_true, if_pos hop, State.answered_refuse]
  · rw [exec_command rfl hs (by decide) rfl, Device.bankCopy_refused hbl hop h, State.answered_refuse]
  · refine ⟨_, by rw [exec_command rfl hs (by decide) rfl, Device.bankCopy_taken hbl hop ha hb, State.answered_held],
      rfl, ?_, ?_, ?_, ?_, rfl⟩
    case refine_4 =>
      exact (TableStore.bank_congr rfl rfl a).trans
        (TableStore.bank_modBank_ne _ _ (TableStore.standby_ne_active _ ha hb))
    all_goals
      have hbank := TableStore.bank_modBank_same s.dev.tables b fun x => { x with
        state := openedState x.state, fingerprints := if x.state = .ready then none else x.fingerprints }
    · exact (congrArg Bank.rows hbank :)
    · exact (congrArg Bank.state hbank :)
    · exact (congrArg Bank.generation hbank :)
  · have hexec : exec .bankCopyComplete s = .next ({ s with dev := s.dev.finishCopy a b }.releaseHeld .ok .none) := by
      change execBankCopyComplete s = _
      simp only [execBankCopyComplete, hop, ha, hb]
    refine ⟨_, hexec, ?_⟩
    simp only [State.releaseHeld, hheld]
    refine ⟨?_, ?_, rfl, trivial, rfl⟩
    · exact (TableStore.bank_congr rfl rfl b).trans (TableStore.bank_modBank_same _ _ _)
    · exact (TableStore.bank_congr rfl rfl a).trans
        (TableStore.bank_modBank_ne _ _ (TableStore.standby_ne_active _ ha hb))

/-! ## TABLE COMMIT (O49) -/

theorem exec_tableCommit {s : State} {tag : Byte} {body : List Byte} {fields : Option (Byte × Word16)}
    (hs : s.Heads 0x0F tag body) (hl : body.length ∈ [0, 3]) (hf : commitFieldsOf body = some fields) :
    exec (.tableCommit tag fields) s = .next (s.answered tag 0x0F (s.dev.tableCommit fields)) :=
  exec_command rfl hs hl (decide_eq_true hf)

theorem commitFieldsOf_three (c h l : Byte) : commitFieldsOf [c, h, l] = some (some (c, h ++ l)) := rfl

/-- Settles O49. -/
theorem tableCommitTakenOrSequenceError : Obligations.TableCommitTakenOrSequenceError := by
  intro s tag hbl hop
  have hbl' : ¬ s.dev.tables.blocked = true := by simp [hbl]
  refine ⟨fun h l b hs hst hb => ?_, fun h l hs hno => ?_, fun c h l hc hs => ?_, fun hs => ?_⟩
  · rw [exec_tableCommit hs (by simp) (commitFieldsOf_three _ _ _), Device.tableCommit, if_neg hbl', if_neg hop]
    simp only [hst, hb, ne_eq, not_true_eq_false, if_false, if_true]
    rfl
  · have hcommit : s.dev.tableCommit (some (0xD5, h ++ l)) = s.dev.sequenceError .notOpen := by
      rw [Device.tableCommit, if_neg hbl', if_neg hop]
      simp only [ne_eq, not_true_eq_false, if_false]
      cases hst : s.dev.tables.standby with
      | none => rfl
      | some b => exact if_neg (hno b hst)
    exact ⟨_, by rw [exec_tableCommit hs (by simp) (commitFieldsOf_three _ _ _), hcommit]; rfl, rfl⟩
  · have hcommit : s.dev.tableCommit (some (c, h ++ l)) = s.dev.sequenceError .confirm := by
      rw [Device.tableCommit, if_neg hbl', if_neg hop]
      exact if_pos hc
    exact ⟨_, by rw [exec_tableCommit hs (by simp) (commitFieldsOf_three _ _ _), hcommit]; rfl, rfl⟩
  · have hcommit : s.dev.tableCommit none = s.dev.sequenceError .confirm := by
      rw [Device.tableCommit, if_neg hbl', if_neg hop]
    exact ⟨_, by rw [exec_tableCommit hs (by simp) rfl, hcommit]; rfl, rfl⟩

end Sys2Proof.Machine

namespace Sys2Proof.Machine

/-! ## Verification (O50) -/

theorem all_take_toList {α : Type} {n : Nat} (v : Vector α n) (k : Nat) (test : α → Bool) :
    (v.toList.take k).all test = true ↔ ∀ i : Fin n, i.val < k → test v[i] = true := by
  rw [List.all_eq_true]
  constructor
  · intro h i hi
    exact h _ (List.mem_take_iff_getElem.mpr ⟨i.val, by simp; omega, by simp⟩)
  · intro h x hx
    obtain ⟨i, hi, rfl⟩ := List.mem_take_iff_getElem.mp hx
    simp only [Vector.length_toList, lt_inf_iff] at hi
    rw [Vector.getElem_toList]
    exact h ⟨i, hi.2⟩ hi.1

theorem any_take_toList {α : Type} {n : Nat} (v : Vector α n) (k : Nat) (test : α → Bool) :
    (v.toList.take k).any test = true ↔ ∃ i : Fin n, i.val < k ∧ test v[i] = true := by
  have h := all_take_toList v k fun x => !test x
  rw [List.all_eq_not_any_not] at h
  simp only [Bool.not_not, Bool.not_eq_true'] at h
  rw [← Bool.not_eq_false, h]
  simp

theorem Segment.reaches_iff (x : Segment) (b : Band) : x.reaches b = true
    ↔ (x.kind = .step ∧ b.lower ≤ x.startFrequency ∧ x.startFrequency < b.upper)
      ∨ (x.kind = .chirp ∧ b.lower ≤ max x.startFrequency x.endFrequency
        ∧ min x.startFrequency x.endFrequency < b.upper) := by
  cases hk : x.kind <;> simp [Segment.reaches, hk, Band.contains, Band.overlaps]

theorem Plan.reaches_iff (p : Plan) (b : Band) : (p.activeSegments.any fun s => s.reaches b) = true ↔ p.Reaches b := by
  rw [Plan.activeSegments, any_take_toList]
  simp only [Segment.reaches_iff, Plan.Reaches]

/-! The eight checks, each with the result it gives (Table 9-4). -/

section
variable (rows : BankRows) (w : Word16) (x : ErrorDetail)

theorem BankRows.checkSum_iff : rows.checkSum w = some x ↔ rows.CheckFails w 1 x := by
  have h : rows.CheckFails w 1 x ↔ rows.checksum ≠ w
      ∧ x = { reason := .checksum, kind := none, plan := none, row := none, computed := some rows.checksum } := by
    simp [BankRows.CheckFails]
  rw [h, BankRows.checkSum, Option.ite_none_left_eq_some, Option.some.injEq]
  exact and_congr_right fun _ => eq_comm

theorem BankRows.checkPlans_iff : rows.checkPlans = some x ↔ rows.CheckFails w 2 x := by
  have h : rows.CheckFails w 2 x ↔ (∀ p : PlanId, (rows.plans[p]).header.defined = false)
      ∧ x = { reason := .noPlan, kind := none, plan := none, row := none, computed := none } := by
    simp [BankRows.CheckFails]
  have hany : (¬ (rows.plans.toList.any fun p => p.header.defined) = true)
      ↔ ∀ p : PlanId, (rows.plans[p]).header.defined = false := by
    rw [Bool.not_eq_true, List.any_eq_false]
    simp only [Vector.mem_toList_iff, Vector.forall_mem_iff_forall_getElem, Bool.not_eq_true]
    exact ⟨fun k p => k p.val p.isLt, fun k i hi => k ⟨i, hi⟩⟩
  rw [h, BankRows.checkPlans, Option.ite_none_left_eq_some, Option.some.injEq, hany]
  exact and_congr_right fun _ => eq_comm

/-- A defined plan without a driven segment (check 3). -/
def BankRows.undriven (q : PlanId) : Prop := (rows.plans[q]).header.defined = true ∧ ∀ i : Fin 24,
  i.val < (rows.plans[q]).header.segmentCount → ((rows.plans[q]).segments[i]).kind = .silence

theorem BankRows.undriven_iff (q : PlanId) : (rows.plans[q].header.defined
    && rows.plans[q].activeSegments.all fun s => decide (s.kind = .silence)) = true ↔ rows.undriven q := by
  rw [Bool.and_eq_true, Plan.activeSegments, all_take_toList]
  simp only [decide_eq_true_eq]
  rfl

theorem BankRows.checkSegments_iff : rows.checkSegments = some x ↔ rows.CheckFails w 3 x := by
  have h : rows.CheckFails w 3 x ↔ ∃ p, rows.undriven p ∧ (∀ q, q < p → ¬ rows.undriven q)
      ∧ x = rowDetail .noDrivenSegment .planHeader p none := by
    constructor
    · intro k
      obtain ⟨p, fails, hf, hp, hq, rfl⟩ : ∃ (p : PlanId) (fails : PlanId → Prop), (∀ q, fails q ↔ rows.undriven q)
          ∧ fails p ∧ (∀ q, q < p → ¬ fails q) ∧ x = rowDetail .noDrivenSegment .planHeader p none := by
        simpa [BankRows.CheckFails, BankRows.undriven, rowDetail] using k
      exact ⟨p, (hf p).mp hp, fun q hlt hu => hq q hlt ((hf q).mpr hu), rfl⟩
    · rintro ⟨p, hp, hq, rfl⟩
      exact .inr (.inr (.inl ⟨p, rows.undriven, rfl, fun q => Iff.rfl, hp, hq, rfl⟩))
  rw [h, BankRows.checkSegments, findSome_finRange]
  refine exists_congr fun p => ?_
  simp only [Option.ite_none_right_eq_some, Option.some.injEq, rows.undriven_iff, ite_eq_right_iff, reduceCtorEq,
    imp_false]
  exact ⟨fun ⟨⟨hp, hx⟩, hq⟩ => ⟨hp, hq, hx.symm⟩, fun ⟨hp, hq, hx⟩ => ⟨⟨hp, hx.symm⟩, hq⟩⟩

/-- A row of a plan that fails one of checks 4 to 7, in order. -/
def BankRows.FirstRow (reason : Reason) (kind : TableKind) : Prop := ∃ (p : PlanId) (i : Fin 32),
  (rows.plans[p]).RowFails i reason
  ∧ (∀ (q : PlanId) (j : Fin 32), q < p ∨ (q = p ∧ j < i) → ¬ (rows.plans[q]).RowFails j reason)
  ∧ x = rowDetail reason kind p (some i)

theorem BankRows.checkFails_row {k : Nat} {reason : Reason} {kind : TableKind} (h : (k, reason, kind) ∈
    [(4, Reason.bandOrder, TableKind.band), (5, .bandUnreached, .band), (6, .referenceMissing, .reference),
      (7, .referenceExtra, .reference)]) : rows.CheckFails w k x ↔ rows.FirstRow x reason kind := by
  simp only [List.mem_cons, Prod.mk.injEq, List.not_mem_nil, or_false] at h
  rcases h with ⟨rfl, rfl, rfl⟩ | ⟨rfl, rfl, rfl⟩ | ⟨rfl, rfl, rfl⟩ | ⟨rfl, rfl, rfl⟩ <;>
    simp [BankRows.CheckFails, BankRows.FirstRow, rowDetail]

theorem BankRows.checkBandOrder_iff : rows.checkBandOrder = some x ↔ rows.CheckFails w 4 x := by
  rw [rows.checkFails_row w x (by simp : (4, Reason.bandOrder, TableKind.band) ∈ _)]
  refine BankRows.findRow_spec (fails := fun p i => p.RowFails i .bandOrder) (fun p i => ?_) x
  cases hd : p.header.defined
  · simp [Plan.RowFails, hd]
  · simp [Plan.RowFails, hd, Plan.find_bandIds, Plan.outOfOrder]

theorem BankRows.checkReach_iff : rows.checkReach = some x ↔ rows.CheckFails w 5 x := by
  rw [rows.checkFails_row w x (by simp : (5, Reason.bandUnreached, TableKind.band) ∈ _)]
  refine BankRows.findRow_spec (fails := fun p i => p.RowFails i .bandUnreached) (fun p i => ?_) x
  have htest : ∀ j : BandId, (!p.activeSegments.any fun s => s.reaches p.bands[j]) = true ↔ ¬ p.Reaches p.bands[j] :=
    fun j => by rw [← p.reaches_iff, Bool.not_eq_true', Bool.not_eq_true]
  cases hd : p.header.defined
  · simp [Plan.RowFails, hd]
  · simp only [Plan.RowFails, hd, if_true, Plan.find_bandIds, htest, true_and]

theorem BankRows.checkMissing_iff : rows.checkMissing = some x ↔ rows.CheckFails w 6 x := by
  rw [rows.checkFails_row w x (by simp : (6, Reason.referenceMissing, TableKind.reference) ∈ _)]
  refine BankRows.findRow_spec (fails := fun p i => p.RowFails i .referenceMissing) (fun p i => ?_) x
  cases hd : p.header.defined <;> cases hv : p.header.referenceValid
  case true.true => simp [Plan.RowFails, PlanHeader.isReferenceValid, hd, hv, Plan.find_bandIds]
  all_goals simp [Plan.RowFails, PlanHeader.isReferenceValid, hd, hv]

theorem BankRows.checkExtra_iff : rows.checkExtra = some x ↔ rows.CheckFails w 7 x := by
  rw [rows.checkFails_row w x (by simp : (7, Reason.referenceExtra, TableKind.reference) ∈ _)]
  refine BankRows.findRow_spec (fails := fun p i => p.RowFails i .referenceExtra) (fun p i => ?_) x
  cases hd : p.header.defined <;> cases hv : p.header.referenceValid
  case true.true => simp [Plan.RowFails, PlanHeader.isReferenceValid, hd, hv]
  all_goals simp [Plan.RowFails, PlanHeader.isReferenceValid, hd, hv, find_finRange]

theorem BankRows.checkCatchAll_iff : rows.checkCatchAll = some x ↔ rows.CheckFails w 8 x := by
  have h : rows.CheckFails w 8 x ↔ ((rows.verdicts[15]).require ≠ 0 ∨ (rows.verdicts[15]).exclude ≠ 0)
      ∧ x = { reason := .noCatchAll, kind := some .verdict, plan := none, row := some 15, computed := none } := by
    simp [BankRows.CheckFails]
  rw [h, BankRows.checkCatchAll, Option.ite_none_left_eq_some, Option.some.injEq, not_and_or]
  exact and_congr_right fun _ => eq_comm

/-- Check `k` of Table 9-4, with its result. -/
def BankRows.check : Nat → Option ErrorDetail
  | 1 => rows.checkSum w
  | 2 => rows.checkPlans
  | 3 => rows.checkSegments
  | 4 => rows.checkBandOrder
  | 5 => rows.checkReach
  | 6 => rows.checkMissing
  | 7 => rows.checkExtra
  | 8 => rows.checkCatchAll
  | _ => none

theorem BankRows.checkFails_range {k : Nat} (h : rows.CheckFails w k x) : 1 ≤ k ∧ k ≤ 8 := by
  rcases h with ⟨rfl, _⟩ | ⟨rfl, _⟩ | ⟨_, _, rfl, _⟩ | ⟨_, _, _, _, h, _⟩ | ⟨rfl, _⟩
  case inr.inr.inr.inl =>
    simp only [List.mem_cons, Prod.mk.injEq, List.not_mem_nil, or_false] at h
    omega
  all_goals omega

theorem BankRows.check_iff (k : Nat) : rows.check w k = some x ↔ rows.CheckFails w k x := by
  by_cases hk : 1 ≤ k ∧ k ≤ 8
  · obtain ⟨h1, h8⟩ := hk
    interval_cases k
    exacts [rows.checkSum_iff w x, rows.checkPlans_iff w x, rows.checkSegments_iff w x, rows.checkBandOrder_iff w x,
      rows.checkReach_iff w x, rows.checkMissing_iff w x, rows.checkExtra_iff w x, rows.checkCatchAll_iff w x]
  · refine iff_of_false ?_ fun h => hk (rows.checkFails_range w x h)
    obtain rfl | h9 : k = 0 ∨ 9 ≤ k := by omega
    · exact fun h => by cases h
    · obtain ⟨m, rfl⟩ := Nat.exists_eq_add_of_le' h9
      exact fun h => by cases h

end

theorem findSome_cons_or {α β : Type} (f : α → Option β) (a : α) (l : List α) :
    (a :: l).findSome? f = (f a).or (l.findSome? f) := by
  cases h : f a <;> simp [h]

/-- Verification gives the result of the first check that fails (R159). -/
theorem BankRows.verify_eq (rows : BankRows) (w : Word16) :
    rows.verify w = (List.finRange 9).findSome? fun k => rows.check w k.val := by
  have hlist : List.finRange 9 = [0, 1, 2, 3, 4, 5, 6, 7, 8] := by decide
  rw [hlist]
  simp only [findSome_cons_or, List.findSome?_nil, Option.or_none]
  rfl

theorem BankRows.check_none_iff (rows : BankRows) (w : Word16) (k : Nat) :
    rows.check w k = none ↔ ∀ x, ¬ rows.CheckFails w k x := by
  rw [Option.eq_none_iff_forall_ne_some]
  exact forall_congr' fun x => not_congr (rows.check_iff w x k)

theorem BankRows.verify_some (rows : BankRows) (w : Word16) (x : ErrorDetail) : rows.verify w = some x
    ↔ ∃ k, rows.CheckFails w k x ∧ ∀ j y, j < k → ¬ rows.CheckFails w j y := by
  rw [rows.verify_eq, findSome_finRange]
  constructor
  · rintro ⟨k, hk, hfirst⟩
    exact ⟨k.val, (rows.check_iff w x k).mp hk, fun j y hj =>
      (rows.check_none_iff w j).mp (hfirst ⟨j, by omega⟩ hj) y⟩
  · rintro ⟨k, hk, hfirst⟩
    have hrange := rows.checkFails_range w x hk
    exact ⟨⟨k, by omega⟩, (rows.check_iff w x k).mpr hk, fun j hj =>
      (rows.check_none_iff w j).mpr fun y => hfirst j y hj⟩

theorem BankRows.verify_none (rows : BankRows) (w : Word16) :
    rows.verify w = none ↔ ∀ k x, ¬ rows.CheckFails w k x := by
  rw [rows.verify_eq, List.findSome?_eq_none_iff]
  constructor
  · intro h k x hk
    have hrange := rows.checkFails_range w x hk
    exact (rows.check_none_iff w k).mp (h ⟨k, by omega⟩ (List.mem_finRange _)) x hk
  · exact fun h k _ => (rows.check_none_iff w k).mpr (h k)

/-- Entry 15 with both sets empty accepts every failure set (R92). -/
theorem selectEntry_catchAll {rows : BankRows} (hr : (rows.verdicts[15]).require = 0)
    (he : (rows.verdicts[15]).exclude = 0) (f : FailureSet) : (selectEntry rows f).isSome = true := by
  rw [Option.isSome_iff_ne_none]
  intro h
  have h15 : rows.verdicts[15].accepts f = false := selectEntry_none.mp h 15
  rw [VerdictEntry.accepts, hr, he] at h15
  simp at h15

/-- Settles O50. -/
theorem verificationDecides : Obligations.VerificationDecides := by
  refine ⟨fun s declared b tag type hop hst hheld => ⟨fun hv => ?_, fun x hv => ?_⟩, fun r w =>
    ⟨r.verify_none w, r.verify_some w, fun hv => ⟨?_, selectEntry_catchAll ?_ ?_⟩⟩⟩
  · have hexec : exec .verificationComplete s = .next ({ s with dev := s.dev.verified b }.releaseHeld .ok
        (.checksum (s.dev.tables.bank b).rows.checksum)) := by
      change execVerificationComplete s = _
      simp only [execVerificationComplete, hop, hst, hv]
    refine ⟨_, hexec, ?_⟩
    simp only [State.releaseHeld, hheld]
    exact ⟨rfl, trivial, rfl⟩
  · have hexec : exec .verificationComplete s = .next ({ s with dev := s.dev.notVerified b x }.releaseHeld .loadBlocked
        (.detail (some x))) := by
      change execVerificationComplete s = _
      simp only [execVerificationComplete, hop, hst, hv]
    refine ⟨_, hexec, ?_⟩
    simp only [State.releaseHeld, hheld]
    refine ⟨?_, trivial, rfl⟩
    simp only [Device.notVerified, TableStore.recordDetail, TableStore.modBank_detail]
  · by_contra h
    exact (r.verify_none w).mp hv 1 _ (.inl ⟨rfl, h, rfl⟩)
  · by_contra h
    exact (r.verify_none w).mp hv 8 _ (.inr (.inr (.inr (.inr ⟨rfl, .inl h, rfl⟩))))
  · by_contra h
    exact (r.verify_none w).mp hv 8 _ (.inr (.inr (.inr (.inr ⟨rfl, .inr h, rfl⟩))))

end Sys2Proof.Machine

namespace Sys2Proof.Machine

/-! ## BANK SWITCH (O51) -/

theorem calSource_injective {n m : NestId} (h : calSource n = calSource m) : n = m := by
  have := congrArg Fin.val h
  simp only [calSource] at this
  exact Fin.ext (by omega)

theorem Device.raiseCal_pending (d : Device) (m n : NestId) (cause : CalCause) (p : Option PlanId) :
    (d.raiseCal m cause p).notices.pending[calSource n] = true
      ↔ n = m ∨ d.notices.pending[calSource n] = true := by
  by_cases h : n = m
  · subst h
    exact iff_of_true (NoticeArbiter.raise_pending_same _ _) (.inl rfl)
  · rw [or_iff_right h]
    exact Iff.of_eq (congrArg (· = true)
      (NoticeArbiter.raise_pending_ne _ (j := calSource n) fun e => h (calSource_injective e)))

/-- The CAL flags that a switch sets: what the fold over the nests does. -/
theorem foldl_raiseCal (p : NestId → Bool) (l : List NestId) (d : Device) :
    ∃ a, l.foldl (fun (e : Device) n => if p n then e.raiseCal n .switched none else e) d = { d with notices := a }
    ∧ ∀ n, a.pending[calSource n] = true ↔ d.notices.pending[calSource n] = true ∨ (n ∈ l ∧ p n = true) := by
  induction l generalizing d with
  | nil => exact ⟨_, rfl, fun n => by simp⟩
  | cons m l ih =>
    rw [List.foldl_cons]
    by_cases hm : p m = true
    · rw [if_pos hm]
      obtain ⟨a, hframe, hpend⟩ := ih (d.raiseCal m .switched none)
      refine ⟨a, hframe, fun n => (hpend n).trans ?_⟩
      rw [Device.raiseCal_pending]
      by_cases e : n = m
      · subst e; simp [hm]
      · simp [e]
    · rw [if_neg hm]
      obtain ⟨a, hframe, hpend⟩ := ih d
      refine ⟨a, hframe, fun n => (hpend n).trans ?_⟩
      by_cases e : n = m
      · subst e; simp [hm]
      · simp [e]

theorem CalibrationStore.switched_record (c : CalibrationStore) (old : Option Bank) (new : Bank) (n : NestId)
    (p : PlanId) : (c.switched old new).record n p = switchedRecord old new p (c.record n p) := by
  simp [CalibrationStore.switched, CalibrationStore.record]

theorem stateChanged_iff (c e : CalibrationStore) (n : NestId) :
    stateChanged c e n = true ↔ ∃ p, (e.record n p).state ≠ (c.record n p).state := by
  simp only [stateChanged, List.any_eq_true, List.mem_finRange, true_and, decide_eq_true_eq]
  exact exists_congr fun p => ne_comm

/-- What a switch does to the records and their flags (R133, R134, R137). -/
theorem Device.restamp_spec (d : Device) (old : Option Bank) (new : Bank) :
    (d.restamp old new).calibration = d.calibration.switched old new
    ∧ (∀ n, (d.restamp old new).notices.pending[calSource n] = true ↔ (d.notices.pending[calSource n] = true
        ∨ ∃ p, ((d.calibration.switched old new).record n p).state ≠ (d.calibration.record n p).state))
    ∧ d.restamp old new = { d with
        calibration := (d.restamp old new).calibration, notices := (d.restamp old new).notices } := by
  obtain ⟨a, hframe, hpend⟩ := foldl_raiseCal (stateChanged d.calibration (d.calibration.switched old new))
    (List.finRange 4) { d with calibration := d.calibration.switched old new }
  have hrestamp : d.restamp old new = { d with calibration := d.calibration.switched old new, notices := a } := hframe
  rw [hrestamp]
  refine ⟨rfl, fun n => (hpend n).trans ?_, rfl⟩
  rw [stateChanged_iff]
  simp only [List.mem_finRange, true_and]

/-- The record of a plan that counts as changed, and of one that does not (R133, R134). -/
theorem switchedRecord_changed {old : Option Bank} {new : Bank} {p : PlanId} (c : CalRecord)
    (h : planChanged old new p = true) :
    switchedRecord old new p c = clearedRecord new.rows.plans[p].header.isReferenceValid new.generation := if_pos h

theorem switchedRecord_kept {old : Option Bank} {new : Bank} {p : PlanId} (c : CalRecord)
    (h : planChanged old new p = false) : switchedRecord old new p c = { c with stamp := new.generation } :=
  if_neg (by simp [h])

theorem switchedRecord_stamp (old : Option Bank) (new : Bank) (p : PlanId) (c : CalRecord) :
    (switchedRecord old new p c).stamp = new.generation := by
  simp only [switchedRecord]
  split <;> rfl

theorem TableStore.switchTo_bank_same (t : TableStore) {b : BankId} (hb : t.standby = some b) :
    (t.switchTo b).bank b = (t.bank b).activate (nextGeneration t.generationCounter) := by
  have hcongr : (t.switchTo b).bank b = ((match t.activeBank with
      | some a => t.modBank a Bank.retire
      | none => t).modBank b fun x => x.activate (nextGeneration t.generationCounter)).bank b := by cases b <;> rfl
  rw [hcongr, TableStore.bank_modBank_same]
  cases ha : t.activeBank with
  | none => rfl
  | some a => exact congrArg (Bank.activate · _) (TableStore.bank_modBank_ne _ _ (t.standby_ne_active ha hb).symm)

theorem TableStore.switchTo_bank_active (t : TableStore) {a b : BankId} (ha : t.activeBank = some a)
    (hb : t.standby = some b) : (t.switchTo b).bank a = (t.bank a).retire := by
  have hcongr : (t.switchTo b).bank a = ((t.modBank a Bank.retire).modBank b
      fun x => x.activate (nextGeneration t.generationCounter)).bank a := by
    simp only [TableStore.switchTo, ha]
    cases a <;> rfl
  rw [hcongr, TableStore.bank_modBank_ne _ _ (t.standby_ne_active ha hb), TableStore.bank_modBank_same]

/-- Settles O51. -/
theorem bankSwitchActivates : Obligations.BankSwitchActivates := by
  refine fun s tag => ⟨fun hs hbl => ?_, fun hs hbl hno => ?_, fun b g hs hbl hst hready hg => ?_, fun hs => ?_⟩
  · rw [exec_command rfl hs (by decide) rfl]
    simp only [Device.bankSwitch, hbl, if_true, State.answered_refuse]
  · rw [exec_command rfl hs (by decide) rfl]
    simp only [Device.bankSwitch, hbl, if_neg Bool.false_ne_true]
    cases hst : s.dev.tables.standby with
    | none => rfl
    | some b => simp only [if_neg (hno b hst), State.answered_refuse]
  · have hgen : g = nextGeneration s.dev.tables.generationCounter := hg
    have hsame := s.dev.tables.switchTo_bank_same hst
    rw [← hgen] at hsame
    obtain ⟨hcal, hpend, hframe⟩ := Device.restamp_spec { s.dev with tables := s.dev.tables.switchTo b }
      (s.dev.tables.activeBank.map s.dev.tables.bank) ((s.dev.tables.switchTo b).bank b)
    have hexec : exec (.bankSwitch tag) s = .next (s.repliedWith 0x11 tag .ok (.generation g)
        (Device.restamp { s.dev with tables := s.dev.tables.switchTo b }
          (s.dev.tables.activeBank.map s.dev.tables.bank) ((s.dev.tables.switchTo b).bank b))) := by
      rw [exec_command rfl hs (by decide) rfl]
      simp only [Device.bankSwitch, hbl, if_neg Bool.false_ne_true, hst, if_pos hready, hgen]
      rfl
    refine ⟨_, hexec, ?_⟩
    generalize hE : Device.restamp _ _ _ = e at hcal hpend hframe
    have htab : e.tables = s.dev.tables.switchTo b := congrArg Device.tables hframe
    refine ⟨by rw [htab, hgen]; rfl, by rw [htab, hsame]; rfl, fun a ha => ?_, fun n p => ⟨?_, fun h => ?_, fun h => ?_⟩,
      fun n => ?_, ?_, ?_⟩
    · rw [htab, s.dev.tables.switchTo_bank_active ha hst]
      rfl
    · rw [hcal, CalibrationStore.switched_record, switchedRecord_stamp, hsame]
      rfl
    · rw [hcal, CalibrationStore.switched_record, switchedRecord_changed, hsame]
      · exact ⟨rfl, fun i => Vector.getElem_replicate i.isLt⟩
      · rw [hsame]
        rcases h with h | ⟨a, f, k, ha, hf, hk, hne⟩
        · rw [h]; rfl
        · simp only [planChanged, ha, Option.map_some, hf, Bank.activate, hk, decide_eq_true hne]
    · rw [hcal, CalibrationStore.switched_record, switchedRecord_kept]
      · exact ⟨rfl, rfl⟩
      · rw [hsame]
        obtain ⟨a, f, k, ha, hf, hk, heq⟩ := h
        simp only [planChanged, ha, Option.map_some, hf, Bank.activate, hk, heq, ne_eq, not_true_eq_false, decide_false]
    · rw [hpend n, hcal]
    · rw [hcal]; rfl
    · exact hframe.trans (by rw [htab])
  · rw [exec_command rfl hs (by decide) rfl]
    rfl

end Sys2Proof.Machine

namespace Sys2Proof.Machine

/-! ## What leaves the fixture lines and their flags -/

/-- From `d` to `e` no fixture line has changed, and no FIXTURE flag. -/
def KeepsLines (d e : Device) : Prop :=
  e.fixture = d.fixture ∧ ∀ n, e.notices.pending[fixtureSource n] = d.notices.pending[fixtureSource n]

theorem KeepsLines.refl (d : Device) : KeepsLines d d := ⟨rfl, fun _ => rfl⟩

theorem KeepsLines.trans {d e f : Device} (h : KeepsLines d e) (k : KeepsLines e f) : KeepsLines d f :=
  ⟨k.1.trans h.1, fun n => (k.2 n).trans (h.2 n)⟩

theorem KeepsLines.of_eq {d e : Device} (h : e.fixture = d.fixture) (k : e.notices = d.notices) : KeepsLines d e :=
  ⟨h, fun n => by rw [k]⟩

theorem KeepsLines.setNest (d : Device) (n : NestId) (x : Nest) : KeepsLines d (d.setNest n x) := .of_eq rfl rfl

theorem KeepsLines.notices {d : Device} {a : NoticeArbiter}
    (h : ∀ n, a.pending[fixtureSource n] = d.notices.pending[fixtureSource n]) :
    KeepsLines d { d with notices := a } := ⟨rfl, h⟩

theorem KeepsLines.raise (d : Device) {i : SourceId} (h : ∀ n, fixtureSource n ≠ i) : KeepsLines d (d.raise i) :=
  ⟨rfl, fun n => NoticeArbiter.raise_pending_ne _ (h n)⟩

theorem KeepsLines.ite {d x y : Device} {p : Prop} [Decidable p] (hx : KeepsLines d x) (hy : KeepsLines d y) :
    KeepsLines d (if p then x else y) := by
  split
  exacts [hx, hy]

theorem KeepsLines.freeChain (d : Device) (c : Chain) : KeepsLines d (d.freeChain c) := .of_eq rfl rfl

theorem KeepsLines.count (d : Device) (n : NestId) (f : Counters → Counters) : KeepsLines d (d.count n f) :=
  .of_eq rfl rfl

theorem KeepsLines.labels (d : Device) (u : LabelUnit) : KeepsLines d { d with labels := u } := .of_eq rfl rfl

theorem KeepsLines.calibration (d : Device) (c : CalibrationStore) : KeepsLines d { d with calibration := c } :=
  .of_eq rfl rfl

theorem fixtureSource_ne_nestFault (m n : NestId) : fixtureSource n ≠ nestFaultSource m := fun h => by
  have := congrArg Fin.val h
  simp only [fixtureSource, nestFaultSource] at this
  omega

theorem fixtureSource_ne_cal (m n : NestId) : fixtureSource n ≠ calSource m := fun h => by
  have := congrArg Fin.val h
  simp only [fixtureSource, calSource] at this
  omega

theorem fixtureSource_ne_of_high {i : SourceId} (hi : 12 ≤ i.val) (n : NestId) : fixtureSource n ≠ i := fun h => by
  have := congrArg Fin.val h
  simp only [fixtureSource] at this
  omega

theorem StartsOnly.keepsLines {d e : Device} (h : StartsOnly d e) : KeepsLines d e :=
  .of_eq (by rw [h.frame]) (by rw [h.frame])

theorem Device.unpin_keepsLines (d : Device) (b : BankId) : KeepsLines d (d.unpin b) := by
  simp only [Device.unpin]
  split
  · exact (KeepsLines.of_eq rfl rfl).trans (.raise _ (fixtureSource_ne_of_high (by decide)))
  · exact .of_eq rfl rfl

theorem Device.endInTest_keepsLines (d : Device) (n : NestId) (r : UnitRecord) : KeepsLines d (d.endInTest n r) :=
  (d.unpin_keepsLines r.bank).trans (Device.leaveArbiter_startsOnly _ n).keepsLines

theorem Device.demoteRecords_keepsLines (d : Device) (n : NestId) : KeepsLines d (d.demoteRecords n) := by
  simp only [Device.demoteRecords]
  split
  · exact (KeepsLines.of_eq rfl rfl).trans (.raise _ (fixtureSource_ne_cal n))
  · exact .of_eq rfl rfl

theorem Device.enterDrift_keepsLines (d : Device) (n : NestId) (marginal : Bool) :
    KeepsLines d (d.enterDrift n marginal) := by
  exact .ite (.calibration d _) (.ite ((KeepsLines.calibration d _).trans (Device.demoteRecords_keepsLines _ n))
    (.calibration d _))

/-- A posting counts toward LABELS, and sets that flag or none (R192). -/
theorem NoticeArbiter.countPosting_cases (a : NoticeArbiter) : ∃ posted timer,
    a.countPosting = { a with labelsPosted := posted, timer := timer }
    ∨ a.countPosting = ({ a with labelsPosted := posted, timer := timer } : NoticeArbiter).raise labelsSource := by
  by_cases h : a.coalescingCount
      ≤ (if a.labelsPosted = 0xFFFFFFFF then Config.labelsPostedAfterMax else a.labelsPosted + 1).toNat
  · exact ⟨_, _, .inr (if_pos h)⟩
  · exact ⟨_, _, .inl (if_neg h)⟩

theorem NoticeArbiter.countPosting_fixture (a : NoticeArbiter) (n : NestId) :
    a.countPosting.pending[fixtureSource n] = a.pending[fixtureSource n] := by
  obtain ⟨posted, timer, h | h⟩ := a.countPosting_cases
  · rw [h]
  · rw [h]
    exact NoticeArbiter.raise_pending_ne _ (fixtureSource_ne_of_high (by decide) n)

theorem Device.postLabel_keepsLines (d : Device) (n : NestId) (l : Label) (chain : Option Chain) :
    KeepsLines d (d.postLabel n l chain) := by
  have hput : KeepsLines d ({ d with labels := d.labels.put { label := l, chain := chain } }.count n
      fun c => c.countLabel l) := (KeepsLines.labels d _).trans (.count _ n _)
  simp only [Device.postLabel]
  refine KeepsLines.trans ?_ (.trans (KeepsLines.notices fun m => NoticeArbiter.countPosting_fixture _ m) (.setNest _ _ _))
  split
  · exact hput.trans (Device.enterDrift_keepsLines _ n _)
  · exact hput

theorem Device.discardUnit_keepsLines (d : Device) (n : NestId) (r : UnitRecord) : KeepsLines d (d.discardUnit n r) :=
  (KeepsLines.labels d _).trans ((KeepsLines.freeChain _ _).trans
    ((Device.endInTest_keepsLines _ n r).trans (.count _ n _)))

theorem Device.startUnit_keepsLines (d : Device) (n : NestId) (role : Role) (p : PlanId) (serial : List Byte)
    (lot : Word32) (b : BankId) : KeepsLines d (d.startUnit n role p serial lot b) := by
  obtain ⟨_, _, _, _, _, _, hframe⟩ := Device.startUnit_starts d n role p serial lot b
  exact .of_eq (by rw [hframe]) (by rw [hframe])

theorem Device.autoStartTest_keepsLines (d : Device) (n : NestId) : KeepsLines d (d.autoStartTest n) := by
  simp only [Device.autoStartTest]
  split
  · exact .refl d
  · split
    · split
      · exact d.startUnit_keepsLines n _ _ _ _ _
      · exact (KeepsLines.of_eq rfl rfl).trans (.raise _ (fixtureSource_ne_nestFault n))
    · exact .refl d

theorem Device.enterLoaded_keepsLines (d : Device) (n : NestId) : KeepsLines d (d.enterLoaded n) :=
  (KeepsLines.setNest d n _).trans (Device.autoStartTest_keepsLines _ n)

theorem Device.exitTest_keepsLines (d : Device) (n : NestId) : KeepsLines d (d.exitTest n) := by
  obtain ⟨y, hy, _⟩ := d.exitTest_exits n
  rw [hy]
  exact .setNest d n y

theorem Device.enterFault_keepsLines (d : Device) (n : NestId) : KeepsLines d (d.enterFault n) :=
  (KeepsLines.setNest d n _).trans (.raise _ (fixtureSource_ne_nestFault n))

theorem Device.afterEnd_keepsLines (d : Device) (n : NestId) (cause : FailureClass) :
    KeepsLines d (d.afterEnd n cause) := by
  simp only [Device.afterEnd]
  split
  · exact d.enterFault_keepsLines n
  · exact d.exitTest_keepsLines n

theorem Device.earlyEnd_keepsLines (d : Device) (n : NestId) (cause : FailureClass) :
    KeepsLines d (d.earlyEnd n cause) := by
  cases hr : (d.nest n).record with
  | none => simp only [Device.earlyEnd, hr]; exact .refl d
  | some r =>
    rw [Device.earlyEnd_eq cause hr]
    refine KeepsLines.trans ?_ (Device.afterEnd_keepsLines _ n cause)
    split
    · exact (KeepsLines.setNest d n _).trans ((Device.postLabel_keepsLines _ n _ _).trans
        ((KeepsLines.freeChain _ _).trans (Device.endInTest_keepsLines _ n _)))
    · exact (KeepsLines.setNest d n _).trans (Device.discardUnit_keepsLines _ n _)

theorem Device.fixtureLoss_keepsLines (d : Device) (n : NestId) : KeepsLines d (d.fixtureLoss n) := by
  cases hst : (d.nest n).state <;> simp only [Device.fixtureLoss, hst]
  case labelWait => exact .setNest d n _
  case marking => exact d.exitTest_keepsLines n
  case clamping | levelLock | quietCheck | sweeping | judging => exact d.earlyEnd_keepsLines n _
  all_goals exact .refl d

theorem Device.enterLevelLock_keepsLines (d : Device) (n : NestId) : KeepsLines d (d.enterLevelLock n) :=
  .of_eq (by rw [(d.enterLevelLock_spec n).frame]) (by rw [(d.enterLevelLock_spec n).frame])

theorem Device.clampedTaken_keepsLines (d : Device) (n : NestId) : KeepsLines d (d.clampedTaken n) := by
  simp only [Device.clampedTaken]
  split
  · exact (KeepsLines.setNest d n _).trans (Device.enterLevelLock_keepsLines _ n)
  · exact (KeepsLines.setNest d n _).trans (.setNest _ n _)

theorem Device.enterDone_keepsLines (d : Device) (n : NestId) : KeepsLines d (d.enterDone n) := by
  rw [Device.enterDone_eq]
  exact .setNest d n _

theorem Device.presentChange_keepsLines (d : Device) (n : NestId) (level : Bool) :
    KeepsLines d (d.presentChange n level) := by
  simp only [Device.presentChange]
  split
  · exact d.enterLoaded_keepsLines n
  · exact .setNest d n _
  · exact .setNest d n _
  · exact .refl d
  · exact d.fixtureLoss_keepsLines n

theorem Device.clampedChange_keepsLines (d : Device) (n : NestId) (level : Bool) :
    KeepsLines d (d.clampedChange n level) := by
  simp only [Device.clampedChange]
  split
  · split
    · exact d.clampedTaken_keepsLines n
    · exact .refl d
  · exact .setNest d n _
  · exact d.enterDone_keepsLines n
  · exact .refl d
  · exact d.fixtureLoss_keepsLines n

/-- What the Nest Sequencer does at a taken change touches no fixture line and no FIXTURE flag. -/
theorem Device.sequencerChange_keepsLines (d : Device) (n : NestId) (l : InputLine) (level : Bool) :
    KeepsLines d (d.sequencerChange n l level) := by
  simp only [Device.sequencerChange]
  split
  · exact .refl d
  · cases l with
    | present => exact d.presentChange_keepsLines n level
    | clamped => exact d.clampedChange_keepsLines n level
    | lid =>
      dsimp only
      split
      · exact d.fixtureLoss_keepsLines n
      · exact .refl d
    | aux => exact .refl d

end Sys2Proof.Machine

namespace Sys2Proof.Machine

/-! ## INPUT_CHANGE_TAKEN (O53) -/

theorem inputIndex_injective {k l : InputLine} (h : inputIndex k = inputIndex l) : k = l := by
  cases k <;> cases l <;> first | rfl | exact absurd h (by decide)

/-- A nest's lines after an input's new level is taken (R168, R170). -/
def FixtureLines.withTaken (x : FixtureLines) (l : InputLine) : FixtureLines :=
  { x with
    taken := x.taken.set (inputIndex l) !x.taken[inputIndex l]
    count := x.count.set (inputIndex l) 0
    changed := if x.map.detector[inputIndex l] then x.changed.set (inputIndex l) true else x.changed }

/-- The part after an input's new level is taken, before the Nest Sequencer acts on it. -/
def Device.levelTaken (d : Device) (n : NestId) (l : InputLine) : Device :=
  { d with
    fixture := d.fixture.set n (d.fixture[n].withTaken l)
    notices := if d.detects n l then d.notices.raise (fixtureSource n) else d.notices }

theorem Device.takeLevel_eq (d : Device) (n : NestId) (l : InputLine) :
    d.takeLevel n l = (d.levelTaken n l).sequencerChange n l (!d.taken n l) := by
  simp only [Device.takeLevel, Device.levelTaken]
  cases h : d.detects n l
  · rw [Device.detects, Device.map] at h
    simp only [FixtureLines.withTaken, h]
    rfl
  · rw [Device.detects, Device.map] at h
    simp only [FixtureLines.withTaken, h]
    rfl

theorem Device.levelTaken_fixture_same (d : Device) (n : NestId) (l : InputLine) :
    (d.levelTaken n l).fixture[n] = d.fixture[n].withTaken l := by simp [Device.levelTaken]

theorem Device.levelTaken_fixture_ne (d : Device) {n m : NestId} (l : InputLine) (h : m ≠ n) :
    (d.levelTaken n l).fixture[m] = d.fixture[m] := by
  have hv : n.val ≠ m.val := fun e => h (Fin.ext e.symm)
  simp [Device.levelTaken, hv]

theorem Device.levelTaken_map (d : Device) (n : NestId) (l : InputLine) : (d.levelTaken n l).map n = d.map n := by
  rw [Device.map, d.levelTaken_fixture_same n l]
  rfl

theorem Device.levelTaken_taken_same (d : Device) (n : NestId) (l : InputLine) :
    (d.levelTaken n l).taken n l = !d.taken n l := by
  rw [Device.taken, d.levelTaken_fixture_same n l]
  simp [FixtureLines.withTaken, Device.taken]

theorem Device.levelTaken_taken_ne (d : Device) (n : NestId) {k l : InputLine} (h : k ≠ l) :
    (d.levelTaken n l).taken n k = d.taken n k := by
  have hv : (inputIndex l).val ≠ (inputIndex k).val := fun e => h (inputIndex_injective (Fin.ext e.symm))
  rw [Device.taken, d.levelTaken_fixture_same n l]
  simp [FixtureLines.withTaken, hv, Device.taken]

theorem Device.levelTaken_count (d : Device) (n : NestId) (l : InputLine) :
    ((d.levelTaken n l).fixture[n]).count[inputIndex l] = 0 := by
  rw [d.levelTaken_fixture_same n l]
  simp [FixtureLines.withTaken]

theorem Device.levelTaken_changed (d : Device) (n : NestId) (l : InputLine) :
    ((d.levelTaken n l).fixture[n]).changed[inputIndex l]
      = ((d.fixture[n]).changed[inputIndex l] || d.detects n l) := by
  rw [d.levelTaken_fixture_same n l]
  cases h : d.detects n l
  · rw [Device.detects, Device.map] at h
    simp only [FixtureLines.withTaken, h, if_neg Bool.false_ne_true, Bool.or_false]
  · rw [Device.detects, Device.map] at h
    simp only [FixtureLines.withTaken, h, if_true, Bool.or_true]
    exact Vector.getElem_set_self _

theorem Device.levelTaken_flag (d : Device) (n : NestId) (l : InputLine) :
    (d.levelTaken n l).notices.pending[fixtureSource n]
      = (d.notices.pending[fixtureSource n] || d.detects n l) := by
  cases h : d.detects n l
  · simp [Device.levelTaken, h]
  · simp only [Device.levelTaken, h, if_true, Bool.or_true]
    exact NoticeArbiter.raise_pending_same _ _

theorem exec_inputChangeTaken {s : State} {n : NestId} {l : InputLine} (hl : s.dev.nestPort.locked = true)
    (h1 : 1 ≤ (s.dev.fixture[n]).count[inputIndex l])
    (hd : 96 * (s.dev.map n).debounce[inputIndex l] ≤ (s.dev.fixture[n]).count[inputIndex l]) :
    exec (.inputChangeTaken n l) s = .next { s with dev := s.dev.takeLevel n l } := by
  have hdue : s.dev.inputDue n l = true := by
    rw [Device.inputDue, Bool.and_eq_true]
    exact ⟨decide_eq_true h1, decide_eq_true hd⟩
  change Host.Outcome.next (if _ then _ else _) = _
  rw [if_pos ⟨hl, hdue⟩]

/-! What the Nest Sequencer does at a taken change, outside loopback. -/

theorem Device.fixtureLoss_endsEarly {d : Device} {n : NestId} (h : (d.nest n).state.endsEarly = true) :
    d.fixtureLoss n = d.earlyEnd n .fixture := by
  simp only [Device.fixtureLoss]
  split <;> simp_all [NestState.endsEarly]

/-- A loss of an input that the nest watches is a fixture loss (R26). -/
theorem Device.sequencerChange_loss {d : Device} {n : NestId} {l : InputLine} (hlo : (d.nest n).loopback = false)
    (h : (l = .present ∧ (d.nest n).state ≠ .loaded ∧ (d.nest n).state ≠ .done)
      ∨ (l = .clamped ∧ (d.nest n).state ≠ .clamping ∧ (d.nest n).state ≠ .releasing)
      ∨ (l = .lid ∧ d.detects n .lid = true)) : d.sequencerChange n l false = d.fixtureLoss n := by
  simp only [Device.sequencerChange, hlo, if_neg Bool.false_ne_true]
  rcases h with ⟨rfl, h1, h2⟩ | ⟨rfl, h1, h2⟩ | ⟨rfl, h1⟩
  · cases hst : (d.nest n).state <;> simp only [Device.presentChange, hst]
    case loaded => exact absurd hst h1
    case done => exact absurd hst h2
  · cases hst : (d.nest n).state <;> simp only [Device.clampedChange, hst]
    case clamping => exact absurd hst h1
    case releasing => exact absurd hst h2
  · simp only [h1, Bool.not_false, Bool.and_true, if_true]

/-- A taken fixture loss in a test stage (R24, R26): the unit ends early with cause FIXTURE. -/
theorem Device.fixtureLoss_ends {d : Device} {n : NestId} {r : UnitRecord} (hr : (d.nest n).record = some r)
    (hst : (d.nest n).state.endsEarly = true) :
    ((d.fixtureLoss n).nest n).state = d.afterUnit n ∧ ((d.fixtureLoss n).nest n).tone.mode = .silent
    ∧ (d.labels.posted < 64 → EndedWithLabel d (d.fixtureLoss n) n r .fixture
      ∧ ((d.fixtureLoss n).nest n).history = addEvent (addEvent (d.nest n).history .fixtureFail) .labelled)
    ∧ (64 ≤ d.labels.posted → Discarded d (d.fixtureLoss n) n r
      ∧ ((d.fixtureLoss n).nest n).history = addEvent (d.nest n).history .fixtureFail) := by
  rw [Device.fixtureLoss_endsEarly hst]
  by_cases hf : d.labels.posted < 64
  · obtain ⟨hended, hstate, htone, hhist⟩ := Device.earlyEnd_labels .fixture hr hf
    exact ⟨hstate, htone, fun _ => ⟨hended, hhist⟩, fun k => absurd hf (by omega)⟩
  · obtain ⟨hdisc, hstate, htone, hhist⟩ := Device.earlyEnd_discards .fixture hr (by omega)
    exact ⟨hstate, htone, fun k => absurd k hf, fun _ => ⟨hdisc, hhist⟩⟩

theorem Device.afterUnit_lines {d : Device} {n : NestId} (h : (d.nest n).loopback = false) : d.afterUnit n
    = if d.taken n .clamped then .releasing else if d.taken n .present then .done else .empty := by
  rw [Device.afterUnit, h]
  rfl

/-- The states in which an input's loss ends a unit are none of those that the input moves on. -/
theorem NestState.ends_ne {st : NestState} (h : st.endsEarly = true ∨ st = .labelWait ∨ st = .marking) :
    st ≠ .loaded ∧ st ≠ .done ∧ st ≠ .releasing := by
  cases st <;> simp_all [NestState.endsEarly]

section
variable {d : Device} {n : NestId} (hlo : (d.nest n).loopback = false)
include hlo

theorem Device.sequencerChange_present (b : Bool) : d.sequencerChange n .present b = d.presentChange n b := by
  simp only [Device.sequencerChange, hlo, if_neg Bool.false_ne_true]

theorem Device.sequencerChange_clamped (b : Bool) : d.sequencerChange n .clamped b = d.clampedChange n b := by
  simp only [Device.sequencerChange, hlo, if_neg Bool.false_ne_true]

theorem Device.sequencerChange_loads (hst : (d.nest n).state = .empty) (ha : (d.nest n).autoStart = none) :
    ((d.sequencerChange n .present true).nest n).state = .loaded := by
  simp only [Device.sequencerChange_present hlo, Device.presentChange, hst, Device.enterLoaded, Device.modNest_eq]
  rw [Device.autoStartTest_off _ _ (by simpa using ha), Device.nest_setNest_same]

theorem Device.sequencerChange_empties (hst : (d.nest n).state = .loaded ∨ (d.nest n).state = .done) :
    ((d.sequencerChange n .present false).nest n).state = .empty := by
  rcases hst with h | h <;>
    simp only [Device.sequencerChange_present hlo, Device.presentChange, h, Device.enterEmpty_eq,
      Device.nest_setNest_same]

theorem Device.sequencerChange_released (hst : (d.nest n).state = .releasing) :
    ((d.sequencerChange n .clamped false).nest n).state = if d.taken n .present then .done else .empty := by
  simp only [Device.sequencerChange_clamped hlo, Device.clampedChange, hst, Device.enterDone_eq,
    Device.nest_setNest_same]
  split <;> rfl

theorem Device.sequencerChange_settles (hst : (d.nest n).state = .clamping) (hse : (d.nest n).settling = none)
    (hms : (d.map n).settle ≠ 0) : (d.sequencerChange n .clamped true).nest n = { d.nest n with
      settling := some (0, 96 * (d.map n).settle), history := addEvent (d.nest n).history .clamped } := by
  simp only [Device.sequencerChange_clamped hlo, Device.clampedChange, hst, hse, Option.isNone_none, if_true,
    Device.clampedTaken, Device.addHistory_eq, Device.setNest_map, if_neg hms, Device.modNest_eq,
    Device.nest_setNest_same]
  rfl

theorem Device.sequencerChange_unsettles (hst : (d.nest n).state = .clamping) :
    d.sequencerChange n .clamped false = d.setNest n { d.nest n with settling := none } := by
  simp only [Device.sequencerChange_clamped hlo, Device.clampedChange, hst, Device.modNest_eq]

theorem Device.sequencerChange_lid {b : Bool} (h : d.detects n .lid = false ∨ b = true) :
    d.sequencerChange n .lid b = d := by
  have hno : (d.detects n .lid && !b) = false := by rcases h with h | h <;> simp [h]
  simp only [Device.sequencerChange, hlo, hno, if_neg Bool.false_ne_true]

end

/-- Settles O53. -/
theorem inputChangeActs : Obligations.InputChangeActs := by
  intro s n l hl h1 hd
  refine ⟨_, exec_inputChangeTaken hl h1 hd, ?_⟩
  dsimp only
  rw [Device.takeLevel_eq]
  generalize hs : s.dev.levelTaken n l = d
  have hkeep := d.sequencerChange_keepsLines n l (!s.dev.taken n l)
  have hnests : d.nests = s.dev.nests := by rw [← hs]; rfl
  have hnest : ∀ m, d.nest m = s.dev.nest m := fun m => by rw [← hs]; rfl
  have hmap : d.map n = s.dev.map n := by rw [← hs, s.dev.levelTaken_map n l]
  have hdet : ∀ k, d.detects n k = s.dev.detects n k := fun k => by rw [Device.detects, hmap]; rfl
  have hself : d.taken n l = !s.dev.taken n l := by rw [← hs, s.dev.levelTaken_taken_same n l]
  have hothers : ∀ k, k ≠ l → d.taken n k = s.dev.taken n k := fun k hk => by
    rw [← hs, s.dev.levelTaken_taken_ne n hk]
  have htaken : ∀ k, (d.sequencerChange n l (!s.dev.taken n l)).taken n k = d.taken n k := fun k =>
    congrArg (fun f : Vector FixtureLines 4 => f[n].taken[inputIndex k]) hkeep.1
  refine ⟨by rw [htaken, hself], ?_, ?_, ?_, fun k hk => by rw [htaken, hothers k hk], fun m hm => ?_, fun h => ?_,
    fun hlo => ?_⟩
  · rw [hkeep.1, ← hs, s.dev.levelTaken_count n l]
  · rw [hkeep.1, ← hs, s.dev.levelTaken_changed n l]
  · rw [hkeep.2 n, ← hs, s.dev.levelTaken_flag n l]
  · rw [hkeep.1, ← hs, s.dev.levelTaken_fixture_ne l hm]
  · have hno : d.sequencerChange n l (!s.dev.taken n l) = d := by
      rcases h with rfl | h
      · simp only [Device.sequencerChange]
        split <;> rfl
      · simp only [Device.sequencerChange, hnest, h, if_true]
    rw [hno, hnests]
  · have hlo' : (d.nest n).loopback = false := by rw [hnest, hlo]
    refine ⟨?_, ?_, ?_, ?_, ?_, ?_, ?_⟩
    · rintro rfl hst ha htk
      rw [htk]
      exact Device.sequencerChange_loads hlo' (by rw [hnest, hst]) (by rw [hnest, ha])
    · rintro rfl hst htk
      rw [htk]
      exact Device.sequencerChange_empties hlo' (by rw [hnest]; exact hst)
    · rintro rfl hst htk
      rw [htk]
      exact (Device.sequencerChange_released hlo' (by rw [hnest, hst])).trans (by rw [hothers _ (by decide)])
    · rintro rfl hst htk hse hms
      rw [htk]
      exact (Device.sequencerChange_settles hlo' (by rw [hnest, hst]) (by rw [hnest, hse]) (by rw [hmap]; exact hms)).trans
        (by rw [hnest, hmap])
    · rintro rfl hst htk
      rw [htk, Bool.not_true, Device.sequencerChange_unsettles hlo' (by rw [hnest, hst]), ← hnest]
      exact ⟨Device.nest_setNest_same _ _ _, fun m hm => (Device.nest_setNest_ne _ _ hm).trans (hnest m)⟩
    · rintro rfl h
      rw [Device.sequencerChange_lid hlo' (by rw [hdet]; exact h.imp id fun k => by rw [k]; rfl), hnests]
    · intro h htk r hr
      rw [htk, Bool.not_true] at hkeep htaken ⊢
      have hloss : (s.dev.nest n).state.endsEarly = true ∨ (s.dev.nest n).state = .labelWait
          ∨ (s.dev.nest n).state = .marking → d.sequencerChange n l false = d.fixtureLoss n := fun k => by
        obtain ⟨hloaded, hdone, hreleasing⟩ := NestState.ends_ne k
        rw [← hnest] at hloaded hdone hreleasing h
        rw [← hdet] at h
        exact Device.sequencerChange_loss hlo' (h.imp (⟨·, hloaded, hdone⟩) (Or.imp (fun ⟨a, b⟩ => ⟨a, b, hreleasing⟩) id))
      have hr' : (d.nest n).record = some r := by rw [hnest, hr]
      have hafter : d.afterUnit n = if (d.sequencerChange n l false).taken n .clamped then .releasing
          else if (d.sequencerChange n l false).taken n .present then .done else .empty := by
        rw [Device.afterUnit_lines hlo', htaken, htaken]
      refine ⟨fun hst => ?_, fun hst => ?_, fun hst => ?_⟩
      · rw [← hafter]
        have heq := hloss (.inl hst)
        rw [← hnest] at hst
        obtain ⟨hstate, htone, hended, hdisc⟩ := Device.fixtureLoss_ends hr' hst
        rw [← heq] at hstate htone hended hdisc
        rw [hkeep.1, ← hnest]
        generalize d.sequencerChange n l false = e at hstate htone hended hdisc
        subst hs
        exact ⟨hstate, htone, hended, hdisc⟩
      · rw [hloss (.inr (.inl hst)), ← hnest]
        rw [← hnest] at hst
        simp only [Device.fixtureLoss, hst, Device.modRecord_eq, Device.nest_setNest_same, hr', Option.map_some]
      · rw [← hafter]
        have heq : d.sequencerChange n l false = d.exitTest n := by
          rw [hloss (.inr (.inr hst))]
          rw [← hnest] at hst
          simp only [Device.fixtureLoss, hst, Device.endMarking]
        obtain ⟨y, hy, hx⟩ := d.exitTest_exits n
        rw [heq, hy, Device.nest_setNest_same]
        subst hs
        exact ⟨hx.state, hx.record, hx.markClaim, rfl⟩

end Sys2Proof.Machine

namespace Sys2Proof.Machine

/-! ## Line states, FIXTURE SET and FIXTURE CLEAR (O52) -/

theorem Device.lineState_manual {d : Device} {n : NestId} {k : Fin 4} (h : (d.map n).mode[k] = .manual) :
    d.lineState n k = (d.fixture[n]).manual[k] := by simp only [Device.lineState, h]

theorem Device.lineState_sequencer {d : Device} {n : NestId} {k : Fin 4} (h : (d.map n).mode[k] = .sequencer) :
    d.lineState n k = (d.nest n).claim k := by simp only [Device.lineState, h]

theorem NestState.testStage_iff_mem (st : NestState) : st.testStage = true
    ↔ st ∈ [NestState.clamping, .levelLock, .quietCheck, .sweeping, .judging, .labelWait, .marking] := by
  cases st <;> decide

theorem Device.lineState_claims {d : Device} {n : NestId} {k : Fin 4} (h : (d.map n).mode[k] = .sequencer) :
    (k = 0 → (d.lineState n k = true ↔ (d.nest n).state ∈
        [.clamping, .levelLock, .quietCheck, .sweeping, .judging, .labelWait, .marking]))
    ∧ (k = 1 → d.lineState n k = (d.nest n).markClaim) ∧ (k = 2 → d.lineState n k = (d.nest n).gateClaim)
    ∧ (k = 3 → d.lineState n k = (d.nest n).lampClaim) := by
  rw [Device.lineState_sequencer h]
  refine ⟨?_, ?_, ?_, ?_⟩
  · rintro rfl
    rw [← NestState.testStage_iff_mem]
    rfl
  all_goals
    rintro rfl
    rfl

theorem Device.driveManual_fixture (d : Device) (outs : Word16) (level : Bool) (n : NestId) :
    (d.driveManual outs level).fixture[n] = d.fixture[n].drive (inOutputSet outs n) level := by
  simp [Device.driveManual]

theorem FixtureLines.drive_manual (x : FixtureLines) (named : Fin 4 → Bool) (level : Bool) (k : Fin 4) :
    (x.drive named level).manual[k] = if named k && decide (x.map.mode[k] = .manual) then level else x.manual[k] := by
  simp [FixtureLines.drive]

theorem OutputMode.ne_manual_iff {m : OutputMode} : m ≠ .manual ↔ m = .sequencer := by cases m <;> simp

theorem Device.refusedOutputs_getLsbD (d : Device) (outs : Word16) (n : NestId) (k : Fin 4) :
    (d.refusedOutputs outs).getLsbD (4 * n.val + k.val)
      = (outs.getLsbD (4 * n.val + k.val) && decide ((d.map n).mode[k] = .sequencer)) :=
  lineWord_getLsbD _ n k

theorem exec_fixtureSet {s : State} {tag h l : Byte} (hs : s.Heads 0x17 tag [h, l]) :
    exec (.fixtureSet tag (h ++ l)) s = .next (s.repliedWith 0x17 tag .ok
      (.outputs (s.dev.refusedOutputs (h ++ l)) (s.dev.driveManual (h ++ l) true).lines)
      (s.dev.driveManual (h ++ l) true)) := by
  rw [exec_command rfl hs (by simp [bodyLengths]) (decide_eq_true (rfl : outputSetOf [h, l] = some (h ++ l)))]
  rfl

theorem exec_fixtureClear {s : State} {tag h l : Byte} (hs : s.Heads 0x18 tag [h, l]) :
    exec (.fixtureClear tag (h ++ l)) s = .next (s.repliedWith 0x18 tag .ok
      (.outputs (s.dev.refusedOutputs (h ++ l)) (s.dev.driveManual (h ++ l) false).lines)
      (s.dev.driveManual (h ++ l) false)) := by
  rw [exec_command rfl hs (by simp [bodyLengths]) (decide_eq_true (rfl : outputSetOf [h, l] = some (h ++ l)))]
  rfl

/-! ## Orders of the items that a write can make due (log 12) -/

theorem mem_foldl_addItem (l acc : List DueItem) (i : DueItem) : i ∈ l.foldl addItem acc ↔ i ∈ acc ∨ i ∈ l := by
  induction l generalizing acc with
  | nil => simp
  | cons a l ih =>
    have hadd : i ∈ addItem acc a ↔ i ∈ acc ∨ i = a := by
      simp only [addItem]
      split
      · rename_i h
        exact ⟨.inl, fun k => k.elim id fun e => e ▸ List.contains_iff_mem.mp h⟩
      · simp
    rw [List.foldl_cons, ih, hadd, List.mem_cons, or_assoc]

theorem nodup_foldl_addItem (l : List DueItem) {acc : List DueItem} (h : acc.Nodup) : (l.foldl addItem acc).Nodup := by
  induction l generalizing acc with
  | nil => exact h
  | cons a l ih =>
    refine ih ?_
    simp only [addItem]
    split
    · exact h
    · rename_i ha
      exact List.nodup_append.mpr ⟨h, List.nodup_singleton a, fun b hb c hc e =>
        ha (List.contains_iff_mem.mpr (List.mem_singleton.mp hc ▸ e ▸ hb))⟩

/-- The order of the items names every item (log 12). -/
theorem mem_itemOrder (order : List DueItem) (i : DueItem) : i ∈ itemOrder order := by
  rw [itemOrder, mem_foldl_addItem, List.mem_append]
  refine .inr (.inr ?_)
  cases i with
  | input l => cases l <;> decide
  | clampTimeout => decide
  | releaseTimeout => decide

/-- The order of the items names no item twice. -/
theorem nodup_itemOrder (order : List DueItem) : (itemOrder order).Nodup := nodup_foldl_addItem _ List.nodup_nil

/-! ## What an item of a write does to the lines -/

/-- From `d` to `e` the map of nest `n`, its manual levels and the lines of every other nest stand. -/
def MapKept (d e : Device) (n : NestId) : Prop :=
  e.map n = d.map n ∧ (e.fixture[n]).manual = (d.fixture[n]).manual ∧ ∀ m, m ≠ n → e.fixture[m] = d.fixture[m]

/-- From `d` to `e` the taken level of an input and its count stand. -/
def InputKept (d e : Device) (n : NestId) (l : InputLine) : Prop :=
  e.taken n l = d.taken n l ∧ (e.fixture[n]).count[inputIndex l] = (d.fixture[n]).count[inputIndex l]

theorem MapKept.refl (d : Device) (n : NestId) : MapKept d d n := ⟨rfl, rfl, fun _ _ => rfl⟩

theorem MapKept.trans {d e f : Device} {n : NestId} (h : MapKept d e n) (k : MapKept e f n) : MapKept d f n :=
  ⟨k.1.trans h.1, k.2.1.trans h.2.1, fun m hm => (k.2.2 m hm).trans (h.2.2 m hm)⟩

theorem MapKept.of_fixture {d e : Device} (n : NestId) (h : e.fixture = d.fixture) : MapKept d e n := by
  refine ⟨?_, ?_, fun m _ => ?_⟩
  · rw [Device.map, h]; rfl
  · rw [h]
  · rw [h]

theorem InputKept.refl (d : Device) (n : NestId) (l : InputLine) : InputKept d d n l := ⟨rfl, rfl⟩

theorem InputKept.trans {d e f : Device} {n : NestId} {l : InputLine} (h : InputKept d e n l) (k : InputKept e f n l) :
    InputKept d f n l := ⟨k.1.trans h.1, k.2.trans h.2⟩

theorem InputKept.of_fixture {d e : Device} (n : NestId) (l : InputLine) (h : e.fixture = d.fixture) :
    InputKept d e n l := by
  refine ⟨?_, ?_⟩
  · rw [Device.taken, h]; rfl
  · rw [h]

/-- The lines after an input's change is taken are those before the Nest Sequencer acts. -/
theorem Device.takeLevel_fixture (d : Device) (n : NestId) (l : InputLine) :
    (d.takeLevel n l).fixture = (d.levelTaken n l).fixture := by
  rw [d.takeLevel_eq]
  exact (Device.sequencerChange_keepsLines _ n l _).1

theorem Device.levelTaken_mapKept (d : Device) (n : NestId) (l : InputLine) : MapKept d (d.levelTaken n l) n :=
  ⟨d.levelTaken_map n l, by rw [d.levelTaken_fixture_same n l]; rfl, fun _ hm => d.levelTaken_fixture_ne l hm⟩

theorem Device.levelTaken_inputKept (d : Device) (n : NestId) {k l : InputLine} (h : k ≠ l) :
    InputKept d (d.levelTaken n l) n k := by
  refine ⟨d.levelTaken_taken_ne n h, ?_⟩
  have hv : (inputIndex l).val ≠ (inputIndex k).val := fun e => h (inputIndex_injective (Fin.ext e.symm))
  rw [d.levelTaken_fixture_same n l]
  simp [FixtureLines.withTaken, hv]

theorem Device.releaseTimeout_fixture (d : Device) (n : NestId) : (d.releaseTimeout n).fixture = d.fixture := rfl

/-- What an item does to the lines of its nest: nothing, or it takes a due input. -/
theorem Device.takeItem_fixture (d : Device) (n : NestId) (i : DueItem) : (d.takeItem n i).fixture = d.fixture
    ∨ ∃ l, i = .input l ∧ d.inputDue n l = true ∧ (d.takeItem n i).fixture = (d.levelTaken n l).fixture := by
  cases i with
  | input l =>
    by_cases h : d.inputDue n l = true
    · refine .inr ⟨l, rfl, h, ?_⟩
      rw [Device.takeItem, if_pos h, d.takeLevel_fixture]
    · left
      rw [Device.takeItem, if_neg h]
  | clampTimeout =>
    left
    simp only [Device.takeItem]
    split
    · exact (d.earlyEnd_keepsLines n .fixture).1
    · rfl
  | releaseTimeout =>
    left
    simp only [Device.takeItem]
    split <;> rfl

theorem Device.takeItem_mapKept (d : Device) (n : NestId) (i : DueItem) : MapKept d (d.takeItem n i) n := by
  rcases d.takeItem_fixture n i with h | ⟨l, -, -, h⟩
  · exact .of_fixture n h
  · exact (d.levelTaken_mapKept n l).trans (.of_fixture n h)

theorem Device.takeItem_inputKept (d : Device) (n : NestId) {i : DueItem} {l : InputLine} (hi : i ≠ .input l) :
    InputKept d (d.takeItem n i) n l := by
  rcases d.takeItem_fixture n i with h | ⟨k, rfl, -, h⟩
  · exact .of_fixture n l h
  · exact (d.levelTaken_inputKept n fun e => hi (by rw [e])).trans (.of_fixture n l h)

theorem foldl_takeItem_mapKept (n : NestId) (l : List DueItem) (d : Device) :
    MapKept d (l.foldl (fun e i => Device.takeItem e n i) d) n := by
  induction l generalizing d with
  | nil => exact .refl d n
  | cons i l ih => exact (d.takeItem_mapKept n i).trans (ih _)

theorem foldl_takeItem_inputKept (n : NestId) {k : InputLine} (l : List DueItem) (hl : .input k ∉ l) (d : Device) :
    InputKept d (l.foldl (fun e i => Device.takeItem e n i) d) n k := by
  induction l generalizing d with
  | nil => exact .refl d n k
  | cons i l ih =>
    rw [List.mem_cons, not_or] at hl
    exact (d.takeItem_inputKept n (Ne.symm hl.1)).trans (ih hl.2 _)

/-- An input that is due is taken once in the fold over the items. -/
theorem foldl_takeItem_taken (n : NestId) {k : InputLine} {l : List DueItem} (hl : .input k ∈ l) (hd : l.Nodup)
    {d : Device} (hdue : d.inputDue n k = true) :
    (l.foldl (fun e i => Device.takeItem e n i) d).taken n k = !d.taken n k
    ∧ ((l.foldl (fun e i => Device.takeItem e n i) d).fixture[n]).count[inputIndex k] = 0 := by
  obtain ⟨before, after, rfl⟩ := List.append_of_mem hl
  rw [List.nodup_middle, List.nodup_cons, List.mem_append, not_or] at hd
  obtain ⟨⟨hbefore, hafter⟩, -⟩ := hd
  rw [List.foldl_append, List.foldl_cons]
  have hmap := foldl_takeItem_mapKept n before d
  have hinput := foldl_takeItem_inputKept n before hbefore d
  generalize before.foldl (fun e i => Device.takeItem e n i) d = e at hmap hinput
  have hdue' : e.inputDue n k = true := by
    rw [Device.inputDue] at hdue ⊢
    rw [hinput.2, hmap.1]
    exact hdue
  have hstep : (e.takeItem n (.input k)).fixture = (e.levelTaken n k).fixture := by
    rw [Device.takeItem, if_pos hdue', e.takeLevel_fixture]
  have hkept := (InputKept.of_fixture n k hstep).trans
    (foldl_takeItem_inputKept n after hafter (e.takeItem n (.input k)))
  refine ⟨?_, ?_⟩
  · rw [hkept.1, e.levelTaken_taken_same n k, hinput.1]
  · rw [hkept.2, e.levelTaken_count n k]

end Sys2Proof.Machine

namespace Sys2Proof.Machine

/-! ## FIXTURE MAP WRITE (O52) -/

theorem exec_fixtureMapWrite {s : State} {tag : Byte} {body : List Byte} (hs : s.Heads 0x19 tag body)
    (hl : body.length = 23) (n : NestId) (f : MapFields) (order : List DueItem) :
    exec (.fixtureMapWrite tag (BitVec.ofNat 8 n.val) f order) s = .next (s.answered tag 0x19
      (if !mapFits f then .refuse s.dev .badField
      else if (s.dev.nest n).state.testStage && mapTurns f (s.dev.map n) then .refuse s.dev .refusedState
      else .ok (s.dev.mapWrite n f order) (.map n ((s.dev.map n).write f)))) := by
  rw [exec_command rfl hs (by rw [hl]; decide) rfl, nestOf_ofNat]

/-- The part after the fields are replaced, before anything that the write makes due. -/
def Device.mapWritten (d : Device) (n : NestId) (f : MapFields) : Device :=
  d.modLines n fun x => x.write f fun k => d.lineState n k

theorem Device.mapWritten_fixture_same (d : Device) (n : NestId) (f : MapFields) :
    (d.mapWritten n f).fixture[n] = d.fixture[n].write f fun k => d.lineState n k := by
  simp [Device.mapWritten, Device.modLines]

theorem Device.mapWritten_fixture_ne (d : Device) {n m : NestId} (f : MapFields) (h : m ≠ n) :
    (d.mapWritten n f).fixture[m] = d.fixture[m] := by
  have hv : n.val ≠ m.val := fun e => h (Fin.ext e.symm)
  simp [Device.mapWritten, Device.modLines, hv]

theorem Device.mapWritten_map (d : Device) (n : NestId) (f : MapFields) :
    (d.mapWritten n f).map n = (d.map n).write f := by
  rw [Device.map, d.mapWritten_fixture_same n f]
  rfl

theorem Device.mapWritten_taken (d : Device) (n : NestId) (f : MapFields) (l : InputLine) :
    (d.mapWritten n f).taken n l = d.taken n l := by
  rw [Device.taken, d.mapWritten_fixture_same n f]
  rfl

theorem Device.mapWritten_count (d : Device) (n : NestId) (f : MapFields) (k : Fin 4) :
    ((d.mapWritten n f).fixture[n]).count[k]
      = if argDiffers f.polarity[k] (d.map n).polarity[k] then 0 else (d.fixture[n]).count[k] := by
  rw [d.mapWritten_fixture_same n f]
  exact (Vector.getElem_ofFn k.isLt).trans rfl

theorem argValue_manual {a : Arg OutputMode} : argValue a .sequencer = .manual ↔ a = .given .manual := by
  cases a <;> simp [argValue]

theorem Device.mapWritten_manual (d : Device) (n : NestId) (f : MapFields) (k : Fin 4) :
    ((d.mapWritten n f).fixture[n]).manual[k]
      = if (d.map n).mode[k] = .sequencer ∧ f.mode[k] = .given .manual then d.lineState n k
        else (d.fixture[n]).manual[k] := by
  rw [d.mapWritten_fixture_same n f]
  have hcond : (d.map n).mode[k] = .sequencer ∧ argValue f.mode[k] (d.map n).mode[k] = .manual
      ↔ (d.map n).mode[k] = .sequencer ∧ f.mode[k] = .given .manual :=
    and_congr_right fun h => by rw [h, argValue_manual]
  have hwrite : (d.fixture[n].write f fun k => d.lineState n k).manual[k]
      = if (d.map n).mode[k] = .sequencer ∧ argValue f.mode[k] (d.map n).mode[k] = .manual then d.lineState n k
        else (d.fixture[n]).manual[k] := (Vector.getElem_ofFn k.isLt).trans rfl
  rw [hwrite, if_congr hcond rfl rfl]

theorem Device.mapWrite_eq (d : Device) (n : NestId) (f : MapFields) (order : List DueItem) : d.mapWrite n f order
    = ((itemOrder order).filter (changedItem f (d.map n))).foldl (fun e i => Device.takeItem e n i)
        (d.mapWritten n f) := rfl

theorem changedItem_input_none {f : MapFields} (m : FixtureMap) {l : InputLine} (h : f.debounce[inputIndex l] = none) :
    changedItem f m (.input l) = false := by simp [changedItem, h]

theorem changedItem_input_some {f : MapFields} {m : FixtureMap} {l : InputLine} {ms : Nat}
    (h : f.debounce[inputIndex l] = some ms) (hne : ms ≠ m.debounce[inputIndex l]) :
    changedItem f m (.input l) = true := by
  simp only [changedItem, h, Option.getD_some, decide_eq_true hne]

/-- A release timeout that a write changes is one it gives, and not 0 (R175). -/
theorem releaseTimeout_pos {f : MapFields} {m : FixtureMap} (hf : mapFits f = true)
    (h : changedItem f m .releaseTimeout = true) : 0 < (m.write f).releaseTimeout := by
  simp only [changedItem, decide_eq_true_eq] at h
  cases hr : f.releaseTimeout with
  | none => exact absurd (by rw [hr]; rfl) h
  | some t =>
    simp only [mapFits, Bool.and_eq_true, hr, Option.all_some, decide_eq_true_eq] at hf
    simp only [FixtureMap.write, hr, Option.getD_some]
    omega

/-! ### The timeouts -/

/-- RELEASING is entered with the release timer at 0 (R22). -/
theorem Device.exitTest_releaseTimer {d : Device} {n : NestId} (h : ((d.exitTest n).nest n).state = .releasing) :
    ((d.exitTest n).nest n).releaseTimer = 0 := by
  by_cases hlo : (d.nest n).loopback = true
  · obtain ⟨y, hy, hx⟩ := d.exitTest_exits n
    rw [hy, Device.nest_setNest_same, hx.state, Device.afterUnit, if_pos hlo] at h
    cases h
  · by_cases hc : d.taken n .clamped = true
    · simp [Device.exitTest, hlo, Device.enterReleasing, Device.modNest_eq, hc]
    · simp [Device.exitTest, hlo, Device.enterReleasing, Device.modNest_eq, hc, Device.enterDone_eq]
      split <;> rfl

theorem Device.earlyEnd_releaseTimer {d : Device} {n : NestId} {r : UnitRecord} (hr : (d.nest n).record = some r)
    {cause : FailureClass} (hc : cause ≠ .link) (h : ((d.earlyEnd n cause).nest n).state = .releasing) :
    ((d.earlyEnd n cause).nest n).releaseTimer = 0 := by
  rw [Device.earlyEnd_eq cause hr, Device.afterEnd, if_neg hc] at h ⊢
  exact Device.exitTest_releaseTimer h

/-- A fold over members of which one alone does anything. -/
theorem foldl_one_of_mem {α β : Type} [DecidableEq β] {f : α → β → α} {a : α} {i : β} {l : List β} (hi : i ∈ l)
    (hd : l.Nodup) (h1 : ∀ j ∈ l, j ≠ i → f a j = a) (h2 : ∀ j ∈ l, j ≠ i → f (f a i) j = f a i) :
    l.foldl f a = f a i := by
  have hfold := foldl_one (f := fun x j => if j ∈ l then f x j else x) (a := a) (n := i) (l := l)
    (fun j hj => by
      split
      · exact h1 j ‹_› hj
      · rfl)
    (fun j hj => by
      rw [if_pos hi]
      split
      · exact h2 j ‹_› hj
      · rfl) hi hd
  rw [if_pos hi] at hfold
  rw [← hfold]
  exact List.foldl_ext _ _ _ fun x j hj => (if_pos hj).symm

theorem Device.takeItem_clampTimeout_idle {d : Device} {n : NestId} (h : (d.nest n).state ≠ .clamping) :
    d.takeItem n .clampTimeout = d := by
  simp [Device.takeItem, Device.clampExpired, h]

theorem Device.takeItem_releaseTimeout_idle {d : Device} {n : NestId}
    (h : (d.nest n).state = .releasing → (d.nest n).releaseTimer < msFrames (d.map n).releaseTimeout) :
    d.takeItem n .releaseTimeout = d := by
  rw [Device.takeItem, if_neg]
  rw [Device.releaseExpired, Bool.and_eq_true, decide_eq_true_eq, decide_eq_true_eq]
  exact fun ⟨hst, ht⟩ => absurd (h hst) (by omega)

section
variable {d : Device} {n : NestId} {f : MapFields} {order : List DueItem}
  (hdeb : ∀ k : Fin 4, f.debounce[k] = none)
include hdeb

/-- With no DEBOUNCE given, a write makes timeouts due alone. -/
theorem changed_timeouts {j : DueItem} (h : j ∈ (itemOrder order).filter (changedItem f (d.map n))) :
    j = .clampTimeout ∨ j = .releaseTimeout := by
  obtain ⟨-, hc⟩ := List.mem_filter.mp h
  cases j with
  | input l => rw [changedItem_input_none _ (hdeb _)] at hc; cases hc
  | clampTimeout => exact .inl rfl
  | releaseTimeout => exact .inr rfl

/-- A clamp timeout lowered to the timer times out in the step of the write (R176). -/
theorem Device.mapWrite_clampTimeout {ms : Nat} {r : UnitRecord} (hf : mapFits f = true)
    (hms : f.clampTimeout = some ms) (hne : ms ≠ (d.map n).clampTimeout) (hst : (d.nest n).state = .clamping)
    (hse : (d.nest n).settling = none) (ht : 96 * ms ≤ (d.nest n).clampTimer) (hr : (d.nest n).record = some r) :
    d.mapWrite n f order = (d.mapWritten n f).earlyEnd n .fixture := by
  have hrec : ((d.mapWritten n f).nest n).record = some r := hr
  have hend : (d.mapWritten n f).takeItem n .clampTimeout = (d.mapWritten n f).earlyEnd n .fixture := by
    have hexp : (d.mapWritten n f).clampExpired n = true := by
      have hmap : ((d.mapWritten n f).map n).clampTimeout = ms := by
        rw [d.mapWritten_map n f]
        simp [FixtureMap.write, hms]
      have hn : (d.mapWritten n f).nest n = d.nest n := rfl
      simp [Device.clampExpired, hn, hst, hse, hmap, msFrames, ht]
    rw [Device.takeItem, if_pos hexp, Device.clampTimeout]
  rw [d.mapWrite_eq, ← hend]
  refine foldl_one_of_mem (f := fun e i => Device.takeItem e n i) (i := .clampTimeout) ?_
    ((nodup_itemOrder order).filter _) (fun j hj hji => ?_) (fun j hj hji => ?_)
  · exact List.mem_filter.mpr ⟨mem_itemOrder order _, by simp [changedItem, hms, hne]⟩
  · obtain rfl := (changed_timeouts hdeb hj).resolve_left hji
    refine Device.takeItem_releaseTimeout_idle fun k => ?_
    have hn : (d.mapWritten n f).nest n = d.nest n := rfl
    rw [hn, hst] at k
    cases k
  · obtain rfl := (changed_timeouts hdeb hj).resolve_left hji
    rw [hend]
    refine Device.takeItem_releaseTimeout_idle fun k => ?_
    have hpos := releaseTimeout_pos hf (List.mem_filter.mp hj).2
    have hmap : ((d.mapWritten n f).earlyEnd n .fixture).map n = (d.map n).write f := by
      rw [← d.mapWritten_map n f, Device.map, ((d.mapWritten n f).earlyEnd_keepsLines n .fixture).1]
      rfl
    rw [Device.earlyEnd_releaseTimer hrec (by decide) k, hmap, msFrames]
    omega

/-- A release timeout lowered to the timer times out in the step of the write (R176). -/
theorem Device.mapWrite_releaseTimeout {ms : Nat} (hms : f.releaseTimeout = some ms)
    (hne : ms ≠ (d.map n).releaseTimeout) (hst : (d.nest n).state = .releasing)
    (ht : 96 * ms ≤ (d.nest n).releaseTimer) :
    d.mapWrite n f order = (d.mapWritten n f).releaseTimeout n := by
  have hn : (d.mapWritten n f).nest n = d.nest n := rfl
  have hend : (d.mapWritten n f).takeItem n .releaseTimeout = (d.mapWritten n f).releaseTimeout n := by
    have hexp : (d.mapWritten n f).releaseExpired n = true := by
      have hmap : ((d.mapWritten n f).map n).releaseTimeout = ms := by
        rw [d.mapWritten_map n f]
        simp [FixtureMap.write, hms]
      simp [Device.releaseExpired, hn, hst, hmap, msFrames, ht]
    rw [Device.takeItem, if_pos hexp]
  rw [d.mapWrite_eq, ← hend]
  refine foldl_one_of_mem (f := fun e i => Device.takeItem e n i) (i := .releaseTimeout) ?_
    ((nodup_itemOrder order).filter _) (fun j hj hji => ?_) (fun j hj hji => ?_)
  · exact List.mem_filter.mpr ⟨mem_itemOrder order _, by simp [changedItem, hms, hne]⟩
  · obtain rfl := (changed_timeouts hdeb hj).resolve_right hji
    exact Device.takeItem_clampTimeout_idle (by rw [hn, hst]; decide)
  · obtain rfl := (changed_timeouts hdeb hj).resolve_right hji
    rw [hend]
    refine Device.takeItem_clampTimeout_idle ?_
    simp [Device.releaseTimeout, Device.enterFault_eq]

end

/-- Settles O52. -/
theorem fixtureCommands : Obligations.FixtureCommands := by
  refine ⟨fun d n k => ⟨Device.lineState_manual, Device.lineState_claims, lineWord_getLsbD _ n k⟩,
    fun s tag => ⟨fun h l hs => ⟨_, exec_fixtureSet hs, fun n k => ?_, fun n => ?_,
      fun n k => s.dev.refusedOutputs_getLsbD _ n k, rfl⟩,
    fun h l hs => ⟨_, exec_fixtureClear hs, fun n k => ?_, fun n => ?_, rfl⟩, fun n f order body hs hl =>
    ⟨fun hf => ?_, fun hf hst ht => ?_, fun hf hgo => ?_⟩⟩⟩
  · rw [s.dev.driveManual_fixture, FixtureLines.drive_manual]
    change (if inOutputSet _ n k && decide ((s.dev.map n).mode[k] = _) then _ else _) = true ↔ _
    by_cases hm : (s.dev.map n).mode[k] = .manual <;> cases hb : (h ++ l).getLsbD (4 * n.val + k.val) <;>
      simp [inOutputSet, hb, hm]
  · rw [s.dev.driveManual_fixture]
    rfl
  · rw [s.dev.driveManual_fixture, FixtureLines.drive_manual]
    change (if inOutputSet _ n k && decide ((s.dev.map n).mode[k] = _) then _ else _) = true ↔ _
    rw [← OutputMode.ne_manual_iff]
    by_cases hm : (s.dev.map n).mode[k] = .manual <;> cases hb : (h ++ l).getLsbD (4 * n.val + k.val) <;>
      simp [inOutputSet, hb, hm]
  · rw [s.dev.driveManual_fixture]
    rfl
  · rw [exec_fixtureMapWrite hs hl]
    simp only [hf, Bool.not_false, if_true, State.answered_refuse]
  · rw [exec_fixtureMapWrite hs hl]
    simp only [hf, Bool.not_true, if_neg Bool.false_ne_true, hst, ht, Bool.and_self, if_true, State.answered_refuse]
  · have hno : ((s.dev.nest n).state.testStage && mapTurns f (s.dev.map n)) = false := by
      rcases hgo with h | h <;> simp [h]
    obtain ⟨hmap, hmanual, hothers⟩ := foldl_takeItem_mapKept n
      ((itemOrder order).filter (changedItem f (s.dev.map n))) (s.dev.mapWritten n f)
    rw [← s.dev.mapWrite_eq] at hmap hmanual hothers
    rw [s.dev.mapWritten_map n f] at hmap
    refine ⟨s.dev.mapWrite n f order, ?_, hmap, fun m hm => ?_, fun k => ?_, fun l ms hms hne hpol h1 h96 => ?_,
      fun l hnone => ?_, fun ms r hdeb hms hne hst hse ht hr => ?_, fun ms hdeb hms hne hst ht => ?_, fun h => ?_⟩
    · rw [exec_fixtureMapWrite hs hl, hmap]
      simp only [hf, hno, Bool.not_true, if_neg Bool.false_ne_true, State.answered_ok]
    · rw [hothers m hm, s.dev.mapWritten_fixture_ne f hm]
    · rw [hmanual, s.dev.mapWritten_manual n f k]
    · have hdue : (s.dev.mapWritten n f).inputDue n l = true := by
        rw [Device.inputDue, s.dev.mapWritten_count n f, s.dev.mapWritten_map n f, hpol]
        have hdeb : ((s.dev.map n).write f).debounce[inputIndex l] = ms := by
          rw [← Option.getD_some (a := ms) (b := (s.dev.map n).debounce[inputIndex l]), ← hms]
          simp [FixtureMap.write]
        rw [if_neg Bool.false_ne_true, hdeb, Bool.and_eq_true]
        exact ⟨decide_eq_true h1, decide_eq_true h96⟩
      rw [s.dev.mapWrite_eq, ← s.dev.mapWritten_taken n f l]
      exact foldl_takeItem_taken n
        (List.mem_filter.mpr ⟨mem_itemOrder order _, changedItem_input_some hms hne⟩) ((nodup_itemOrder order).filter _) hdue
    · have hkept := foldl_takeItem_inputKept n (k := l) ((itemOrder order).filter (changedItem f (s.dev.map n)))
        (fun hm => by
          have hc := (List.mem_filter.mp hm).2
          rw [changedItem_input_none _ hnone] at hc
          cases hc) (s.dev.mapWritten n f)
      rw [s.dev.mapWrite_eq, hkept.1, hkept.2, s.dev.mapWritten_taken n f l, s.dev.mapWritten_count n f]
      exact ⟨rfl, rfl⟩
    · rw [Device.mapWrite_clampTimeout hdeb hf hms hne hst hse ht hr]
      have hafter : (s.dev.mapWritten n f).afterUnit n = s.dev.afterUnit n := by
        rw [Device.afterUnit, Device.afterRelease, s.dev.mapWritten_taken, s.dev.mapWritten_taken]
        rfl
      have hfix := ((s.dev.mapWritten n f).earlyEnd_keepsLines n .fixture).1
      have hrec : ((s.dev.mapWritten n f).nest n).record = some r := hr
      rw [← hafter, hfix]
      by_cases hp : s.dev.labels.posted < 64
      · obtain ⟨hended, hstate, -, -⟩ := Device.earlyEnd_labels .fixture hrec hp
        exact ⟨hstate, fun _ => hended, fun k => absurd hp (by omega)⟩
      · obtain ⟨hdisc, hstate, -, -⟩ := Device.earlyEnd_discards .fixture hrec (Nat.le_of_not_lt hp)
        exact ⟨hstate, fun k => absurd k hp, fun _ => hdisc⟩
    · rw [Device.mapWrite_releaseTimeout hdeb hms hne hst ht]
      have hn : (s.dev.mapWritten n f).nest n = s.dev.nest n := rfl
      refine ⟨?_, ?_, rfl⟩ <;>
        simp only [Device.releaseTimeout, Device.enterFault_eq, Device.addHistory_eq, Device.raise_nest,
          Device.nest_setNest_same, hn]
    · rw [s.dev.mapWrite_eq, List.filter_eq_nil_iff.mpr fun i _ => by rw [h i]; exact Bool.false_ne_true]
      rfl

end Sys2Proof.Machine

namespace Sys2Proof.Machine

/-! ## A nest that presents no start stays as it is -/

/-- No start is presented in this state (R53). -/
def NestState.idle (st : NestState) : Prop := st ≠ .levelLock ∧ st ≠ .quietCheck ∧ st ≠ .sweeping

theorem Nest.started_idle {x : Nest} (h : x.state.idle) : x.started = x := by
  obtain ⟨h1, h2, h3⟩ := h
  simp only [Nest.started]
  split
  · exact absurd ‹_› h1
  · exact absurd ‹_› h2
  · exact absurd ‹_› h3
  all_goals rfl

theorem Device.beginStart_idle {d : Device} {k : NestId} (h : (d.nest k).state.idle) (m : NestId) :
    (d.beginStart m).nest k = d.nest k := by
  by_cases e : k = m
  · subst e; rw [Device.beginStart_nest_same, Nest.started_idle h]
  · exact d.beginStart_nest_ne e

theorem Device.grantTest_idle {d : Device} {k : NestId} (h : (d.nest k).state.idle) (g : GroupId) :
    (d.grantTest g).nest k = d.nest k := by
  rcases d.grantTest_cases g with e | ⟨n, rest, _, _, e⟩
  · rw [e]
  · rw [e, Device.beginStart_idle (by rwa [Device.modGroup_nest]), Device.modGroup_nest]

theorem Device.foldHeld_idle {k : NestId} (g : GroupId) (l : List NestId) {d : Device} (h : (d.nest k).state.idle) :
    (l.foldl (Device.beginIfHeld g) d).nest k = d.nest k := by
  induction l generalizing d with
  | nil => rfl
  | cons m l ih =>
    have h1 : (d.beginIfHeld g m).nest k = d.nest k := by
      simp only [Device.beginIfHeld]
      split
      · exact Device.beginStart_idle h m
      · rfl
    rw [List.foldl_cons, ih (by rw [h1]; exact h), h1]

theorem Device.leaveArbiter_idle {d : Device} {k n : NestId} (hk : k ≠ n) (h : (d.nest k).state.idle) :
    (d.leaveArbiter n).nest k = d.nest k := by
  have hset : ∀ f : Group → Group, (((d.setSub n .none).modGroup (d.groupOf n) f).nest k) = d.nest k := fun f => by
    rw [Device.modGroup_nest, Device.setSub_eq, Device.nest_setNest_ne _ _ hk]
  simp only [Device.leaveArbiter, Device.settleGroup, Device.beginHeld]
  have hgrant := fun f : Group → Group => Device.grantTest_idle (g := d.groupOf n)
    (d := (d.setSub n .none).modGroup (d.groupOf n) f) (k := k) (by rw [hset]; exact h)
  split
  · rw [Device.foldHeld_idle _ _ (by rw [hgrant, hset]; exact h), hgrant, hset]
  · rw [hgrant, hset]

theorem Device.unpin_nest (d : Device) (b : BankId) (n : NestId) : (d.unpin b).nest n = d.nest n := by
  rw [(d.unpin_spec b).frame]; rfl

theorem Device.endInTest_idle {d : Device} {k n : NestId} (hk : k ≠ n) (h : (d.nest k).state.idle) (r : UnitRecord) :
    (d.endInTest n r).nest k = d.nest k := by
  rw [Device.endInTest, Device.leaveArbiter_idle hk (by rw [Device.unpin_nest]; exact h), Device.unpin_nest]

theorem Device.postVerdict_idle {d : Device} {k n : NestId} (hk : k ≠ n) (h : (d.nest k).state.idle) (r : UnitRecord)
    (v : Verdict) : (d.postVerdict n r v).nest k = d.nest k := by
  have hp := (d.postLabel_spec n (verdictLabel d.labels.counter n r v) r.attached).nest_ne hk
  have hfree : (if r.chainKept then d.postLabel n (verdictLabel d.labels.counter n r v) r.attached
      else (d.postLabel n (verdictLabel d.labels.counter n r v) r.attached).freeChain r.chain).nest k = d.nest k := by
    split <;> exact hp
  rw [Device.postVerdict_eq, Device.modRecord_eq, Device.nest_setNest_ne _ _ hk, Device.postedVerdict,
    Device.endInTest_idle hk (by rw [hfree]; exact h), hfree]

/-! ## The claims of a nest that enters MARKING or leaves its test (R21, R108, R109) -/

/-- From `x` to `y` a nest has made the claims of an action set, as `ClaimsMade` says of the part. -/
def ClaimsOf (x y : Nest) (actions : ActionSet) : Prop :=
  y.markClaim = actions.getLsbD 0
  ∧ y.gateClaim = (decide (y.state ≠ .empty) && (x.gateClaim || actions.getLsbD 1))
  ∧ y.lampClaim = (decide (y.state ≠ .empty) && (x.lampClaim || actions.getLsbD 2))
  ∧ (actions.getLsbD 0 = true → y.markTimer = 0)

theorem claimsMade_iff {d e : Device} {n : NestId} {actions : ActionSet} :
    ClaimsMade d e n actions ↔ ClaimsOf (d.nest n) (e.nest n) actions := Iff.rfl

/-- A nest that leaves its test keeps its GATE and LAMP claims, unless it comes to EMPTY (R3, R22). -/
theorem Device.exitTest_claims (d : Device) (n : NestId) : ∃ y, d.exitTest n = d.setNest n y
    ∧ Exited (d.nest n) y (d.afterUnit n)
    ∧ y.gateClaim = (decide (y.state ≠ .empty) && (d.nest n).gateClaim)
    ∧ y.lampClaim = (decide (y.state ≠ .empty) && (d.nest n).lampClaim) := by
  obtain ⟨y, hy, hx⟩ := d.exitTest_exits n
  have hn : y = (d.exitTest n).nest n := by rw [hy, Device.nest_setNest_same]
  refine ⟨y, hy, hx, ?_⟩
  rw [hn]
  by_cases hlo : (d.nest n).loopback = true
  · have he : d.exitTest n = d.setNest n { d.nest n with
        record := none, markClaim := false, settling := none, state := .loaded, autoTestOwed := false } := by
      simp only [Device.exitTest, hlo, if_true, Device.enterLoaded, Device.modNest_eq]
      rw [Device.autoStartTest_loopback _ _ (by simp)]
      simp
    rw [he, Device.nest_setNest_same]
    exact ⟨rfl, rfl⟩
  · by_cases hc : d.taken n .clamped = true
    · simp [Device.exitTest, hlo, Device.enterReleasing, Device.modNest_eq, hc]
    · by_cases hp : d.taken n .present = true <;>
        simp [Device.exitTest, hlo, Device.enterReleasing, Device.modNest_eq, hc, Device.enterDone_eq, hp]

/-- MARKING is entered with the claims of the action set, and left at once where the set does not name MARK. -/
theorem Device.enterMarking_claims (d : Device) (n : NestId) (v : Verdict) : ∃ y, d.enterMarking n v = d.setNest n y
    ∧ y.state = (if actMark v.actions then .marking else d.afterUnit n) ∧ y.history = (d.nest n).history
    ∧ ClaimsOf (d.nest n) y v.actions := by
  rw [Device.enterMarking_eq]
  cases h : actMark v.actions with
  | true => exact ⟨_, rfl, rfl, rfl, rfl, rfl, rfl, fun _ => rfl⟩
  | false =>
    obtain ⟨y, hy, hx, hgate, hlamp⟩ := (d.setNest n ((d.nest n).marking v)).exitTest_claims n
    rw [Device.nest_setNest_same] at hx hgate hlamp
    refine ⟨y, ?_, ?_, hx.history, ?_, hgate, hlamp, fun k => ?_⟩
    · rw [if_neg Bool.false_ne_true, hy, Device.setNest_setNest]
    · rw [hx.state, if_neg Bool.false_ne_true]
      exact Device.afterUnit_congr rfl (by rw [Device.nest_setNest_same]; rfl)
    · rw [hx.markClaim]
      exact h.symm
    · rw [actMark] at h
      rw [h] at k
      cases k

/-! ## GRANTS (O41) -/

theorem Device.postVerdict_afterUnit (d : Device) (n : NestId) (r : UnitRecord) (v : Verdict) :
    (d.postVerdict n r v).afterUnit n = d.afterUnit n := by
  have hp := d.postVerdict_spec n r v
  refine Device.afterUnit_congr ?_ ?_
  · rw [hp.frame]
  · obtain ⟨q, hq⟩ := hp.self
    rw [hq]

/-- The part after the head of the Ring Wait Queue has left it. -/
def Device.dequeued (d : Device) (rest : List NestId) : Device :=
  { d with labels := { d.labels with waitQueue := rest } }

/-- A grant to the head of the Ring Wait Queue: its label is posted, and the nest goes on (R20, R106). -/
theorem Device.grantEntry_spec {d : Device} {n : NestId} {rest : List NestId} {r : UnitRecord} {v : Verdict}
    (hq : d.labels.waitQueue = n :: rest) (hf : d.labels.posted < 64) (hr : (d.nest n).record = some r)
    (hv : r.verdict = some v) : ∃ y, d.grantEntry = ((d.dequeued rest).postVerdict n r v).setNest n y
      ∧ y.state = (if r.partLost = false ∧ actMark v.actions = true then .marking else d.afterUnit n)
      ∧ ClaimsOf (d.nest n) y (if r.partLost then 0 else v.actions) := by
  have hfree : d.labels.hasFree = true := by simp [LabelUnit.hasFree, hf]
  have hrec : ((d.dequeued rest).nest n).record = some r := hr
  have hclaim : d.grantEntry = if r.partLost then ((d.dequeued rest).postVerdict n r v).exitTest n
      else ((d.dequeued rest).postVerdict n r v).enterMarking n v := by
    have hgrant : d.grantEntry = (d.dequeued rest).grantClaim n := by
      simp only [Device.grantEntry, hq, hfree, if_true]
      rfl
    rw [hgrant]
    simp only [Device.grantClaim, hrec, hv]
  have hafter : ((d.dequeued rest).postVerdict n r v).afterUnit n = d.afterUnit n :=
    ((d.dequeued rest).postVerdict_afterUnit n r v).trans rfl
  obtain ⟨q, hself⟩ := ((d.dequeued rest).postVerdict_spec n r v).self
  rw [hclaim]
  cases hl : r.partLost with
  | true =>
    obtain ⟨y, hy, hx, hgate, hlamp⟩ := ((d.dequeued rest).postVerdict n r v).exitTest_claims n
    rw [hself] at hgate hlamp
    refine ⟨y, hy, ?_, ?_, ?_, ?_, fun k => ?_⟩
    · rw [hx.state, hafter]
      rfl
    · rw [hx.markClaim, if_pos rfl]
      rfl
    · rw [hgate]
      simp
      rfl
    · rw [hlamp]
      simp
      rfl
    · simp at k
  | false =>
    obtain ⟨y, hy, hstate, -, hclaims⟩ := ((d.dequeued rest).postVerdict n r v).enterMarking_claims n v
    rw [hself] at hclaims
    refine ⟨y, hy, ?_, hclaims⟩
    rw [hstate, hafter]
    simp only [true_and]

theorem UnitRecord.attached_eq (r : UnitRecord) :
    r.attached = if r.chainKept = true ∧ r.chain.blocks ≠ [] then some r.chain else none := by
  cases hk : r.chainKept <;> cases hb : r.chain.blocks <;> simp [UnitRecord.attached, hk, hb]

/-- Settles O41. -/
theorem grantPostsWaitingLabel : Obligations.GrantPostsWaitingLabel := by
  intro d n rest r v hq hf hr hv hst
  obtain ⟨y, hy, hstate, hclaims⟩ := Device.grantEntry_spec hq hf hr hv
  have hp := (d.dequeued rest).postVerdict_spec n r v
  have hlabels : d.grantEntry.labels = _ := (congrArg Device.labels hy).trans hp.labels
  have hyields : d.grantEntry.yields = _ := (congrArg Device.yields hy).trans hp.yields
  refine ⟨by rw [hlabels]; rfl, by rw [hlabels]; rfl, by rw [hlabels]; rfl, 
    ⟨{ label := verdictLabel d.labels.counter n r v, chain := r.attached }, ?_, rfl, r.attached_eq⟩, ?_, ?_, ?_⟩
  · rw [hlabels]
    exact Vector.getElem_set_self _
  · rw [hy, Device.nest_setNest_same, hstate]
  · rw [claimsMade_iff, hy, Device.nest_setNest_same]
    exact hclaims
  · rw [hyields]
    exact (Vector.getElem_set_self _).trans (Counters.countLabel_eq _ _)

end Sys2Proof.Machine

namespace Sys2Proof.Machine

/-! ## THE INBOUND PARSER (O22) -/

theorem sumBytes_append (l m : List Byte) : sumBytes (l ++ m) = sumBytes l + sumBytes m := by
  induction l with
  | nil => simp [sumBytes]
  | cons b l ih =>
    change b + sumBytes (l ++ m) = b + sumBytes l + sumBytes m
    rw [ih, BitVec.add_assoc]

theorem sumBytes_singleton (b : Byte) : sumBytes [b] = b := by simp [sumBytes]

theorem sumBytes_messageBytes (type tag : Byte) (body : List Byte) : sumBytes (messageBytes type tag body) = 0 := by
  rw [messageBytes, sumBytes_append, sumBytes_singleton]
  exact BitVec.add_right_neg _

/-- A byte that neither completes the message nor is a length byte above 240 joins it (R182). -/
theorem State.feedByte_joins {s : State} {b : Byte} (hp : s.mgmt.parser = .receiving)
    (hlen : s.mgmt.partBytes.length ≠ 2 ∨ b.toNat ≤ 240)
    (hend : s.mgmt.partBytes.length < 3 ∨ s.mgmt.partBytes.length ≠ (s.mgmt.partBytes.getD 2 0).toNat + 3) :
    s.feedByte (some b) = { s with mgmt := { s.mgmt with partBytes := s.mgmt.partBytes ++ [b] } } := by
  have hlong : ¬((s.mgmt.partBytes ++ [b]).length = 3 ∧ 240 < b.toNat) := by
    rw [List.length_append, List.length_singleton]
    omega
  have hmore : ¬(3 ≤ (s.mgmt.partBytes ++ [b]).length
      ∧ (s.mgmt.partBytes ++ [b]).length = ((s.mgmt.partBytes ++ [b]).getD 2 0).toNat + 4) := by
    rw [List.length_append, List.length_singleton]
    rcases Nat.lt_trichotomy s.mgmt.partBytes.length 2 with h | h | h
    · omega
    · omega
    · rw [List.getD_append _ _ _ _ h]
      omega
  simp only [State.feedByte, hp, if_neg hlong, if_neg hmore]

/-- The byte at the end of the length completes the message (R182). -/
theorem State.feedByte_completes {s : State} {b : Byte} (hp : s.mgmt.parser = .receiving)
    (hthree : 3 ≤ s.mgmt.partBytes.length)
    (hend : s.mgmt.partBytes.length = (s.mgmt.partBytes.getD 2 0).toNat + 3) :
    s.feedByte (some b) = { s with mgmt := { s.mgmt with
      parser := .hunt, partBytes := [], completed := s.mgmt.completed ++ [s.mgmt.partBytes ++ [b]] } } := by
  have hlong : ¬((s.mgmt.partBytes ++ [b]).length = 3 ∧ 240 < b.toNat) := by
    rw [List.length_append, List.length_singleton]
    omega
  have hlast : 3 ≤ (s.mgmt.partBytes ++ [b]).length
      ∧ (s.mgmt.partBytes ++ [b]).length = ((s.mgmt.partBytes ++ [b]).getD 2 0).toNat + 4 := by
    rw [List.length_append, List.length_singleton, List.getD_append _ _ _ _ (by omega)]
    omega
  simp only [State.feedByte, hp, if_neg hlong, if_pos hlast]

/-- The bytes of a body join the message one after the other. -/
theorem State.feedBytes_join (l : List Byte) : ∀ {s : State}, s.mgmt.parser = .receiving →
    3 ≤ s.mgmt.partBytes.length → s.mgmt.partBytes.length + l.length ≤ (s.mgmt.partBytes.getD 2 0).toNat + 3 →
    (l.map some).foldl State.feedByte s = { s with mgmt := { s.mgmt with partBytes := s.mgmt.partBytes ++ l } } := by
  induction l with
  | nil =>
    intro s _ _ _
    rw [List.append_nil]
    rfl
  | cons b l ih =>
    intro s hp hthree hl
    rw [List.length_cons] at hl
    rw [List.map_cons, List.foldl_cons, State.feedByte_joins hp (.inl (by omega)) (.inr (by omega)), ih]
    · simp only [List.append_assoc, List.singleton_append]
    · exact hp
    · simp only [List.length_append]
      omega
    · simp only [List.length_append, List.length_singleton, List.getD_append _ _ _ _ hthree]
      omega

/-- The parser within a message of which these bytes have come. -/
def State.receiving (s : State) (part : List Byte) : State :=
  { s with mgmt := { s.mgmt with parser := .receiving, partBytes := part } }

/-- A whole message that follows an idle byte waits complete (R181, R182). -/
theorem State.feedMessage {s : State} (type tag : Byte) {body : List Byte} (hp : s.mgmt.parser = .ready)
    (hbody : body.length ≤ 240) : ((messageBytes type tag body).map some).foldl State.feedByte s
      = { s with mgmt := { s.mgmt with
          parser := .hunt, partBytes := [], completed := s.mgmt.completed ++ [messageBytes type tag body] } } := by
  have hlen : (BitVec.ofNat 8 body.length).toNat = body.length := by
    rw [BitVec.toNat_ofNat]
    omega
  have htype : s.feedByte (some type) = s.receiving [type] := by simp only [State.feedByte, hp]; rfl
  have htag : (s.receiving [type]).feedByte (some tag) = s.receiving [type, tag] :=
    State.feedByte_joins rfl (.inl (Nat.succ_ne_succ_iff.mpr Nat.zero_ne_one)) (.inl Nat.one_lt_ofNat)
  have hlength : (s.receiving [type, tag]).feedByte (some (BitVec.ofNat 8 body.length))
      = s.receiving [type, tag, BitVec.ofNat 8 body.length] :=
    State.feedByte_joins rfl (.inr (hlen.trans_le hbody)) (.inl (Nat.lt_succ_self 2))
  have hbytes : (body.map some).foldl State.feedByte (s.receiving [type, tag, BitVec.ofNat 8 body.length])
      = s.receiving (type :: tag :: BitVec.ofNat 8 body.length :: body) :=
    State.feedBytes_join body rfl (le_refl 3) (by
      change 3 + body.length ≤ (BitVec.ofNat 8 body.length).toNat + 3
      omega)
  rw [messageBytes, List.map_append, List.foldl_append, List.map_cons, List.foldl_cons, htype, List.map_cons,
    List.foldl_cons, htag, List.map_cons, List.foldl_cons, hlength, hbytes]
  refine State.feedByte_completes (s := s.receiving (type :: tag :: BitVec.ofNat 8 body.length :: body)) rfl ?_ ?_
  · change 3 ≤ (type :: tag :: BitVec.ofNat 8 body.length :: body).length
    simp
  · change (type :: tag :: BitVec.ofNat 8 body.length :: body).length = (BitVec.ofNat 8 body.length).toNat + 3
    rw [hlen]
    rfl

/-- An over-long length byte discards the message (R182). -/
theorem State.feedByte_tooLong {s : State} {b : Byte} (hp : s.mgmt.parser = .receiving)
    (htwo : s.mgmt.partBytes.length = 2) (hb : 240 < b.toNat) : s.feedByte (some b) = { s with
      mgmt := { s.mgmt with parser := .hunt, partBytes := [], discards := s.mgmt.discards + 1 }
      dev := if s.mgmt.discards = 255 then s.dev.raise discardSource else s.dev } := by
  have hlong : (s.mgmt.partBytes ++ [b]).length = 3 ∧ 240 < b.toNat := by
    rw [List.length_append, htwo]
    exact ⟨rfl, hb⟩
  simp only [State.feedByte, hp, if_pos hlong, State.dropPartMessage, if_true, State.discardMessage]

/-- Settles O22. -/
theorem parserCompletesMessage : Obligations.ParserCompletesMessage := by
  refine fun s => ⟨fun type tag body hp hb => ⟨State.feedMessage type tag hp hb, sumBytes_messageBytes type tag body⟩,
    fun hp => ⟨?_, fun b => ?_⟩, fun hp => ⟨?_, fun b => ?_⟩,
    fun hp => ⟨?_, fun b htwo hb => State.feedByte_tooLong hp htwo hb, fun b => State.feedByte_joins hp⟩⟩
  all_goals simp only [State.feedByte, hp, State.discardMessage]

/-! ## MESSAGE_RECEIVED (O23) -/

theorem exec_messageReceived {s : State} {bytes : List Byte} {rest : List (List Byte)}
    (h : s.mgmt.completed = bytes :: rest) : exec .messageReceived s
      = .next ({ s with mgmt := { s.mgmt with completed := rest } }.takeMessage bytes) := by
  change execMessageReceived s = _
  simp only [execMessageReceived, h]

/-- Settles O23. -/
theorem messageTakenOrDiscarded : Obligations.MessageTakenOrDiscarded := by
  refine fun s bytes rest h => ⟨fun hsum hcredit => ?_, fun hbad => ?_⟩ <;>
    rw [exec_messageReceived h, State.takeMessage]
  · rw [if_neg (not_not_intro hsum), if_neg (Nat.not_le.mpr hcredit)]
  · by_cases hsum : sumBytes bytes = 0
    · rw [if_neg (not_not_intro hsum), if_pos (hbad.resolve_left (not_not_intro hsum))]
      rfl
    · rw [if_pos hsum]
      rfl

end Sys2Proof.Machine

namespace Sys2Proof.Machine

/-! ## THE SOURCES OF NOTICES -/

theorem Device.noticeBody_nestFault (d : Device) (discards : Byte) (n : NestId) :
    d.noticeBody discards (nestFaultSource n) = BitVec.ofNat 8 n.val :: d.nestFaultBytes n :=
  congrArg (List.cons _) (dif_pos n.isLt)

theorem Device.noticeBody_fixture (d : Device) (discards : Byte) (n : NestId) :
    d.noticeBody discards (fixtureSource n) = BitVec.ofNat 8 (4 + n.val) :: d.fixtureBytes n := by
  have hclass : ¬ (fixtureSource n).val < 4 := by simp only [fixtureSource]; omega
  have hnest : (fixtureSource n).val - 4 < 4 := by simp only [fixtureSource]; omega
  have hn : (⟨(fixtureSource n).val - 4, hnest⟩ : NestId) = n := Fin.ext (Nat.add_sub_cancel_left 4 n.val)
  refine congrArg (List.cons _) ?_
  rw [Device.noticeBytesOf, dif_neg hclass, dif_pos hnest, hn]

theorem Device.noticeBody_cal (d : Device) (discards : Byte) (n : NestId) :
    d.noticeBody discards (calSource n) = BitVec.ofNat 8 (8 + n.val) :: d.calBytes n := by
  have hfault : ¬ (calSource n).val < 4 := by simp only [calSource]; omega
  have hfixture : ¬ (calSource n).val - 4 < 4 := by simp only [calSource]; omega
  have hnest : (calSource n).val - 8 < 4 := by simp only [calSource]; omega
  have hn : (⟨(calSource n).val - 8, hnest⟩ : NestId) = n := Fin.ext (Nat.add_sub_cancel_left 8 n.val)
  refine congrArg (List.cons _) ?_
  rw [Device.noticeBytesOf, dif_neg hfault, dif_neg hfixture, dif_pos hnest, hn]

theorem Device.selectNotice_nestFault (d : Device) (n : NestId) : d.selectNotice (nestFaultSource n)
    = { d with notices := { d.notices with
        pending := d.notices.pending.set (nestFaultSource n) false, refusal := d.notices.refusal.set n none } } :=
  dif_pos n.isLt

theorem Device.selectNotice_fixture (d : Device) (n : NestId) : d.selectNotice (fixtureSource n) = { d with
    notices := { d.notices with pending := d.notices.pending.set (fixtureSource n) false }
    fixture := d.fixture.set n { d.fixture[n] with changed := Vector.replicate 4 false } } := by
  have hclass : ¬ (fixtureSource n).val < 4 := by simp only [fixtureSource]; omega
  have hnest : (fixtureSource n).val - 4 < 4 := by simp only [fixtureSource]; omega
  have hn : (⟨(fixtureSource n).val - 4, hnest⟩ : NestId) = n := Fin.ext (Nat.add_sub_cancel_left 4 n.val)
  rw [Device.selectNotice, Device.consumeDetail, dif_neg hclass, dif_pos hnest, hn]
  rfl

theorem Device.selectNotice_cal (d : Device) (n : NestId) : d.selectNotice (calSource n)
    = { d with notices := { d.notices with
        pending := d.notices.pending.set (calSource n) false, calCause := d.notices.calCause.set n none } } := by
  have hfault : ¬ (calSource n).val < 4 := by simp only [calSource]; omega
  have hfixture : ¬ (calSource n).val - 4 < 4 := by simp only [calSource]; omega
  have hnest : (calSource n).val - 8 < 4 := by simp only [calSource]; omega
  have hn : (calSource n).val - 8 = n.val := Nat.add_sub_cancel_left 8 n.val
  rw [Device.selectNotice, Device.consumeDetail, dif_neg hfault, dif_neg hfixture, dif_pos hnest]
  simp only [hn]

/-- The sources after LABELS record nothing (R191). -/
theorem Device.selectNotice_plain (d : Device) {i : SourceId} (h : 13 ≤ i.val) : d.selectNotice i
    = { d with notices := { d.notices with pending := d.notices.pending.set i false } } := by
  have hlabels : i ≠ labelsSource := fun he => by rw [he] at h; exact absurd h (by decide)
  rw [Device.selectNotice, Device.consumeDetail, dif_neg (by omega), dif_neg (by omega), dif_neg (by omega),
    if_neg hlabels]

theorem Device.consumeDetail_pending (d : Device) (i : SourceId) :
    (d.consumeDetail i).notices.pending = d.notices.pending := by
  rw [Device.consumeDetail]
  split_ifs <;> rfl

/-! ## BIDS (O25) -/

theorem NoticeArbiter.bid_eq (a : NoticeArbiter) (i : SourceId) : a.bid i
    = if a.pending[i] = true ∧ 1 ≤ a.priorities[sourceClass i] then
        some (a.priorities[sourceClass i] * 32 + i.val) else none := by
  rw [NoticeArbiter.bid]
  refine if_congr ?_ rfl rfl
  rw [Bool.and_eq_true, decide_eq_true_iff]
  rfl

theorem NoticeArbiter.bid_some {a : NoticeArbiter} {i : SourceId} {b : Nat} (h : a.bid i = some b) :
    b = a.priorities[sourceClass i] * 32 + i.val := by
  rw [a.bid_eq] at h
  split at h
  · exact (Option.some.inj h).symm
  · cases h

/-- No two sources bid the same. -/
theorem NoticeArbiter.bid_injective {a : NoticeArbiter} {i j : SourceId} {b : Nat} (hi : a.bid i = some b)
    (hj : a.bid j = some b) : i = j := by
  have h := (NoticeArbiter.bid_some hi).symm.trans (NoticeArbiter.bid_some hj)
  exact Fin.ext (by omega)

/-- The best bid among these sources. -/
structure NoticeArbiter.Best (a : NoticeArbiter) (l : List SourceId) (best : Option SourceId) : Prop where
  none_bids : best = none → ∀ j ∈ l, a.bid j = none
  highest : ∀ i, best = some i → ∃ b, a.bid i = some b ∧ ∀ j ∈ l, ∀ c, a.bid j = some c → c ≤ b

theorem NoticeArbiter.Best.better {a : NoticeArbiter} {l : List SourceId} {best : Option SourceId}
    (h : a.Best l best) (i : SourceId) : a.Best (l ++ [i]) (a.better best i) := by
  obtain ⟨hnone, hsome⟩ := h
  cases hi : a.bid i with
  | none =>
    rw [show a.better best i = best by simp only [NoticeArbiter.better, hi]]
    refine ⟨fun k j hj => ?_, fun m hm => ?_⟩
    · rcases List.mem_append.mp hj with hj | hj
      · exact hnone k j hj
      · rw [List.mem_singleton.mp hj, hi]
    · obtain ⟨b, hb, hmax⟩ := hsome m hm
      refine ⟨b, hb, fun j hj c hc => ?_⟩
      rcases List.mem_append.mp hj with hj | hj
      · exact hmax j hj c hc
      · rw [List.mem_singleton.mp hj, hi] at hc
        cases hc
  | some b =>
    cases best with
    | none =>
      rw [show a.better none i = some i by simp only [NoticeArbiter.better, hi]]
      refine ⟨fun k => (nomatch k), fun m hm => ⟨b, Option.some.inj hm ▸ hi, fun j hj c hc => ?_⟩⟩
      rcases List.mem_append.mp hj with hj | hj
      · rw [hnone rfl j hj] at hc
        cases hc
      · rw [List.mem_singleton.mp hj, hi] at hc
        exact (Option.some.inj hc).ge
    | some k =>
      obtain ⟨e, he, hmax⟩ := hsome k rfl
      rw [show a.better (some k) i = if e < b then some i else some k by
        simp only [NoticeArbiter.better, hi, he, Option.getD_some]]
      by_cases hlt : e < b
      · rw [if_pos hlt]
        refine ⟨fun k => (nomatch k), fun m hm => ⟨b, Option.some.inj hm ▸ hi, fun j hj c hc => ?_⟩⟩
        rcases List.mem_append.mp hj with hj | hj
        · exact (hmax j hj c hc).trans hlt.le
        · rw [List.mem_singleton.mp hj, hi] at hc
          exact (Option.some.inj hc).ge
      · rw [if_neg hlt]
        refine ⟨fun k => (nomatch k), fun m hm => ⟨e, Option.some.inj hm ▸ he, fun j hj c hc => ?_⟩⟩
        rcases List.mem_append.mp hj with hj | hj
        · exact hmax j hj c hc
        · rw [List.mem_singleton.mp hj, hi] at hc
          have := Option.some.inj hc
          omega

theorem NoticeArbiter.best_foldl (a : NoticeArbiter) (l : List SourceId) : a.Best l (l.foldl a.better none) := by
  induction l using List.reverseRecOn with
  | nil => exact ⟨fun _ _ h => (nomatch h), fun _ h => nomatch h⟩
  | append_singleton l i ih =>
    rw [List.foldl_concat]
    exact ih.better i

/-- Settles O25. -/
theorem noticesOffered : Obligations.NoticesOffered := by
  refine ⟨fun a => ⟨fun i hi => ?_, ⟨fun h i => ?_, fun h => ?_⟩, a.bid_eq⟩,
    fun d n => ⟨d.selectNotice_nestFault n, d.selectNotice_fixture n, d.selectNotice_cal n, rfl,
      fun i => d.selectNotice_plain⟩⟩
  · obtain ⟨b, hb, hmax⟩ := (a.best_foldl (List.finRange 18)).highest i hi
    exact ⟨b, hb, fun j c hc =>
      ⟨hmax j (List.mem_finRange j) c hc, fun he => NoticeArbiter.bid_injective (he ▸ hc) hb⟩⟩
  · exact (a.best_foldl (List.finRange 18)).none_bids h i (List.mem_finRange i)
  · cases ho : a.offered with
    | none => rfl
    | some i =>
      obtain ⟨b, hb, -⟩ := (a.best_foldl (List.finRange 18)).highest i ho
      rw [h i] at hb
      cases hb

/-! ## OUTBOUND MESSAGES (O24) -/

theorem State.mayChoose_eq {s : State} (hlocked : s.dev.controllerPort.locked = true)
    (hsending : s.mgmt.sending = none) (hidle : s.mgmt.idlePassed = true) : s.mayChoose = true := by
  rw [State.mayChoose, hlocked, hsending, hidle]
  rfl

theorem exec_messageChoice_notice {s : State} {i : SourceId} (hmay : s.mayChoose = true)
    (ho : s.dev.notices.offered = some i) (h : s.mgmt.replies = [] ∨ s.mgmt.consecutive = 3) :
    exec .messageChoice s = .next (s.sendNotice i) := by
  change execMessageChoice s = _
  rw [execMessageChoice, if_pos hmay, ho]
  cases hr : s.mgmt.replies with
  | nil => rfl
  | cons r rest =>
    have h3 := h.resolve_left (by rw [hr]; exact List.cons_ne_nil _ _)
    simp only [h3, le_refl, if_true]

theorem exec_messageChoice_reply {s : State} {r : Reply} {rest : List Reply} (hmay : s.mayChoose = true)
    (hr : s.mgmt.replies = r :: rest) (h : s.dev.notices.offered = none ∨ s.mgmt.consecutive < 3) :
    exec .messageChoice s = .next (s.sendReply r rest) := by
  change execMessageChoice s = _
  rw [execMessageChoice, if_pos hmay, hr]
  cases ho : s.dev.notices.offered with
  | none => rfl
  | some i =>
    have h3 := h.resolve_left (by rw [ho]; exact Option.some_ne_none _)
    simp only [if_neg (Nat.not_le.mpr h3)]

theorem exec_messageChoice_nothing {s : State} (hmay : s.mayChoose = true) (ho : s.dev.notices.offered = none)
    (hr : s.mgmt.replies = []) : exec .messageChoice s = .next s := by
  change execMessageChoice s = _
  rw [execMessageChoice, if_pos hmay, hr, ho]

theorem exec_messageSent {s : State} {bytes : List Byte} {isReply : Bool}
    (h : s.mgmt.sending = some { isReply := isReply, bytes := bytes, left := [] }) :
    exec .messageSent s = .next { s with mgmt := { s.mgmt with
      sending := none, credit := if isReply then s.mgmt.credit - 1 else s.mgmt.credit } } := by
  change execMessageSent s = _
  rw [execMessageSent, h]
  rfl

theorem Device.calBytes_of_cause {d : Device} {n : NestId} {cause : CalCause} {plan : Option PlanId}
    (h : d.notices.calCause[n] = some (cause, plan)) : d.calBytes n
      = [cause.code, (plan.map fun p => BitVec.ofNat 8 p.val).getD 0xFF]
        ++ (List.finRange 8).map fun p => (d.calibration.record n p).state.code := by
  rw [Device.calBytes, h]
  rfl

theorem LabelUnit.newest_empty {u : LabelUnit} (h : u.posted = 0) : u.newest = u.counter - 1 := if_pos h

theorem LabelUnit.newest_posted {u : LabelUnit} {e : RingEntry} (h : u.posted ≠ 0)
    (he : u.ring[u.post - 1] = some e) : u.newest = e.label.number := by
  rw [LabelUnit.newest, if_neg h, he]

theorem queueBytes_length (q : List NestId) : (queueBytes q).length = 4 := by
  rw [queueBytes, List.length_take, List.length_append, List.length_replicate]
  omega

theorem queueBytes_getElem? (q : List NestId) {i : Nat} (h : i < 4) :
    (queueBytes q)[i]? = some ((q[i]?.map fun n => BitVec.ofNat 8 n.val).getD 0xFF) := by
  rw [queueBytes, List.getElem?_take, if_pos h]
  by_cases hq : i < q.length
  · rw [List.getElem?_append_left (by rw [List.length_map]; exact hq), List.getElem?_map,
      List.getElem?_eq_getElem hq]
    rfl
  · have hq := Nat.not_lt.mp hq
    rw [List.getElem?_append_right (by rw [List.length_map]; exact hq), List.length_map, List.getElem?_replicate,
      if_pos (by omega), List.getElem?_eq_none hq]
    rfl

theorem TableStore.activeGeneration_none {t : TableStore} (h : t.activeBank = none) : t.activeGeneration = 0 := by
  rw [TableStore.activeGeneration, h]

theorem TableStore.activeGeneration_some {t : TableStore} {b : BankId} (h : t.activeBank = some b) :
    t.activeGeneration = (t.bank b).generation := by
  rw [TableStore.activeGeneration, h]

theorem Device.fixtureBytes_bits (d : Device) (n : NestId) : ∃ changed taken : Byte,
    d.fixtureBytes n = [changed, taken]
    ∧ (∀ l : InputLine, changed.getLsbD (inputIndex l).val = (d.fixture[n]).changed[inputIndex l]
      ∧ taken.getLsbD (inputIndex l).val = d.taken n l)
    ∧ ∀ i : Nat, 4 ≤ i → changed.getLsbD i = false ∧ taken.getLsbD i = false :=
  ⟨_, _, rfl, fun _ => ⟨byteOf4_getLsbD _ _, byteOf4_getLsbD _ _⟩,
    fun _ hi => ⟨byteOf4_getLsbD_high _ hi, byteOf4_getLsbD_high _ hi⟩⟩

/-- Settles O24. -/
theorem outboundMessages : Obligations.OutboundMessages := by
  refine ⟨fun s hlocked hsending hidle => ?_, fun s bytes isReply h => exec_messageSent h,
    fun type tag body => ⟨⟨_, rfl⟩, sumBytes_messageBytes type tag body, rfl⟩, fun r => rfl, by decide,
    fun d discards => ⟨d.noticeBody_nestFault discards, fun n => ?_, fun n cause plan h => ?_, ?_, ?_, rfl, ?_, ?_,
      rfl⟩⟩
  · have hmay := State.mayChoose_eq hlocked hsending hidle
    exact ⟨fun i ho h => ⟨_, exec_messageChoice_notice hmay ho h, rfl, rfl, rfl, Device.consumeDetail_pending _ i, rfl⟩,
      fun r rest hr h => exec_messageChoice_reply hmay hr h, exec_messageChoice_nothing hmay⟩
  · obtain ⟨changed, taken, hbytes, hbits⟩ := d.fixtureBytes_bits n
    exact ⟨changed, taken, by rw [d.noticeBody_fixture, hbytes], hbits⟩
  · rw [d.noticeBody_cal, Device.calBytes_of_cause h]
    rfl
  · exact ⟨d.labels.newest, rfl, LabelUnit.newest_empty, fun e hp => LabelUnit.newest_posted hp⟩
  · exact ⟨queueBytes d.labels.waitQueue, rfl, queueBytes_length _, fun i => queueBytes_getElem? _⟩
  · exact ⟨d.tables.activeGeneration, rfl, TableStore.activeGeneration_none,
      fun b => TableStore.activeGeneration_some⟩
  · exact ⟨d.linkByte, rfl, d.linkByte_bits⟩

end Sys2Proof.Machine

namespace Sys2Proof.Machine

/-! ## THE PARSER AND THE REST OF THE PART -/

/-- The state with another Controller Link Port. -/
def State.withPort (s : State) (p : ControllerPort) : State :=
  { s with dev := { s.dev with controllerPort := p } }

theorem State.withPort_port (s : State) (p : ControllerPort) : (s.withPort p).dev.controllerPort = p := rfl
theorem State.withPort_mgmt (s : State) (p : ControllerPort) : (s.withPort p).mgmt = s.mgmt := rfl

theorem State.discardMessage_withPort (s : State) (p : ControllerPort) :
    (s.withPort p).discardMessage = s.discardMessage.withPort p := by
  by_cases h : s.mgmt.discards = 255 <;> simp only [State.discardMessage, State.withPort, h, if_true, if_false]
  all_goals rfl

theorem State.dropPartMessage_withPort (s : State) (p : ControllerPort) :
    (s.withPort p).dropPartMessage = s.dropPartMessage.withPort p := by
  rw [State.dropPartMessage, State.dropPartMessage, s.discardMessage_withPort p]
  by_cases h : s.mgmt.parser = .receiving
  · rw [if_pos h, if_pos (show (s.withPort p).mgmt.parser = _ from h)]
    rfl
  · rw [if_neg h, if_neg (show ¬ (s.withPort p).mgmt.parser = _ from h)]
    rfl

/-- The parser neither reads nor changes the port. -/
theorem State.feedByte_withPort (s : State) (p : ControllerPort) (b : Option Byte) :
    (s.withPort p).feedByte b = (s.feedByte b).withPort p := by
  have hm : (s.withPort p).mgmt = s.mgmt := rfl
  cases hp : s.mgmt.parser <;> cases b <;>
    simp only [State.feedByte, hm, hp, State.discardMessage_withPort, State.dropPartMessage_withPort]
  case receiving.some x =>
    split
    · rfl
    · split <;> rfl
  all_goals rfl

theorem State.feedBytes_withPort (l : List (Option Byte)) (p : ControllerPort) (s : State) :
    l.foldl State.feedByte (s.withPort p) = (l.foldl State.feedByte s).withPort p := by
  induction l generalizing s with
  | nil => rfl
  | cons b l ih => rw [List.foldl_cons, List.foldl_cons, s.feedByte_withPort, ih]

/-- What the parser leaves: all of the blocks but the notices, and the messages that go out. -/
def Fed (s t : State) : Prop := ∃ m a, t = { s with mgmt := m, dev := { s.dev with notices := a } }
  ∧ m.queue = s.mgmt.queue ∧ m.replies = s.mgmt.replies ∧ m.credit = s.mgmt.credit ∧ m.sending = s.mgmt.sending

theorem Fed.refl (s : State) : Fed s s := ⟨_, _, rfl, rfl, rfl, rfl, rfl⟩

theorem Fed.trans {s t u : State} (h : Fed s t) (k : Fed t u) : Fed s u := by
  obtain ⟨m, a, rfl, hq, hr, hc, hs⟩ := h
  obtain ⟨m', a', rfl, kq, kr, kc, ks⟩ := k
  exact ⟨m', a', rfl, kq.trans hq, kr.trans hr, kc.trans hc, ks.trans hs⟩

theorem Fed.parser (s : State) (p : ParserState) (bytes : List Byte) (completed : List (List Byte)) :
    Fed s { s with mgmt := { s.mgmt with parser := p, partBytes := bytes, completed := completed } } :=
  ⟨_, _, rfl, rfl, rfl, rfl, rfl⟩

theorem State.discardMessage_fed (s : State) : Fed s s.discardMessage := by
  by_cases h : s.mgmt.discards = 255 <;> simp only [State.discardMessage, h, if_true, if_false]
  · exact ⟨_, _, rfl, rfl, rfl, rfl, rfl⟩
  · exact ⟨_, _, rfl, rfl, rfl, rfl, rfl⟩

theorem State.dropPartMessage_fed (s : State) : Fed s s.dropPartMessage := by
  simp only [State.dropPartMessage]
  split
  · exact s.discardMessage_fed.trans (.parser _ _ _ _)
  · exact .parser _ _ _ _

theorem State.feedByte_fed (s : State) (b : Option Byte) : Fed s (s.feedByte b) := by
  simp only [State.feedByte]
  split
  · exact .parser _ _ _ _
  · exact .refl s
  · exact .refl s
  · exact .parser _ _ _ _
  · exact s.discardMessage_fed.trans (.parser _ _ _ _)
  · split
    · exact s.dropPartMessage_fed
    · split
      · exact .parser _ _ _ _
      · exact .parser _ _ _ _

theorem State.feedBytes_fed (l : List (Option Byte)) (s : State) : Fed s (l.foldl State.feedByte s) :=
  List.foldlRecOn l State.feedByte (.refl s) fun t ht b _ => ht.trans (t.feedByte_fed b)

/-! ## CONTROLLER_LINK_FRAME (O20) -/

/-- What the inbound half of a frame leaves for the outbound half: the parser's state and the port. -/
structure Received (s : State) (frame : Option ControllerFrame) (u : State) (p : ControllerPort) : Prop where
  fed : Fed s u
  port : p = { s.dev.controllerPort with
    received := if frame = none then 0 else s.dev.controllerPort.received + 1
    missed := if frame = none then s.dev.controllerPort.missed + 1 else 0
    slots := p.slots }
  frame_taken : ∀ f, frame = some f → s.dev.controllerPort.locked = true →
    p.slots = f.slots ∧ u = f.bytes.toList.foldl State.feedByte s
  no_frame : frame = none → s.dev.controllerPort.locked = true →
    u = s ∨ u = [none, none, none, none].foldl State.feedByte s
  no_slots : frame = none ∨ s.dev.controllerPort.locked = false → p.slots = Vector.replicate 2 0
  holdover : s.dev.controllerPort.locked = false → u = s

theorem State.receiveFrame_spec (s : State) (frame : Option ControllerFrame) :
    ∃ u p, s.receiveFrame frame = u.withPort p ∧ Received s frame u p := by
  cases hl : s.dev.controllerPort.locked with
  | false =>
    have hreceive : s.receiveFrame frame = s.withPort { s.dev.controllerPort with
        received := if frame.isSome then s.dev.controllerPort.received + 1 else 0
        missed := if frame.isSome then 0 else s.dev.controllerPort.missed + 1
        slots := Vector.replicate 2 0 } := by
      unfold State.receiveFrame
      simp only [hl]
      rfl
    refine ⟨_, _, hreceive, .refl s, ?_, fun _ _ h => absurd (hl.symm.trans h) (by decide),
      fun _ h => absurd (hl.symm.trans h) (by decide), fun _ => rfl, fun _ => rfl⟩
    cases frame <;> rfl
  | true =>
    cases frame with
    | none =>
      have hreceive : s.receiveFrame none = (if Config.missedControllerFrameIdle then
            (List.replicate 4 none).foldl State.feedByte s else s).withPort { s.dev.controllerPort with
          received := 0, missed := s.dev.controllerPort.missed + 1, slots := Vector.replicate 2 0 } := by
        unfold State.receiveFrame
        simp only [hl]
        split
        · exact State.feedBytes_withPort _ _ s
        · rfl
      refine ⟨_, _, hreceive, ?_, rfl, fun _ h => (nomatch h), fun _ _ => ?_, fun _ => rfl,
        fun h => absurd (hl.symm.trans h) (by decide)⟩
      · split
        · exact State.feedBytes_fed _ s
        · exact .refl s
      · split
        · exact .inr rfl
        · exact .inl rfl
    | some f =>
      have hreceive : s.receiveFrame (some f) = (f.bytes.toList.foldl State.feedByte s).withPort
          { s.dev.controllerPort with
            received := s.dev.controllerPort.received + 1, missed := 0, slots := f.slots } := by
        unfold State.receiveFrame
        simp only [hl]
        exact State.feedBytes_withPort _ _ s
      exact ⟨_, _, hreceive, State.feedBytes_fed _ s, rfl, fun _ h _ => ⟨by rw [Option.some.inj h], by rw [Option.some.inj h]⟩,
        fun h => (nomatch h), fun h => h.elim (fun h => (nomatch h)) fun h => absurd (hl.symm.trans h) (by decide),
        fun h => absurd (hl.symm.trans h) (by decide)⟩

theorem State.outBytes_locked {s : State} {x : Sending} (hl : s.dev.controllerPort.locked = true)
    (hx : s.mgmt.sending = some x) : s.outBytes = x.left.take 4 := by
  simp only [State.outBytes, hl, hx]

theorem State.outBytes_nothing {s : State} (hx : s.mgmt.sending = none) : s.outBytes = [] := by
  cases hl : s.dev.controllerPort.locked <;> simp only [State.outBytes, hl, hx]

theorem State.outBytes_holdover {s : State} (hl : s.dev.controllerPort.locked = false) : s.outBytes = [] := by
  simp only [State.outBytes, hl]

theorem State.sendFrame_outBytes (s : State) (i : Fin 4) :
    s.sendFrame.dev.controllerPort.outBytes[i] = s.outBytes[i.val]? := by simp [State.sendFrame]

theorem State.sendFrame_outMonitor (s : State) (i : Fin 2) : s.sendFrame.dev.controllerPort.outMonitor[i]
    = s.dev.monitorSample s.dev.controllerPort.monitor[i] := by simp [State.sendFrame]

theorem State.sendFrame_sending (s : State) : s.sendFrame.mgmt.sending
    = s.mgmt.sending.map fun x => { x with left := x.left.drop s.outBytes.length } := rfl

theorem State.sendFrame_idlePassed (s : State) :
    s.sendFrame.mgmt.idlePassed = false ↔ 4 ≤ s.outBytes.length := by
  change decide (s.outBytes.length < 4) = false ↔ _
  rw [decide_eq_false_iff_not, Nat.not_lt]

theorem drop_length_take {α : Type} (l : List α) (k : Nat) : l.drop (l.take k).length = l.drop k := by
  rw [List.length_take]
  rcases Nat.le_total k l.length with h | h
  · rw [Nat.min_eq_left h]
  · rw [Nat.min_eq_right h, List.drop_length, List.drop_eq_nil_of_le h]

/-- In LOCKED the next bytes of the message being sent leave it; no byte is sent in HOLDOVER (R180, R181). -/
theorem State.sendFrame_spec (s : State) :
    (∀ i : Fin 4, s.sendFrame.dev.controllerPort.outBytes[i] =
      if s.dev.controllerPort.locked then (s.mgmt.sending.bind fun x => x.left[i.val]?) else none)
    ∧ s.sendFrame.mgmt.sending = (if s.dev.controllerPort.locked then
        s.mgmt.sending.map fun x => { x with left := x.left.drop 4 } else s.mgmt.sending)
    ∧ (s.sendFrame.mgmt.idlePassed = false ↔ s.dev.controllerPort.locked = true
      ∧ ∃ x, s.mgmt.sending = some x ∧ 4 ≤ x.left.length) := by
  rw [s.sendFrame_idlePassed, s.sendFrame_sending]
  simp only [s.sendFrame_outBytes]
  cases hl : s.dev.controllerPort.locked with
  | false =>
    rw [State.outBytes_holdover hl]
    refine ⟨fun i => rfl, ?_, by simp⟩
    cases s.mgmt.sending <;> rfl
  | true =>
    cases hx : s.mgmt.sending with
    | none =>
      rw [State.outBytes_nothing hx]
      exact ⟨fun i => rfl, rfl, by simp⟩
    | some x =>
      rw [State.outBytes_locked hl hx]
      refine ⟨fun i => ?_, ?_, ?_⟩
      · rw [List.getElem?_take, if_pos i.isLt]
        rfl
      · simp only [if_true, Option.map_some, drop_length_take]
      · simp

/-- Settles O20. -/
theorem controllerLinkFrameCarries : Obligations.ControllerLinkFrameCarries := by
  refine fun s frame => ⟨fun hdue => ?_, fun hdue => ?_⟩
  · change Host.Outcome.next _ = _
    rw [if_pos hdue]
  · obtain ⟨u, p, hu, hr⟩ := s.receiveFrame_spec frame
    have hexec : exec (.controllerLinkFrame frame) s = .next (u.withPort p).sendFrame := by
      change Host.Outcome.next _ = _
      rw [if_neg (by rw [hdue]; exact Bool.false_ne_true), hu]
    obtain ⟨m, a, hm, hqueue, hreplies, hcredit, hsending⟩ := hr.fed
    have hlocked : p.locked = s.dev.controllerPort.locked := by rw [hr.port]
    have hmonitor : p.monitor = s.dev.controllerPort.monitor := by rw [hr.port]
    have hum : u.mgmt = m := by rw [hm]
    have hun : u.dev.nestPort = s.dev.nestPort := by rw [hm]
    obtain ⟨hbytes, hleft, hidle⟩ := (u.withPort p).sendFrame_spec
    have hmon : ∀ i : Fin 2, (u.withPort p).sendFrame.dev.controllerPort.outMonitor[i]
        = s.dev.monitorSample s.dev.controllerPort.monitor[i] := fun i => by
      rw [(u.withPort p).sendFrame_outMonitor, ← hmonitor]
      simp only [Device.monitorSample, State.withPort, hun]
    simp only [State.withPort_port, State.withPort_mgmt, hlocked, hum, hsending] at hbytes hleft hidle
    refine ⟨_, hexec, fun i => ?_, hbytes, hleft, hidle, fun f hf hl => ?_, fun hf hl => ?_, fun h i => ?_,
      fun hl => ?_, ?_, ?_, ?_, hlocked, ?_, ?_, hmonitor, ?_⟩
    · rw [hmon i]
      refine ⟨fun h => ?_, fun n => ⟨fun h => ?_, fun h => ?_, fun h => ?_⟩, fun g h => ?_⟩ <;> rw [h] <;> rfl
    · obtain ⟨hslots, rfl⟩ := hr.frame_taken f hf hl
      exact ⟨hslots, rfl, rfl⟩
    · rcases hr.no_frame hf hl with h | h <;> rw [h]
      · exact .inl ⟨rfl, rfl⟩
      · exact .inr ⟨rfl, rfl⟩
    · change p.slots[i] = 0
      rw [hr.no_slots h]
      simp
    · rw [hr.holdover hl]
      exact ⟨rfl, rfl⟩
    · rw [← hqueue, ← hum]
      rfl
    · rw [← hreplies, ← hum]
      rfl
    · rw [← hcredit, ← hum]
      rfl
    · change p.received = _
      rw [hr.port]
    · change p.missed = _
      rw [hr.port]
    · rw [hm]
      rfl

/-! ## SYNC OF THE CONTROLLER LINK (O21) -/

theorem Nest.endPass_eq (x : Nest) : x.endPass = { x with tone := x.endPass.tone } := by
  cases h : x.tone.mode <;> simp only [Nest.endPass, h]

/-- The part at the loss of the controller link, after the part message is dropped (R180, R50). -/
def Device.holdover (d : Device) : Device :=
  { d with
    controllerPort := { d.controllerPort with locked := false, received := 0, slots := Vector.replicate 2 0 }
    nests := Vector.ofFn fun n => (d.nest n).endPass }.raise linkSource

theorem Device.holdover_nest (d : Device) (n : NestId) : d.holdover.nest n = (d.nest n).endPass := by
  rw [Device.holdover, Device.raise_nest]
  simp [Device.nest]

theorem exec_controllerLinkHoldover {s : State} (hl : s.dev.controllerPort.locked = true)
    (hm : 8 ≤ s.dev.controllerPort.missed) : exec .controllerLinkHoldover s = .next { s.dropPartMessage with
      mgmt := { s.dropPartMessage.mgmt with sending := s.dropPartMessage.mgmt.sending.map fun x =>
        if x.left.isEmpty then x else { x with left := x.bytes } }
      dev := s.dropPartMessage.dev.holdover } := by
  change Host.Outcome.next _ = _
  rw [if_pos ⟨hl, hm⟩]
  rfl

theorem State.dropPartMessage_nest (s : State) (n : NestId) : s.dropPartMessage.dev.nest n = s.dev.nest n := by
  obtain ⟨m, a, h, -⟩ := s.dropPartMessage_fed
  rw [h]
  rfl

/-- Settles O21. -/
theorem controllerLinkSync : Obligations.ControllerLinkSync := by
  refine ⟨fun s hl hr => ?_, fun s hl hm => ⟨_, exec_controllerLinkHoldover hl hm, rfl,
    NoticeArbiter.raise_pending_same _ _, ?_, ?_, fun n => ?_, fun n => ?_, fun x hx hleft => ?_, ?_, ?_, ?_⟩⟩
  · have hexec : exec .controllerLinkLocked s = .next { s with
        mgmt := { s.mgmt with parser := .hunt, partBytes := [] }
        dev := { s.dev with controllerPort := { s.dev.controllerPort with locked := true } }.raise linkSource } := by
      change Host.Outcome.next _ = _
      rw [if_pos ⟨by rw [hl]; rfl, hr⟩]
    exact ⟨_, hexec, rfl, rfl, rfl, rfl⟩
  · simp only [s.dropPartMessage_mgmt]
  · simp only [s.dropPartMessage_mgmt]
  · simp only [Device.holdover_nest, s.dropPartMessage_nest]
    cases h : (s.dev.nest n).tone.mode <;> simp only [Nest.endPass, h]
  · simp only [Device.holdover_nest, s.dropPartMessage_nest]
    exact (s.dev.nest n).endPass_eq
  · simp only [s.dropPartMessage_mgmt, hx, Option.map_some]
    rw [if_neg (by rw [List.isEmpty_iff]; exact hleft)]
  all_goals simp only [s.dropPartMessage_mgmt]

end Sys2Proof.Machine

namespace Sys2Proof.Machine

/-! ## THE DRIVE OF A GENERATOR (O19) -/

theorem Device.driveSample_silent {d : Device} {n : NestId} (h : (d.nest n).tone.mode = .silent) :
    d.driveSample n = 0 := by
  simp only [Device.driveSample, h]

theorem Device.driveSample_pass {d : Device} {n : NestId} {i : Fin 2} (h : (d.nest n).tone.mode = .pass i) :
    d.driveSample n = d.controllerPort.slots[i] := by
  simp only [Device.driveSample, h]

theorem Device.driveSample_lock {d : Device} {n : NestId} {r : UnitRecord} (h : (d.nest n).tone.mode = .lock)
    (hr : (d.nest n).record = some r) : d.driveSample n = toneSample
      (min 0 ((d.planOf r).header.pilotLevel + (d.nest n).tone.gain)) (d.nest n).tone.phase := by
  simp only [Device.driveSample, h, hr, appliedLevel]

theorem Device.driveSample_segment {d : Device} {n : NestId} {r : UnitRecord} (h : (d.nest n).tone.mode = .segment)
    (hr : (d.nest n).record = some r) : d.driveSample n = if (d.segmentOf r).kind = .silence then 0 else
      toneSample (min 0 ((d.segmentOf r).level + r.lockedGain.getD 0)) (d.nest n).tone.phase := by
  simp only [Device.driveSample, h, hr, segmentLevel, appliedLevel]

theorem Device.toneAfterFrame_idle {d : Device} {n : NestId} (h : (d.nest n).tone.mode = .silent
    ∨ ∃ i, (d.nest n).tone.mode = .pass i) (sense mic : Sample) : d.toneAfterFrame n sense mic = (d.nest n).tone := by
  rcases h with h | ⟨i, h⟩ <;> simp only [Device.toneAfterFrame, h]

/-- The phase runs by the frequency while a tone is driven (R36). -/
theorem Device.toneAfterFrame_phase {d : Device} {n : NestId} (h : (d.nest n).tone.mode = .lock
    ∨ (d.nest n).tone.mode = .segment) (sense mic : Sample) : (d.toneAfterFrame n sense mic).phase
      = ((d.nest n).tone.phase + d.phaseAdvance n) % (96000 * 2 ^ 32) := by
  rcases h with h | h <;> simp only [Device.toneAfterFrame, h, phaseTurn]

theorem Device.phaseAdvance_lock {d : Device} {n : NestId} {r : UnitRecord} (h : (d.nest n).tone.mode = .lock)
    (hr : (d.nest n).record = some r) : d.phaseAdvance n = (d.planOf r).header.pilotFrequency * 2 ^ 32 := by
  simp only [Device.phaseAdvance, h, hr, toneAdvance]

/-- The frequency of a segment that is one tone, or is in its settle (R44 to R46). -/
theorem Device.phaseAdvance_tone {d : Device} {n : NestId} {r : UnitRecord} {f : Nat}
    (h : (d.nest n).tone.mode = .segment) (hr : (d.nest n).record = some r)
    (hf : ((d.segmentOf r).kind = .pilot ∧ f = (d.planOf r).header.pilotFrequency)
      ∨ ((d.segmentOf r).kind = .step ∧ f = (d.segmentOf r).startFrequency)
      ∨ ((d.segmentOf r).kind = .chirp ∧ (d.nest n).tone.timer < 96 * (d.segmentOf r).settle * r.dwell
        ∧ f = (d.segmentOf r).startFrequency)) : d.phaseAdvance n = f * 2 ^ 32 := by
  rcases hf with ⟨hk, rfl⟩ | ⟨hk, rfl⟩ | ⟨hk, ht, rfl⟩
  · simp only [Device.phaseAdvance, h, hr, hk, toneAdvance]
  · simp only [Device.phaseAdvance, h, hr, hk, toneAdvance]
  · have hsettle : (d.nest n).tone.timer < settleFrames (d.segmentOf r) r.dwell := ht
    simp only [Device.phaseAdvance, h, hr, hk, if_pos hsettle, toneAdvance]

/-- The advance in a chirp's measured portion (R46). -/
theorem Device.phaseAdvance_chirp {d : Device} {n : NestId} {r : UnitRecord} {u : Nat}
    (h : (d.nest n).tone.mode = .segment) (hr : (d.nest n).record = some r) (hk : (d.segmentOf r).kind = .chirp)
    (ht : (d.nest n).tone.timer = 96 * (d.segmentOf r).settle * r.dwell + u) :
    d.phaseAdvance n = chirpAdvance (d.segmentOf r).startFrequency (d.segmentOf r).endFrequency
      (96 * (d.segmentOf r).duration * r.dwell - 96 * (d.segmentOf r).settle * r.dwell) u := by
  have hsettle : ¬ (d.nest n).tone.timer < settleFrames (d.segmentOf r) r.dwell := by
    rw [ht]
    exact Nat.not_lt.mpr (Nat.le_add_right _ u)
  have hu : (d.nest n).tone.timer - settleFrames (d.segmentOf r) r.dwell = u := by
    rw [ht]
    exact Nat.add_sub_cancel_left _ u
  simp only [Device.phaseAdvance, h, hr, hk, if_neg hsettle, hu]
  rfl

theorem exec_nestLinkFrame {s : State} (h : s.dev.frameDue = false) (frame : Option NestFrame) :
    exec (.nestLinkFrame frame) s = .next { s with dev := s.dev.nestFrame frame } :=
  execNestLinkFrame_runs h frame

theorem Device.nestFrame_tone (d : Device) (frame : Option NestFrame) (n : NestId) :
    ((d.nestFrame frame).nest n).tone
      = d.toneAfterFrame n (d.nestFrame frame).nestPort.sense[n] (d.nestFrame frame).nestPort.mic[n] := by
  rw [d.nestFrame_nest, d.nestAfterFrame_frame]

/-! ### The tone at a phase (R35, R36, R178) -/

theorem toneAmplitude_fullScale : toneAmplitude 0 = 32767 * 2 ^ 64 := by decide +kernel

/-- A tone peaks at a quarter turn. -/
theorem toneMagnitude_peak {phase : Nat} (h : sineMagnitude phase = fixedOne) : toneMagnitude 0 phase = 32767 := by
  have hv : 32767 * 2 ^ 64 * fixedOne = 32767 * (2 ^ 64 * fixedOne) := Nat.mul_assoc _ _ _
  rw [toneMagnitude, toneAmplitude_fullScale, h, hv]
  simp only [Nat.mul_mod_left, if_true]
  exact Nat.mul_div_cancel _ (by decide +kernel)

theorem toneSample_peak : toneSample 0 (24000 * 2 ^ 32) = 32767 := by
  rw [toneSample, toneMagnitude_peak (by decide +kernel)]
  decide +kernel

theorem toneSample_trough : toneSample 0 (72000 * 2 ^ 32) = -32767 := by
  rw [toneSample, toneMagnitude_peak (by decide +kernel)]
  decide +kernel

theorem toneSample_firstHalf (level : Int) {phase : Nat} (h : phase < 48000 * 2 ^ 32) :
    0 ≤ (toneSample level phase).toInt := by
  have hmod : phase % phaseTurn < phaseTurn / 2 := by
    rw [phaseTurn, Nat.mod_eq_of_lt (by omega)]
    omega
  rw [toneSample_toInt, if_pos hmod]
  exact Int.natCast_nonneg _

theorem toneSample_secondHalf (level : Int) {phase : Nat} (h : 48000 * 2 ^ 32 ≤ phase) (ht : phase < 96000 * 2 ^ 32) :
    (toneSample level phase).toInt ≤ 0 := by
  have hmod : ¬ phase % phaseTurn < phaseTurn / 2 := by
    rw [phaseTurn, Nat.mod_eq_of_lt ht]
    omega
  rw [toneSample_toInt, if_neg hmod]
  exact Int.neg_nonpos_of_nonneg (Int.natCast_nonneg _)

/-- Settles O19. -/
theorem driveSamples : Obligations.DriveSamples := by
  refine ⟨fun s frame hdue => ⟨_, exec_nestLinkFrame hdue frame, fun n => ?_⟩,
    fun f0 f1 portion hp hf => ⟨chirpAdvanceAt_start f0 f1 hp, chirpAdvanceAt_end f0 f1 portion,
      chirpAdvanceAt_same hf portion⟩,
    fun level phase => ⟨toneSample_zero level (by decide), toneSample_zero level (by decide),
      toneSample_natAbs_le level phase, toneSample_firstHalf level, toneSample_secondHalf level⟩,
    toneSample_peak, toneSample_trough⟩
  change (_ → (s.dev.nestFrame frame).nestPort.drive[n] = 0 ∧ _) ∧ _
  simp only [Device.nestFrame_drive, Device.nestFrame_tone]
  refine ⟨fun h => ⟨Device.driveSample_silent h, Device.toneAfterFrame_idle (.inl h) _ _⟩,
    fun i h => ⟨Device.driveSample_pass h, Device.toneAfterFrame_idle (.inr ⟨i, h⟩) _ _⟩, ?_⟩
  rintro r h x g hr rfl rfl rfl
  refine ⟨fun hm => ⟨Device.driveSample_lock hm hr, ?_⟩, fun hm => ⟨Device.driveSample_segment hm hr,
    fun f hf => ?_, fun portion u hk ht hp => ⟨s.dev.phaseAdvance n, Device.toneAfterFrame_phase (.inr hm) _ _, ?_⟩⟩⟩
  · rw [Device.toneAfterFrame_phase (.inl hm), Device.phaseAdvance_lock hm hr]
  · rw [Device.toneAfterFrame_phase (.inr hm), Device.phaseAdvance_tone hm hr hf]
  · rw [Device.phaseAdvance_chirp hm hr hk ht, hp]
    exact chirpAdvance_between _ _ _ _

end Sys2Proof.Machine

namespace Sys2Proof.Machine

/-! ## WHAT A FRAME FINDS (O17; log 4) -/

/-- Nothing of a nest is due (R1). -/
structure NothingDue (d : Device) (n : NestId) : Prop where
  settle : (d.nest n).settleOver = false
  clamp : d.clampExpired n = false
  release : d.releaseExpired n = false
  mark : (d.nest n).markOver = false
  lock : d.lockDue n = false
  quiet : d.quietDue n = false
  sweep : d.sweepDue n = false
  judge : (d.nest n).judgeOverdue = false
  input : d.someInputDue n = false

theorem Device.nothingDue {d : Device} (h : d.frameDue = false) (n : NestId) : NothingDue d n := by
  have hn := Device.nestDue_of_frameDue h n
  simp only [Device.nestDue, Bool.or_eq_false_iff] at hn
  obtain ⟨⟨⟨⟨⟨⟨⟨⟨hsettle, hclamp⟩, hrelease⟩, hmark⟩, hlock⟩, hquiet⟩, hsweep⟩, hjudge⟩, hinput⟩ := hn
  exact ⟨hsettle, hclamp, hrelease, hmark, hlock, hquiet, hsweep, hjudge, hinput⟩

theorem NothingDue.clampTimer {d : Device} {n : NestId} (h : NothingDue d n) (hs : (d.nest n).state = .clamping)
    (hx : (d.nest n).settling = none) : (d.nest n).clampTimer < 96 * (d.map n).clampTimeout := by
  change _ < msFrames (d.map n).clampTimeout
  simpa [Device.clampExpired, hs, hx] using h.clamp

theorem NothingDue.settling {d : Device} {n : NestId} (h : NothingDue d n) {run total : Nat}
    (hs : (d.nest n).state = .clamping) (hx : (d.nest n).settling = some (run, total)) : run < total := by
  simpa [Nest.settleOver, hs, hx] using h.settle

theorem NothingDue.releaseTimer {d : Device} {n : NestId} (h : NothingDue d n)
    (hs : (d.nest n).state = .releasing) : (d.nest n).releaseTimer < 96 * (d.map n).releaseTimeout := by
  change _ < msFrames (d.map n).releaseTimeout
  simpa [Device.releaseExpired, hs] using h.release

theorem NothingDue.markTimer {d : Device} {n : NestId} (h : NothingDue d n) {r : UnitRecord} {v : Verdict}
    (hs : (d.nest n).state = .marking) (hc : (d.nest n).markClaim = true) (hr : (d.nest n).record = some r)
    (hv : r.verdict = some v) : (d.nest n).markTimer < 96 * v.markPulse := by
  change _ < msFrames v.markPulse
  simpa [Nest.markOver, hs, hc, hr, hv] using h.mark

theorem NothingDue.lockTimer {d : Device} {n : NestId} (h : NothingDue d n) {r : UnitRecord} {limit : Nat}
    (hs : (d.nest n).state = .levelLock) (hr : (d.nest n).record = some r) (hm : (d.nest n).tone.mode = .lock)
    (hl : limit = 96 * (d.planOf r).header.lockTimeout * r.dwell) :
    (1920 * ((d.nest n).tone.intervals + 1) ≤ limit → (d.nest n).tone.timer < 1920 * ((d.nest n).tone.intervals + 1))
    ∧ (limit < 1920 * ((d.nest n).tone.intervals + 1) → (d.nest n).tone.timer < limit) := by
  have hlocking : d.locking n = some ((d.planOf r).header, r.dwell) := by simp only [Device.locking, hs, hm, hr]
  have hlock := h.lock
  have hlimit : lockLimit (d.planOf r).header r.dwell = limit := hl.symm
  simp only [Device.lockDue, hlocking, Option.any_some, hlimit, Bool.or_eq_false_iff, ToneGenerator.intervalDue,
    ToneGenerator.timeoutDue, Bool.and_eq_false_iff, decide_eq_false_iff_not, Nat.not_le, Nat.not_lt] at hlock
  simp only [ToneGenerator.intervalEnd, lockIntervalFrames] at hlock
  omega

theorem Device.quietUnit_eq {d : Device} {n : NestId} {r : UnitRecord} {sub : SubStage}
    (hs : (d.nest n).state = .quietCheck) (hr : (d.nest n).record = some r) (hsub : r.sub = sub) :
    d.quietUnit n sub = some r := by
  simp only [Device.quietUnit, hs, hr, if_pos hsub]

theorem NothingDue.quietTimer {d : Device} {n : NestId} (h : NothingDue d n) {r : UnitRecord}
    (hs : (d.nest n).state = .quietCheck) (hr : (d.nest n).record = some r) :
    (r.sub = .measuring → (d.nest n).stageTimer < 4800 * r.dwell)
    ∧ (r.sub = .retryWait → (d.nest n).stageTimer < 9600) := by
  obtain ⟨hwindow, hwait⟩ := Bool.or_eq_false_iff.mp h.quiet
  refine ⟨fun hsub => ?_, fun hsub => ?_⟩
  · change _ < quietWindowFrames r.dwell
    simpa [Device.quietUnit_eq hs hr hsub, Nest.quietWindowOver] using hwindow
  · change _ < retryWaitFrames
    simpa [Device.quietUnit_eq hs hr hsub, Nest.retryWaitOver] using hwait

theorem NothingDue.sweepTimer {d : Device} {n : NestId} (h : NothingDue d n) {r : UnitRecord}
    (hs : (d.nest n).state = .sweeping) (hm : (d.nest n).tone.mode = .segment) (hr : (d.nest n).record = some r) :
    ((d.nest n).engine.closed < windowCount (d.segmentOf r) r.dwell → (d.nest n).tone.timer
      < (windowSpan (d.segmentOf r) r.dwell (d.planOf r).header.acousticDelay (d.nest n).engine.closed).micEnd)
    ∧ (windowCount (d.segmentOf r) r.dwell ≤ (d.nest n).engine.closed →
      (d.nest n).tone.timer < 96 * (d.segmentOf r).duration * r.dwell) := by
  have hunit : d.sweepingUnit n = some r := by simp only [Device.sweepingUnit, hs, hm, hr]
  have hsweep := h.sweep
  simp only [Device.sweepDue, hunit, Option.any_some, Bool.or_eq_false_iff, Device.windowDue, Device.segmentOver,
    Bool.and_eq_false_iff, decide_eq_false_iff_not, Nat.not_le, Nat.not_lt] at hsweep
  obtain ⟨hwindow, hsegment⟩ := hsweep
  exact ⟨fun hc => hwindow.resolve_left (Nat.not_le.mpr hc), fun hc => hsegment.resolve_right (Nat.not_lt.mpr hc)⟩

theorem NothingDue.judgeTimer {d : Device} {n : NestId} (h : NothingDue d n)
    (hs : (d.nest n).state = .judging) (hr : (d.nest n).record ≠ none) : (d.nest n).judgeTimer < 96 := by
  simpa [Nest.judgeOverdue, hs, Option.isSome_iff_ne_none.mpr hr] using h.judge

theorem NothingDue.debounce {d : Device} {n : NestId} (h : NothingDue d n) (l : InputLine)
    (hl : d.nestPort.locked = true) : (d.fixture[n]).count[inputIndex l] = 0
      ∨ (d.fixture[n]).count[inputIndex l] < 96 * (d.map n).debounce[inputIndex l] := by
  have hinputs := h.input
  rw [Device.someInputDue, hl, Bool.true_and, List.any_eq_false] at hinputs
  have hline := hinputs l (by cases l <;> decide)
  simp only [Device.inputDue, Bool.and_eq_true, decide_eq_true_eq, not_and_or, Nat.not_le] at hline
  exact hline.imp_left Nat.lt_one_iff.mp

theorem Device.frameDue_rest {d : Device} (h : d.frameDue = false) :
    (d.tables.operation ≠ .none → d.tables.operationTimer < 1920)
    ∧ (∀ x, d.notices.timer = some x → x < 96 * d.notices.coalescingTime)
    ∧ (d.nestPort.locked = true → d.nestPort.missed < 8) ∧ (d.nestPort.locked = false → d.nestPort.received < 16) := by
  simp only [Device.frameDue, Bool.or_eq_false_iff] at h
  obtain ⟨⟨⟨-, htimer⟩, hoperation⟩, hsync⟩ := h
  refine ⟨fun ho => ?_, fun x hx => ?_, fun hl => ?_, fun hl => ?_⟩
  · simpa [TableStore.operationOverdue, ho] using hoperation
  · change _ < msFrames d.notices.coalescingTime
    simpa [NoticeArbiter.timerOver, hx] using htimer
  · simpa [syncChangeDue, hl] using hsync
  · simpa [syncChangeDue, hl] using hsync

/-! ## WHAT A FRAME LEAVES OF A NEST (O17) -/

theorem Device.toneAfterFrame_frame (d : Device) (n : NestId) (sense mic : Sample) :
    d.toneAfterFrame n sense mic = { (d.nest n).tone with
      phase := (d.toneAfterFrame n sense mic).phase
      timer := (d.toneAfterFrame n sense mic).timer
      sense := (d.toneAfterFrame n sense mic).sense
      pilot := (d.toneAfterFrame n sense mic).pilot } := by
  simp only [Device.toneAfterFrame]
  split <;> rfl

/-- The timers of a nest's stage run, and those of another stage stand. -/
structure TimersRun (x y : Nest) : Prop where
  settling : y.settling = if x.state = .clamping then x.settling.map (fun c => (c.1 + 1, c.2)) else x.settling
  clampTimer : y.clampTimer = if x.state = .clamping ∧ x.settling = none then x.clampTimer + 1 else x.clampTimer
  releaseTimer : y.releaseTimer = if x.state = .releasing then x.releaseTimer + 1 else x.releaseTimer
  markTimer : y.markTimer = if x.state = .marking then x.markTimer + 1 else x.markTimer
  judgeTimer : y.judgeTimer = if x.state = .judging then x.judgeTimer + 1 else x.judgeTimer

/-- A nest of which no stage timer runs. -/
theorem TimersRun.of_eq {x y : Nest} (hs : x.state ≠ .clamping ∧ x.state ≠ .releasing ∧ x.state ≠ .marking
    ∧ x.state ≠ .judging) (h : y.settling = x.settling ∧ y.clampTimer = x.clampTimer
    ∧ y.releaseTimer = x.releaseTimer ∧ y.markTimer = x.markTimer ∧ y.judgeTimer = x.judgeTimer) : TimersRun x y := by
  obtain ⟨hc, hr, hm, hj⟩ := hs
  obtain ⟨h1, h2, h3, h4, h5⟩ := h
  exact ⟨by rw [h1, if_neg hc], by rw [h2, if_neg fun k => hc k.1], by rw [h3, if_neg hr], by rw [h4, if_neg hm],
    by rw [h5, if_neg hj]⟩

theorem Nest.quietAfterFrame_timers (x : Nest) (r : UnitRecord) (v : Sample) :
    (x.quietAfterFrame r v).settling = x.settling ∧ (x.quietAfterFrame r v).clampTimer = x.clampTimer
    ∧ (x.quietAfterFrame r v).releaseTimer = x.releaseTimer ∧ (x.quietAfterFrame r v).markTimer = x.markTimer
    ∧ (x.quietAfterFrame r v).judgeTimer = x.judgeTimer := by
  cases h : r.sub <;> simp [Nest.quietAfterFrame, h]

theorem Device.nestAfterFrame_timers (d : Device) (n : NestId) (mic sense ambient : Sample) :
    TimersRun (d.nest n) (d.nestAfterFrame n mic sense ambient) := by
  cases hs : (d.nest n).state
  case clamping =>
    cases hx : (d.nest n).settling <;> constructor <;> simp [Device.nestAfterFrame, hs, hx]
  case releasing => constructor <;> simp [Device.nestAfterFrame, hs]
  case marking => constructor <;> simp [Device.nestAfterFrame, hs]
  case judging => constructor <;> simp [Device.nestAfterFrame, hs]
  case quietCheck =>
    refine .of_eq (by simp [hs]) ?_
    cases hr : (d.nest n).record with
    | none => simp [Device.nestAfterFrame, hs, hr]
    | some r =>
      simp only [Device.nestAfterFrame, hs, hr]
      exact Nest.quietAfterFrame_timers _ _ _
  case sweeping =>
    refine .of_eq (by simp [hs]) ?_
    cases hr : (d.nest n).record with
    | none => simp [Device.nestAfterFrame, hs, hr]
    | some r => by_cases hm : (d.nest n).tone.mode = .segment <;> simp [Device.nestAfterFrame, hs, hr, hm]
  all_goals exact .of_eq (by simp [hs]) (by simp [Device.nestAfterFrame, hs])

/-- The quiet check window takes the frame's delayed sample (R61, R62). -/
theorem Device.nestAfterFrame_quiet {d : Device} {n : NestId} {r : UnitRecord} (hs : (d.nest n).state = .quietCheck)
    (hr : (d.nest n).record = some r) (mic sense ambient : Sample) : d.nestAfterFrame n mic sense ambient
      = { d.nest n with tone := d.toneAfterFrame n sense mic }.quietAfterFrame r
          (d.nestPort.delayedMic n mic (d.acousticDelay n)) := by
  simp only [Device.nestAfterFrame, hs, hr]

theorem Device.acousticDelay_eq {d : Device} {n : NestId} {r : UnitRecord} (hr : (d.nest n).record = some r) :
    d.acousticDelay n = (d.planOf r).header.acousticDelay := by
  rw [Device.acousticDelay, hr]
  rfl

/-- Where no quiet check runs its sums and its timer stand. -/
theorem Device.nestAfterFrame_notQuiet {d : Device} {n : NestId}
    (h : (d.nest n).state ≠ .quietCheck ∨ (d.nest n).record = none) (mic sense ambient : Sample) :
    (d.nestAfterFrame n mic sense ambient).quietCount = (d.nest n).quietCount
    ∧ (d.nestAfterFrame n mic sense ambient).quietSquares = (d.nest n).quietSquares
    ∧ (d.nestAfterFrame n mic sense ambient).stageTimer = (d.nest n).stageTimer := by
  cases hs : (d.nest n).state
  case quietCheck => simp [Device.nestAfterFrame, hs, h.resolve_left (not_not_intro hs)]
  case clamping => cases hx : (d.nest n).settling <;> simp [Device.nestAfterFrame, hs, hx]
  case sweeping =>
    cases hr : (d.nest n).record with
    | none => simp [Device.nestAfterFrame, hs, hr]
    | some r => by_cases hm : (d.nest n).tone.mode = .segment <;> simp [Device.nestAfterFrame, hs, hr, hm]
  all_goals simp [Device.nestAfterFrame, hs]

/-- What a frame does to the quiet check of a nest. -/
theorem Device.nestAfterFrame_quietSums (d : Device) (n : NestId) (mic sense ambient : Sample) :
    (∀ r, (d.nest n).state = .quietCheck → (d.nest n).record = some r → r.sub = .measuring ∨ r.sub = .retryWait →
      (d.nestAfterFrame n mic sense ambient).stageTimer = (d.nest n).stageTimer + 1)
    ∧ (∀ r, (d.nest n).state = .quietCheck → (d.nest n).record = some r → r.sub = .measuring →
      (d.nestAfterFrame n mic sense ambient).quietCount = (d.nest n).quietCount + 1
      ∧ (d.nestAfterFrame n mic sense ambient).quietSquares = (d.nest n).quietSquares
        + (d.nestPort.delayedMic n mic (d.planOf r).header.acousticDelay).toInt.natAbs ^ 2)
    ∧ ((d.nest n).state ≠ .quietCheck ∨ (∀ r, (d.nest n).record = some r → r.sub ≠ .measuring) →
      (d.nestAfterFrame n mic sense ambient).quietCount = (d.nest n).quietCount
      ∧ (d.nestAfterFrame n mic sense ambient).quietSquares = (d.nest n).quietSquares)
    ∧ ((d.nest n).state ≠ .quietCheck
        ∨ (∀ r, (d.nest n).record = some r → r.sub ≠ .measuring ∧ r.sub ≠ .retryWait) →
      (d.nestAfterFrame n mic sense ambient).stageTimer = (d.nest n).stageTimer) := by
  by_cases hs : (d.nest n).state = .quietCheck
  · cases hr : (d.nest n).record with
    | none =>
      obtain ⟨hcount, hsquares, htimer⟩ := Device.nestAfterFrame_notQuiet (.inr hr) mic sense ambient
      exact ⟨fun r _ h => (nomatch h), fun r _ h => (nomatch h), fun _ => ⟨hcount, hsquares⟩, fun _ => htimer⟩
    | some r =>
      obtain ⟨hcount, hsquares, htimer⟩ := Nest.quietAfterFrame_sums { d.nest n with tone := d.toneAfterFrame n sense mic }
        r (d.nestPort.delayedMic n mic (d.acousticDelay n))
      rw [← Device.nestAfterFrame_quiet hs hr mic sense ambient] at hcount hsquares htimer
      refine ⟨fun q _ hq hsub => ?_, fun q _ hq hsub => ?_, fun h => ?_, fun h => ?_⟩
      · rw [← Option.some.inj hq] at hsub
        rw [htimer, if_pos hsub]
      · rw [← Option.some.inj hq] at hsub ⊢
        rw [hcount, hsquares, if_pos hsub, if_pos hsub, Device.acousticDelay_eq hr]
        exact ⟨rfl, rfl⟩
      · have hsub := h.resolve_left (not_not_intro hs) r rfl
        rw [hcount, hsquares, if_neg hsub, if_neg hsub]
        exact ⟨rfl, rfl⟩
      · obtain ⟨hm, hw⟩ := h.resolve_left (not_not_intro hs) r rfl
        rw [htimer, if_neg (not_or.mpr ⟨hm, hw⟩)]
  · obtain ⟨hcount, hsquares, htimer⟩ := Device.nestAfterFrame_notQuiet (.inl hs) mic sense ambient
    exact ⟨fun r h => absurd h hs, fun r h => absurd h hs, fun _ => ⟨hcount, hsquares⟩, fun _ => htimer⟩

/-! ## The open window (R68, R69) -/

theorem Device.nestAfterFrame_sweep {d : Device} {n : NestId} {r : UnitRecord} (hs : (d.nest n).state = .sweeping)
    (hm : (d.nest n).tone.mode = .segment) (hr : (d.nest n).record = some r) (mic sense ambient : Sample) :
    (d.nestAfterFrame n mic sense ambient).engine = d.sampleWindow n r mic ambient := by
  simp only [Device.nestAfterFrame, hs, hr, if_pos hm]

theorem Device.nestAfterFrame_engine_stands {d : Device} {n : NestId} (h : (d.nest n).state ≠ .sweeping
    ∨ (d.nest n).tone.mode ≠ .segment ∨ (d.nest n).record = none) (mic sense ambient : Sample) :
    (d.nestAfterFrame n mic sense ambient).engine = (d.nest n).engine := by
  rw [d.nestAfterFrame_engine]
  split
  · rename_i r hs hr
    rw [if_neg ((h.resolve_left (not_not_intro hs)).resolve_right (by rw [hr]; exact Option.some_ne_none r))]
  · rfl

/-- A window after it takes the samples of a frame, opened where none was open. -/
structure WindowTook (x : Nest) (o : OpenWindow) (p : Plan) (s : Segment) (c : Fin 24) (w : WindowSpan)
    (mic ambient : Sample) : Prop where
  samples : o.samples = x.windowSamples ++ [mic]
  ambientSamples : o.ambient = ((x.engine.window.map OpenWindow.ambient).getD []) ++ [ambient]
  micSquares : o.micSquares = ((x.engine.window.map OpenWindow.micSquares).getD 0) + mic.toInt.natAbs ^ 2
  micPeak : o.micPeak = max ((x.engine.window.map OpenWindow.micPeak).getD 0) mic.toInt.natAbs
  ambientSquares : o.ambientSquares
    = ((x.engine.window.map OpenWindow.ambientSquares).getD 0) + ambient.toInt.natAbs ^ 2
  opened : x.engine.window = none → o.cursor = c ∧ o.index = x.engine.closed ∧ o.driveStart = w.driveStart
    ∧ o.driveEnd = w.driveEnd ∧ o.micStart = w.micStart ∧ o.micEnd = w.micEnd
    ∧ o.frequency = p.openFrequency c s x.engine.closed

theorem Device.sampleWindow_takes {d : Device} {n : NestId} {r : UnitRecord} {mic ambient : Sample} {w : WindowSpan}
    (hw : windowSpan (d.segmentOf r) r.dwell (d.planOf r).header.acousticDelay (d.nest n).engine.closed = w)
    (hc : (d.nest n).engine.closed < windowCount (d.segmentOf r) r.dwell) (hstart : w.micStart ≤ (d.nest n).tone.timer)
    (hend : (d.nest n).tone.timer < w.micEnd) : ∃ o, (d.sampleWindow n r mic ambient).window = some o
      ∧ WindowTook (d.nest n) o (d.planOf r) (d.segmentOf r) r.cursor w mic ambient := by
  subst hw
  simp only [Device.sampleWindow, if_pos (And.intro hc (And.intro hstart hend))]
  refine ⟨_, rfl, ?_⟩
  cases ho : (d.nest n).engine.window with
  | none =>
    constructor
    case opened => exact fun _ => ⟨rfl, rfl, rfl, rfl, rfl, rfl, rfl⟩
    all_goals simp [ho, OpenWindow.take, Plan.openWindow, Nest.windowSamples, sampleSquare]
  | some o =>
    constructor
    case opened => exact fun h => absurd (ho.symm.trans h) (Option.some_ne_none o)
    all_goals simp [ho, OpenWindow.take, Nest.windowSamples, sampleSquare]

theorem Device.sampleWindow_closed (d : Device) (n : NestId) (r : UnitRecord) (mic ambient : Sample) :
    (d.sampleWindow n r mic ambient).closed = (d.nest n).engine.closed := by
  simp only [Device.sampleWindow]
  split_ifs <;> rfl

theorem Device.sampleWindow_outside {d : Device} {n : NestId} {r : UnitRecord} {mic ambient : Sample} {w : WindowSpan}
    (hw : windowSpan (d.segmentOf r) r.dwell (d.planOf r).header.acousticDelay (d.nest n).engine.closed = w)
    (h : windowCount (d.segmentOf r) r.dwell ≤ (d.nest n).engine.closed ∨ (d.nest n).tone.timer < w.micStart
      ∨ w.micEnd ≤ (d.nest n).tone.timer) : d.sampleWindow n r mic ambient = (d.nest n).engine := by
  subst hw
  simp only [Device.sampleWindow]
  rw [if_neg (by omega)]

/-! ## NEST_LINK_FRAME (O17) -/

/-- The samples that count while LOST or for a frame not received (R179). -/
theorem NestPort.taken_nothing {p : NestPort} {frame : Option NestFrame} (h : frame = none ∨ p.locked = false) :
    p.taken frame = { mic := Vector.replicate 4 0, sense := Vector.replicate 4 0, ambient := Vector.replicate 2 0
                      fixture := 0 } := by
  rcases h with rfl | h
  · cases hl : p.locked <;> simp only [NestPort.taken, hl]
  · simp only [NestPort.taken, h]

theorem NestPort.taken_frame {p : NestPort} (h : p.locked = true) (f : NestFrame) : p.taken (some f) = f := by
  simp only [NestPort.taken, h]

theorem Device.nestFrame_fixture_received {d : Device} (h : d.nestPort.locked = true) (f : NestFrame) (n : NestId) :
    (d.nestFrame (some f)).fixture[n]
      = d.fixture[n].debounceFrame fun k => f.fixture.getLsbD (4 * n.val + k.val) := by
  have hf : (d.nestFrame (some f)).fixture = Vector.ofFn fun n : NestId => d.fixture[n].debounceFrame fun k =>
      f.fixture.getLsbD (4 * n.val + k.val) := by
    simp only [Device.nestFrame, h, NestPort.taken_frame h]
    rfl
  rw [hf]
  simp

theorem Device.nestFrame_fixture_stands {d : Device} {frame : Option NestFrame}
    (h : frame = none ∨ d.nestPort.locked = false) : (d.nestFrame frame).fixture = d.fixture := by
  rcases h with rfl | h
  · exact if_neg (by rw [Option.isSome_none, Bool.and_false]; exact Bool.false_ne_true)
  · exact if_neg (by rw [h]; exact Bool.false_ne_true)

/-- A frame changes nothing of the fixture lines but the debounce counts (R168). -/
theorem Device.nestFrame_fixture (d : Device) (frame : Option NestFrame) (n : NestId) :
    (d.nestFrame frame).fixture[n] = { d.fixture[n] with count := ((d.nestFrame frame).fixture[n]).count } := by
  cases hl : d.nestPort.locked with
  | false => rw [Device.nestFrame_fixture_stands (.inr hl)]
  | true =>
    cases frame with
    | none => rw [Device.nestFrame_fixture_stands (.inl rfl)]
    | some f =>
      rw [Device.nestFrame_fixture_received hl]
      rfl

theorem FixtureLines.debounceFrame_count (x : FixtureLines) (raw : Fin 4 → Bool) (k : Fin 4) :
    (x.debounceFrame raw).count[k] = if readLevel x.map.polarity[k] (raw k) = x.taken[k] then 0 else x.count[k] + 1 := by
  simp [FixtureLines.debounceFrame]

/-- The inbound samples and lines of a frame. -/
theorem Device.nestFrame_received {d : Device} (h : d.nestPort.locked = true) (f : NestFrame) :
    (d.nestFrame (some f)).nestPort.sense = f.sense ∧ (d.nestFrame (some f)).nestPort.ambient = f.ambient
    ∧ (∀ n : NestId, (d.nest n).loopback = false → (d.nestFrame (some f)).nestPort.mic[n] = f.mic[n])
    ∧ ∀ (n : NestId) (l : InputLine), ((d.nestFrame (some f)).fixture[n]).count[inputIndex l]
      = if readLevel (d.map n).polarity[inputIndex l] (f.fixture.getLsbD (4 * n.val + (inputIndex l).val))
          = d.taken n l then 0 else (d.fixture[n]).count[inputIndex l] + 1 := by
  refine ⟨?_, ?_, fun n hn => ?_, fun n l => ?_⟩
  · rw [Device.nestFrame_sense, NestPort.taken_frame h]
  · rw [Device.nestFrame_ambient, NestPort.taken_frame h]
  · rw [Device.nestFrame_mic, NestPort.taken_frame h, if_neg (by rw [hn]; exact Bool.false_ne_true)]
  · rw [Device.nestFrame_fixture_received h, FixtureLines.debounceFrame_count]
    rfl

theorem Device.nestFrame_missed {d : Device} {frame : Option NestFrame}
    (h : frame = none ∨ d.nestPort.locked = false) :
    (∀ n : NestId, (d.nestFrame frame).nestPort.sense[n] = 0)
    ∧ (∀ g : GroupId, (d.nestFrame frame).nestPort.ambient[g] = 0)
    ∧ (∀ n : NestId, (d.nest n).loopback = false → (d.nestFrame frame).nestPort.mic[n] = 0)
    ∧ (d.nestFrame frame).fixture = d.fixture := by
  refine ⟨fun n => ?_, fun g => ?_, fun n hn => ?_, Device.nestFrame_fixture_stands h⟩
  · rw [Device.nestFrame_sense, NestPort.taken_nothing h]
    simp
  · rw [Device.nestFrame_ambient, NestPort.taken_nothing h]
    simp
  · rw [Device.nestFrame_mic, NestPort.taken_nothing h, if_neg (by rw [hn]; exact Bool.false_ne_true)]
    simp

theorem Device.nestFrame_output (d : Device) (frame : Option NestFrame) (n : NestId) (k : Fin 4) :
    (d.nestFrame frame).nestPort.outFixture.getLsbD (4 * n.val + k.val) = !(d.lineState n k) := by
  rw [Device.nestFrame_outFixture]
  exact lineWord_getLsbD (fun n k => !d.lineState n k) n k

theorem TableStore.afterFrame_eq (t : TableStore) : t.afterFrame = { t with
    operationTimer := if t.operation = .none then t.operationTimer else t.operationTimer + 1 } := by
  rw [TableStore.afterFrame]
  split <;> rfl

theorem Device.nestFrame_state (d : Device) (frame : Option NestFrame) (n : NestId) :
    ((d.nestFrame frame).nest n).state = (d.nest n).state := by
  rw [d.nestFrame_nest, d.nestAfterFrame_frame]

theorem Device.nestFrame_record (d : Device) (frame : Option NestFrame) (n : NestId) :
    ((d.nestFrame frame).nest n).record = (d.nest n).record := by
  rw [d.nestFrame_nest, d.nestAfterFrame_frame]

/-- What a frame leaves of a nest: its generator, its engine, and the timers and sums of its stage. -/
theorem Device.nestAfterFrame_eq (d : Device) (n : NestId) (mic sense ambient : Sample) {x y : Nest} (hx : d.nest n = x)
    (hy : d.nestAfterFrame n mic sense ambient = y) : y = { x with
      tone := y.tone
      engine := y.engine
      settling := if x.state = .clamping then x.settling.map (fun c => (c.1 + 1, c.2)) else x.settling
      clampTimer := if x.state = .clamping ∧ x.settling = none then x.clampTimer + 1 else x.clampTimer
      releaseTimer := if x.state = .releasing then x.releaseTimer + 1 else x.releaseTimer
      markTimer := if x.state = .marking then x.markTimer + 1 else x.markTimer
      judgeTimer := if x.state = .judging then x.judgeTimer + 1 else x.judgeTimer
      stageTimer := y.stageTimer
      quietCount := y.quietCount
      quietSquares := y.quietSquares } := by
  subst hx hy
  obtain ⟨hsettling, hclamp, hrelease, hmark, hjudge⟩ := d.nestAfterFrame_timers n mic sense ambient
  rw [← hsettling, ← hclamp, ← hrelease, ← hmark, ← hjudge]
  have hframe := d.nestAfterFrame_frame n mic sense ambient
  have htone : (d.nestAfterFrame n mic sense ambient).tone = d.toneAfterFrame n sense mic := congrArg Nest.tone hframe
  rw [htone]
  exact hframe

/-- What a frame leaves of a generator. -/
theorem Device.toneAfterFrame_eq (d : Device) (n : NestId) (sense mic : Sample) {g g' : ToneGenerator}
    (hg : (d.nest n).tone = g) (hg' : d.toneAfterFrame n sense mic = g') : g' = { g with
      phase := g'.phase
      timer := if g.mode = .lock ∨ g.mode = .segment then g.timer + 1 else g.timer
      sense := if g.mode = .lock then g.sense ++ [sense] else g.sense
      pilot := g'.pilot } := by
  subst hg hg'
  rw [← d.toneAfterFrame_timer n sense mic, ← (d.toneAfterFrame_samples n sense mic).1]
  exact d.toneAfterFrame_frame n sense mic

/-- The window that is open on a sweeping nest after a frame. -/
theorem Device.nestAfterFrame_window {d : Device} {n : NestId} {r : UnitRecord} {p : Plan} {k : Nat} {w : WindowSpan}
    (hs : (d.nest n).state = .sweeping) (hm : (d.nest n).tone.mode = .segment) (hr : (d.nest n).record = some r)
    (hp : d.planOf r = p) (hk : (d.nest n).engine.closed = k)
    (hw : windowSpan (d.segmentOf r) r.dwell p.header.acousticDelay k = w) (mic sense ambient : Sample) :
    (d.nestAfterFrame n mic sense ambient).engine.closed = k
    ∧ (k < windowCount (d.segmentOf r) r.dwell → w.micStart ≤ (d.nest n).tone.timer →
      (d.nest n).tone.timer < w.micEnd → ∃ o, (d.nestAfterFrame n mic sense ambient).engine.window = some o
        ∧ WindowTook (d.nest n) o p (d.segmentOf r) r.cursor w mic ambient)
    ∧ (windowCount (d.segmentOf r) r.dwell ≤ k ∨ (d.nest n).tone.timer < w.micStart
        ∨ w.micEnd ≤ (d.nest n).tone.timer →
      (d.nestAfterFrame n mic sense ambient).engine = (d.nest n).engine) := by
  subst hp hk
  rw [Device.nestAfterFrame_sweep hs hm hr]
  exact ⟨d.sampleWindow_closed n r mic ambient, Device.sampleWindow_takes hw, Device.sampleWindow_outside hw⟩

/-- Settles O17. -/
theorem nestLinkFrameSamples : Obligations.NestLinkFrameSamples := by
  refine fun s frame => ⟨fun hdue => execNestLinkFrame_waits hdue frame,
    fun hdue => ⟨_, exec_nestLinkFrame hdue frame, fun n => ?_, ?_⟩⟩
  · have h := Device.nothingDue hdue n
    refine ⟨h.clampTimer, fun _ _ => h.settling, h.releaseTimer, fun _ _ => h.markTimer, ?_, fun _ => h.quietTimer, ?_,
      h.judgeTimer, h.debounce⟩
    · rintro r g limit hs hr rfl hm hl
      exact h.lockTimer hs hr hm hl
    · rintro r x k hs hm hr rfl rfl
      exact h.sweepTimer hs hm hr
  · obtain ⟨hoperation, htimer, hmissed, hreceived⟩ := Device.frameDue_rest hdue
    refine ⟨hoperation, htimer, hmissed, hreceived, s.dev.nestFrame_output frame, s.dev.nestFrame_drive frame,
      fun n hl => (s.dev.nestFrame_mic frame n).trans (if_pos hl), ?_, fun h => Device.nestFrame_missed h, rfl, ?_, ?_,
      s.dev.nestFrame_past frame, s.dev.nestFrame_fixture frame, ?_, fun n => ?_, rfl,
      s.dev.tables.afterFrame_eq, rfl⟩
    · rintro f rfl hl
      exact Device.nestFrame_received hl f
    · cases frame <;> rfl
    · cases frame <;> rfl
    · intro n x y hx hy
      have hy' := (s.dev.nestFrame_nest frame n).symm.trans hy
      have htone : s.dev.toneAfterFrame n (s.dev.nestFrame frame).nestPort.sense[n]
          (s.dev.nestFrame frame).nestPort.mic[n] = y.tone := by rw [← hy, s.dev.nestFrame_tone]
      obtain ⟨-, hpilot⟩ := s.dev.toneAfterFrame_samples n (s.dev.nestFrame frame).nestPort.sense[n]
        (s.dev.nestFrame frame).nestPort.mic[n]
      obtain ⟨hstage, hquiet, hsums, hstands⟩ := s.dev.nestAfterFrame_quietSums n
        (s.dev.nestFrame frame).nestPort.mic[n] (s.dev.nestFrame frame).nestPort.sense[n]
        (s.dev.nestFrame frame).nestPort.ambient[s.dev.groupOf n]
      have hengine := fun h => s.dev.nestAfterFrame_engine_stands (n := n) h (s.dev.nestFrame frame).nestPort.mic[n]
        (s.dev.nestFrame frame).nestPort.sense[n] (s.dev.nestFrame frame).nestPort.ambient[s.dev.groupOf n]
      rw [hy', hx] at hstage hquiet hsums hstands
      rw [hy', hx] at hengine
      rw [htone, hx] at hpilot
      refine ⟨s.dev.nestAfterFrame_eq n _ _ _ hx hy', s.dev.toneAfterFrame_eq n _ _ (congrArg Nest.tone hx) htone,
        fun hm => hpilot.trans (if_neg hm), fun r hm hr => ?_, hstage, hquiet, hsums, hstands, hengine⟩
      rw [hpilot, if_pos hm, Device.acousticDelay_eq (hx ▸ hr)]
      rfl
    · have hnest := s.dev.nestFrame_nest frame n
      refine ⟨s.dev.nestFrame_state frame n, s.dev.nestFrame_record frame n, fun r p k w hs hm hr hp hk hw => ?_⟩
      obtain ⟨hclosed, htakes, houtside⟩ := s.dev.nestAfterFrame_window hs hm hr hp hk hw
        (s.dev.nestFrame frame).nestPort.mic[n] (s.dev.nestFrame frame).nestPort.sense[n]
        (s.dev.nestFrame frame).nestPort.ambient[s.dev.groupOf n]
      rw [← hnest] at hclosed htakes houtside
      refine ⟨hclosed, fun hc hstart hend => ?_, houtside⟩
      obtain ⟨o, ho, htook⟩ := htakes hc hstart hend
      exact ⟨o, ho, htook.samples, htook.ambientSamples, htook.micSquares, htook.micPeak, htook.ambientSquares,
        hk ▸ htook.opened⟩

end Sys2Proof.Machine

namespace Sys2Proof.Machine

/-! ## TIMERS (O54) -/

theorem LockEntered.stageOnly {d e : Device} {n : NestId} (h : LockEntered d e n) : StageOnly d e n :=
  ⟨h.frame, fun m hm => by rw [h.others m hm]; exact SameButStart.refl _⟩

theorem hasFailure_addFailure (f : FailureSet) (c : FailureClass) : hasFailure (addFailure f c) c = true := by
  have hbit : c.bit < 16 := by cases c <;> decide
  simp [hasFailure, addFailure, hbit]

/-- SETTLE_END when due (R14, R37). -/
theorem exec_settleEnd {s : State} {n : NestId} (h : (s.dev.nest n).settleOver = true) :
    exec (.settleEnd n) s
      = .next { s with dev := (s.dev.setNest n { s.dev.nest n with settling := none }).enterLevelLock n } := by
  change Host.Outcome.next _ = _
  rw [if_pos h]
  rfl

theorem exec_clampTimeout {s : State} {n : NestId} (h : s.dev.clampExpired n = true) :
    exec (.clampTimeout n) s = .next { s with dev := s.dev.earlyEnd n .fixture } := by
  change Host.Outcome.next _ = _
  rw [if_pos h]
  rfl

theorem exec_releaseTimeout {s : State} {n : NestId} (h : s.dev.releaseExpired n = true) :
    exec (.releaseTimeout n) s = .next { s with dev := (s.dev.addHistory n .fixtureFail).enterFault n } := by
  change Host.Outcome.next _ = _
  rw [if_pos h]
  rfl

theorem exec_markPulseEnd {s : State} {n : NestId} (h : (s.dev.nest n).markOver = true) :
    exec (.markPulseEnd n) s = .next { s with dev := s.dev.exitTest n } := by
  change Host.Outcome.next _ = _
  rw [if_pos h]
  rfl

theorem exec_coalescingTimerExpiry {s : State} (h : s.dev.notices.timerOver = true) :
    exec .coalescingTimerExpiry s = .next { s with dev := { s.dev with
      notices := { s.dev.notices with pending := s.dev.notices.pending.set labelsSource true, timer := none } } } := by
  change Host.Outcome.next _ = _
  rw [if_pos h]
  rfl

/-- Settles O54. -/
theorem timersAct : Obligations.TimersAct := by
  refine fun s n => ⟨fun r run total hs hx hdue hr => ?_, fun r hs hx hdue hr => ?_, fun hs hdue => ?_,
    fun r v hs hc hr hv hdue => ?_, fun x hx hdue => ?_⟩
  · have hover : (s.dev.nest n).settleOver = true := by simp [Nest.settleOver, hs, hx, hdue]
    have h := (s.dev.setNest n { s.dev.nest n with settling := none }).enterLevelLock_spec n
    have hrecord := h.record r (by rw [Device.nest_setNest_same]; exact hr)
    obtain ⟨sub, hsub⟩ := hrecord
    refine ⟨_, sub, exec_settleEnd hover, h.state, hsub, ?_, ?_, ?_, h.stageOnly.of_setNest, rfl⟩
    · rw [h.gain, Device.nest_setNest_same, hr]
      rfl
    · rw [h.settling, Device.nest_setNest_same]
    · rw [h.history, Device.nest_setNest_same]
  · have hover : s.dev.clampExpired n = true := by
      simp only [Device.clampExpired, hs, hx, Option.isNone_none, decide_true, Bool.and_true, Bool.true_and,
        decide_eq_true_iff]
      exact hdue
    refine ⟨_, exec_clampTimeout hover, ?_, hasFailure_addFailure _ _,
      fun hf => (Device.earlyEnd_labels .fixture hr hf).1, fun hf => (Device.earlyEnd_discards .fixture hr hf).1, rfl⟩
    by_cases hf : s.dev.labels.posted < 64
    · exact (Device.earlyEnd_labels .fixture hr hf).2.1
    · exact (Device.earlyEnd_discards .fixture hr (Nat.not_lt.mp hf)).2.1
  · have hover : s.dev.releaseExpired n = true := by
      simp only [Device.releaseExpired, hs, decide_true, Bool.true_and, decide_eq_true_iff]
      exact hdue
    refine ⟨_, exec_releaseTimeout hover, ?_⟩
    rw [Device.addHistory_eq, Device.enterFault_eq, Device.setNest_setNest]
    refine ⟨?_, ?_, ?_, fun m hm => Device.nest_setNest_ne _ _ hm, rfl⟩ <;>
      rw [Device.raise_nest, Device.nest_setNest_same, Device.nest_setNest_same]
  · have hover : (s.dev.nest n).markOver = true := by
      simp only [Nest.markOver, hs, hc, hr, decide_true, Bool.true_and, Option.bind_some, hv, Option.any_some,
        decide_eq_true_iff]
      exact hdue
    obtain ⟨y, hy, hx⟩ := s.dev.exitTest_exits n
    refine ⟨_, exec_markPulseEnd hover, ?_⟩
    rw [hy]
    refine ⟨?_, ?_, ?_, fun m hm => Device.nest_setNest_ne _ _ hm, rfl⟩ <;> rw [Device.nest_setNest_same]
    exacts [hx.state, hx.markClaim, hx.record]
  · refine exec_coalescingTimerExpiry ?_
    simp only [NoticeArbiter.timerOver, hx, Option.any_some, decide_eq_true_iff]
    exact hdue

/-! ## THE LEVEL LOCK (O55) -/

theorem Device.locking_eq {d : Device} {n : NestId} {r : UnitRecord} (hs : (d.nest n).state = .levelLock)
    (hm : (d.nest n).tone.mode = .lock) (hr : (d.nest n).record = some r) :
    d.locking n = some ((d.planOf r).header, r.dwell) := by
  simp only [Device.locking, hs, hm, hr]

theorem Nest.inInterval_iff {x : Nest} {r : UnitRecord} (hr : x.record = some r) (k i : Nat) :
    x.inInterval k i = true ↔ r.tries = k ∧ x.tone.intervals = i := by
  simp only [Nest.inInterval, hr, Option.any_some, Bool.and_eq_true, decide_eq_true_iff]

theorem exec_lockIntervalEnd_other {s : State} {n : NestId} {r : UnitRecord} (hs : (s.dev.nest n).state = .levelLock)
    (hm : (s.dev.nest n).tone.mode = .lock) (hr : (s.dev.nest n).record = some r) {k i : Nat}
    (h : k ≠ r.tries ∨ i ≠ (s.dev.nest n).tone.intervals) : exec (.lockIntervalEnd n k i) s = .next s := by
  change execLockIntervalEnd n k i s = _
  simp only [execLockIntervalEnd, Device.locking_eq hs hm hr, Nest.inInterval_iff hr]
  rw [if_neg]
  rintro ⟨⟨hk, hi⟩, -⟩
  exact h.elim (fun h => h hk.symm) fun h => h hi.symm

theorem exec_lockIntervalEnd {s : State} {n : NestId} {r : UnitRecord} (hs : (s.dev.nest n).state = .levelLock)
    (hm : (s.dev.nest n).tone.mode = .lock) (hr : (s.dev.nest n).record = some r)
    (hdue : 1920 * ((s.dev.nest n).tone.intervals + 1) ≤ (s.dev.nest n).tone.timer)
    (hlimit : 1920 * ((s.dev.nest n).tone.intervals + 1) ≤ 96 * (s.dev.planOf r).header.lockTimeout * r.dwell) :
    exec (.lockIntervalEnd n r.tries (s.dev.nest n).tone.intervals) s
      = .next { s with dev := s.dev.lockInterval n (s.dev.planOf r).header } := by
  have hover : (s.dev.nest n).tone.intervalDue (lockLimit (s.dev.planOf r).header r.dwell) = true := by
    rw [ToneGenerator.intervalDue, Bool.and_eq_true, decide_eq_true_iff, decide_eq_true_iff]
    exact ⟨hdue, hlimit⟩
  change execLockIntervalEnd n _ _ s = _
  simp only [execLockIntervalEnd, Device.locking_eq hs hm hr, Nest.inInterval_iff hr, hover, and_self, if_true]

theorem exec_lockTimeout {s : State} {n : NestId} {r : UnitRecord} (hs : (s.dev.nest n).state = .levelLock)
    (hm : (s.dev.nest n).tone.mode = .lock) (hr : (s.dev.nest n).record = some r)
    (hdue : 96 * (s.dev.planOf r).header.lockTimeout * r.dwell ≤ (s.dev.nest n).tone.timer)
    (hlimit : 96 * (s.dev.planOf r).header.lockTimeout * r.dwell < 1920 * ((s.dev.nest n).tone.intervals + 1)) :
    exec (.lockTimeout n) s = .next { s with dev := s.dev.failStage n .levelLock .levelFail } := by
  have hover : (s.dev.nest n).tone.timeoutDue (lockLimit (s.dev.planOf r).header r.dwell) = true := by
    rw [ToneGenerator.timeoutDue, Bool.and_eq_true, decide_eq_true_iff, decide_eq_true_iff]
    exact ⟨hdue, hlimit⟩
  change execLockTimeout n s = _
  simp only [execLockTimeout, Device.locking_eq hs hm hr, hover, if_true]

theorem pilotPresent_iff (h : PlanHeader) (gain : Int) (pilot : ℚ) (loopback : Bool) :
    pilotPresent h gain pilot loopback = true
      ↔ loopback = true ∨ LevelAtLeast (h.noSignalFloor + min 0 (h.pilotLevel + gain)) pilot := by
  simp only [pilotPresent, Bool.or_eq_true, levelAtLeast_iff, appliedLevel]

/-- The nest at which lock is reached, before the no-signal test (R39). -/
def Nest.locked (x : Nest) : Nest :=
  { x with
    record := x.record.map fun r => { r with lockedGain := some x.tone.gain }
    history := addEvent x.history .locked }

theorem Device.lockReached_eq (d : Device) (n : NestId) (h : PlanHeader) : d.lockReached n h
    = if pilotPresent h (d.nest n).tone.gain (componentPower h.pilotFrequency (d.nest n).tone.pilot) (d.nest n).loopback
      then (d.setNest n (d.nest n).locked).enterQuietCheck n
      else (d.setNest n (d.nest n).locked).failStage n .noSignal .levelFail := by
  simp only [Device.lockReached, Device.modRecord_eq, Device.addHistory_eq, Device.nest_setNest_same,
    Device.setNest_setNest, Nest.locked]

/-- Settles O55. -/
theorem levelLockEnds : Obligations.LevelLockEnds := by
  rintro s n r h t hs hr rfl hm rfl
  refine ⟨fun k i hother => exec_lockIntervalEnd_other hs hm hr hother, fun hdue hlimit => ?_, fun hdue hlimit => ?_⟩
  · have hexec := exec_lockIntervalEnd hs hm hr hdue hlimit
    refine ⟨_, _, componentPower_square _ _, componentPower_square _ _, fun inTolerance hin =>
      ⟨fun hout => ⟨_, gainMove_moves _ _, ?_⟩, fun hyes htwo => ?_, fun hyes htwo => ?_⟩⟩
    · have hw := mt (withinTolerance_iff.mp) (mt hin.mpr hout)
      rw [hexec, Device.lockInterval_goes_on (.inl (Bool.eq_false_of_not_eq_true hw)),
        ToneGenerator.afterInterval_out hw]
      rfl
    · rw [hexec, Device.lockInterval_goes_on (.inr htwo),
        ToneGenerator.afterInterval_in (withinTolerance_iff.mpr (hin.mp hyes))]
    · have hlocked : ((s.dev.setNest n (s.dev.nest n).locked).nest n).record
          = some { r with lockedGain := some (s.dev.nest n).tone.gain } := by
        rw [Device.nest_setNest_same, Nest.locked, hr]
        rfl
      rw [hexec, Device.lockInterval_reached (withinTolerance_iff.mpr (hin.mp hyes)) htwo, Device.lockReached_eq]
      refine ⟨_, rfl, rfl, fun hpresent => ?_, fun hloop habsent => ?_⟩
      · rw [if_pos ((pilotPresent_iff _ _ _ _).mpr hpresent)]
        obtain ⟨hstate, hmode, hhist, hrecord, honly⟩ := Device.enterQuietCheck_spec hlocked
        refine ⟨hstate, hmode, ?_, hrecord, honly.of_setNest⟩
        rw [hhist, Device.nest_setNest_same]
        rfl
      · have hnot : ¬ pilotPresent (s.dev.planOf r).header (s.dev.nest n).tone.gain
            (componentPower (s.dev.planOf r).header.pilotFrequency (s.dev.nest n).tone.pilot)
            (s.dev.nest n).loopback = true := by
          rw [pilotPresent_iff, hloop]
          exact fun hp => hp.elim (fun hp => absurd hp Bool.false_ne_true) habsent
        rw [if_neg hnot]
        have hj := Device.failStage_spec .noSignal .levelFail hlocked
        rw [Device.nest_setNest_same] at hj
        exact hj.of_setNest
  · exact ⟨_, exec_lockTimeout hs hm hr hdue hlimit, rfl, Device.failStage_spec .levelLock .levelFail hr⟩

end Sys2Proof.Machine

namespace Sys2Proof.Machine

/-! ## THE QUIET CHECK (O56) -/

theorem exec_quietWindowClose {s : State} {n : NestId} {r : UnitRecord} (hs : (s.dev.nest n).state = .quietCheck)
    (hr : (s.dev.nest n).record = some r) (hsub : r.sub = .measuring)
    (hdue : 4800 * r.dwell ≤ (s.dev.nest n).stageTimer) :
    exec (.quietWindowClose n r.quietAttempts) s = .next { s with dev := s.dev.quietClose n r } := by
  have hover : (s.dev.nest n).quietWindowOver r = true := decide_eq_true hdue
  change execQuietWindowClose n _ s = _
  simp only [execQuietWindowClose, Device.quietUnit_eq hs hr hsub, hover, and_self, if_true]

theorem exec_quietRetryWaitEnd {s : State} {n : NestId} {r : UnitRecord} (hs : (s.dev.nest n).state = .quietCheck)
    (hr : (s.dev.nest n).record = some r) (hsub : r.sub = .retryWait) (hdue : 9600 ≤ (s.dev.nest n).stageTimer) :
    exec (.quietRetryWaitEnd n) s = .next { s with dev := s.dev.presentStart n } := by
  have hover : (s.dev.nest n).retryWaitOver = true := decide_eq_true hdue
  change execQuietRetryWaitEnd n s = _
  simp only [execQuietRetryWaitEnd, Device.quietUnit_eq hs hr hsub, hover, if_true]

theorem Nest.isQuiet_iff (x : Nest) (h : PlanHeader) : x.isQuiet h = true ↔ x.loopback = true
    ∨ (2 * x.quietSquares) ^ 100 * 10 ^ (-h.quietLimit).toNat ≤ (x.quietCount * 32767 ^ 2) ^ 100 := by
  rw [Nest.isQuiet, Bool.or_eq_true, levelWithin, decide_eq_true_iff]

/-- A nest that has left its arbiter, and its unit (R57). -/
theorem Device.leaveArbiter_record {d : Device} {n : NestId} {r : UnitRecord} (hr : (d.nest n).record = some r) :
    (d.leaveArbiter n).nest n = { d.nest n with record := some { r with sub := .none } } := by
  rw [(d.leaveArbiter_self n).2, hr]
  rfl

/-- At or below the limit the nest sweeps (R62). -/
theorem Device.quietClose_quiet {d : Device} {n : NestId} {r : UnitRecord} (hr : (d.nest n).record = some r)
    (hq : (d.nest n).isQuiet (d.planOf r).header = true) : ((d.quietClose n r).nest n).state = .sweeping
      ∧ (∃ sub, ((d.quietClose n r).nest n).record = some { r with sub := sub })
      ∧ ((d.quietClose n r).nest n).history = addEvent (d.nest n).history .quiet ∧ StageOnly d (d.quietClose n r) n := by
  have hclose : d.quietClose n r = ((d.addHistory n .quiet).leaveArbiter n).enterSweeping n := by
    simp only [Device.quietClose, hq, if_true]
  rw [hclose, Device.addHistory_eq]
  have hnest := Device.leaveArbiter_record (d := d.setNest n { d.nest n with history := addEvent (d.nest n).history .quiet })
    (n := n) (r := r) (by rw [Device.nest_setNest_same]; exact hr)
  have hleave := (d.setNest n { d.nest n with history := addEvent (d.nest n).history .quiet }).leaveArbiter_startsOnly n
  rw [Device.nest_setNest_same] at hnest
  obtain ⟨hstate, hhist, hrecord, honly⟩ := Device.enterSweeping_spec (congrArg Nest.record hnest)
  rw [hnest] at hhist
  exact ⟨hstate, hrecord, hhist, hleave.stageOnly.of_setNest.trans honly⟩

/-- Above the limit, with attempts left, the unit waits for another attempt (R62). -/
theorem Device.quietClose_retry {d : Device} {n : NestId} {r : UnitRecord} (hr : (d.nest n).record = some r)
    (hq : ¬ (d.nest n).isQuiet (d.planOf r).header = true) (hleft : r.quietAttempts < (d.planOf r).header.quietRetries) :
    (d.quietClose n r).nest n = { d.nest n with
      record := some { r with quietAttempts := r.quietAttempts + 1, sub := .retryWait }, stageTimer := 0 }
    ∧ ((d.quietClose n r).group (d.groupOf n)).holder ≠ some n ∧ StageOnly d (d.quietClose n r) n := by
  have hnest := Device.leaveArbiter_record hr
  have hclose : d.quietClose n r = (d.leaveArbiter n).setNest n { d.nest n with
      record := some { r with quietAttempts := r.quietAttempts + 1, sub := .retryWait }, stageTimer := 0 } := by
    simp only [Device.quietClose, if_neg hq, if_pos hleft, Device.modRecord_eq, Device.modNest_eq,
      Device.nest_setNest_same, Device.setNest_setNest]
    rw [hnest]
    rfl
  rw [hclose]
  exact ⟨Device.nest_setNest_same _ _ _, (d.leaveArbiter_self n).1.holder,
    (d.leaveArbiter_startsOnly n).stageOnly.trans (Device.setNest_stageOnly _ _ _)⟩

/-- Settles O56. -/
theorem quietCheckEnds : Obligations.QuietCheckEnds := by
  rintro s n r h quiet hs hr rfl hquiet
  rw [← Nest.isQuiet_iff] at hquiet
  refine ⟨fun hsub hdue => ⟨_, exec_quietWindowClose hs hr hsub hdue, rfl, fun hq => ?_, fun hq => ⟨fun hleft => ?_,
    fun hout => ?_⟩⟩, fun hsub hdue => ⟨_, exec_quietRetryWaitEnd hs hr hsub hdue, rfl, ?_⟩⟩
  · exact Device.quietClose_quiet hr (hquiet.mp hq)
  · obtain ⟨hnest, hholder, honly⟩ := Device.quietClose_retry hr (mt hquiet.mpr hq) hleft
    rw [hnest]
    exact ⟨hs, rfl, rfl, rfl, hholder, honly⟩
  · have hclose : s.dev.quietClose n r = s.dev.failStage n .noise .noiseFail := by
      simp only [Device.quietClose, if_neg (mt hquiet.mpr hq), if_neg (Nat.not_lt.mpr hout)]
    rw [hclose]
    exact Device.failStage_spec .noise .noiseFail hr
  · obtain ⟨honly, -, hplace⟩ := Device.presentStart_quiet hs hr
    have hnest := honly.nests n
    exact ⟨hnest.state.trans hs, hnest.history, hplace, honly.stageOnly⟩

end Sys2Proof.Machine

namespace Sys2Proof.Machine

/-! ## THE CLOSING OF A WINDOW (O57) -/

theorem Device.sweepingUnit_eq {d : Device} {n : NestId} {r : UnitRecord} (hs : (d.nest n).state = .sweeping)
    (hm : (d.nest n).tone.mode = .segment) (hr : (d.nest n).record = some r) : d.sweepingUnit n = some r := by
  simp only [Device.sweepingUnit, hs, hm, hr]

theorem exec_windowClose {s : State} {n : NestId} {r : UnitRecord} (hs : (s.dev.nest n).state = .sweeping)
    (hm : (s.dev.nest n).tone.mode = .segment) (hr : (s.dev.nest n).record = some r)
    (hc : (s.dev.nest n).engine.closed < windowCount (s.dev.segmentOf r) r.dwell)
    (hdue : (s.dev.nextSpan n r).micEnd ≤ (s.dev.nest n).tone.timer) (m : Measures) :
    exec (.windowClose n m) s = .next (s.closeWindow n r m) := by
  have hover : s.dev.windowDue n r = true := by
    rw [Device.windowDue, Bool.and_eq_true, decide_eq_true_iff, decide_eq_true_iff]
    exact ⟨hc, hdue⟩
  change execWindowClose n m s = _
  simp only [execWindowClose, Device.sweepingUnit_eq hs hm hr, hover, if_true]

/-- A span of fewer than 96 samples is counted unmapped (R69). -/
theorem State.closeWindow_empty {s : State} {n : NestId} {r : UnitRecord} (hr : (s.dev.nest n).record = some r)
    (he : (s.dev.nextSpan n r).isEmpty = true) (m : Measures) : s.closeWindow n r m
      = { s with dev := s.dev.setNest n { s.dev.nest n with
          record := some { r with unmapped := min 65535 (r.unmapped + 1) }
          engine := { window := none, closed := (s.dev.nest n).engine.closed + 1 } } } := by
  rw [State.closeWindow, if_pos he, Device.modRecord_eq, Device.modNest_eq, Device.nest_setNest_same,
    Device.setNest_setNest, hr]
  rfl

/-- The part after the guard has found a closing window of this unit void or not. -/
def Device.guarded (d : Device) (n : NestId) (r : UnitRecord) (isVoid : Bool) : Device :=
  d.guardWindow n ((d.nest n).ambientLevel (d.planOf r).header (d.segmentOf r)) isVoid

theorem State.closeWindow_void {s : State} {n : NestId} {r : UnitRecord} (he : (s.dev.nextSpan n r).isEmpty = false)
    (hv : s.dev.windowIsVoid n r = true) (m : Measures) : s.closeWindow n r m
      = { s with dev := ((s.dev.guarded n r true).modNest n Nest.closeWindow).voidWindow n r } := by
  rw [State.closeWindow, if_neg (by rw [he]; exact Bool.false_ne_true)]
  exact if_pos hv

theorem State.closeWindow_accepted {s : State} {n : NestId} {r : UnitRecord}
    (he : (s.dev.nextSpan n r).isEmpty = false) (hv : s.dev.windowIsVoid n r = false) (m : Measures) :
    s.closeWindow n r m = { s with dev := s.dev.guarded n r false }.acceptWindow n r m := by
  rw [State.closeWindow, if_neg (by rw [he]; exact Bool.false_ne_true)]
  exact if_neg (by rw [hv]; exact Bool.false_ne_true)

/-! ### The Ambient Guard (R63; log 25) -/

/-- The sum of squares that the guard compares: of all samples of a SILENCE window, of any other what the tones leave. -/
theorem Nest.ambientLevel_eq {x : Nest} {h : PlanHeader} {s : Segment} {squares : Nat}
    (hsilence : s.kind = .silence → squares = ((x.engine.window.map OpenWindow.ambientSquares).getD 0))
    (hdriven : s.kind ≠ .silence → ∃ e, squares = e.floor.toNat ∧ LeastLeft (sampleRow x.ambientSamples)
      (excludedWaves (driveRange h s x.engine.closed).1 (driveRange h s x.engine.closed).2 x.ambientSamples.length) e) :
    x.ambientLevel h s = { count := x.ambientSamples.length, squares := squares } := by
  by_cases hk : s.kind = .silence
  · rw [Nest.ambientLevel, hsilence hk, hk]
  · obtain ⟨e, he, hleast⟩ := hdriven hk
    obtain ⟨e', he', hleast'⟩ := x.ambientLevel_driven h hk
    have hsquares : (x.ambientLevel h s).squares = squares := by rw [he', he, hleast'.unique hleast]
    rw [← hsquares]
    rfl

theorem Device.windowIsVoid_iff {d : Device} {n : NestId} {r : UnitRecord} {count squares : Nat}
    (hl : (d.nest n).ambientLevel (d.planOf r).header (d.segmentOf r) = { count := count, squares := squares }) :
    d.windowIsVoid n r = true ↔ (d.nest n).loopback = false ∧ (count * 32767 ^ 2) ^ 100
      < (2 * squares) ^ 100 * 10 ^ (-(d.planOf r).header.ambientLimit).toNat := by
  rw [Device.windowIsVoid, hl, Bool.and_eq_true, AmbientLevel.exceeds_iff, Bool.not_eq_true']

theorem Device.guardWindow_loopback {d : Device} {n : NestId} (h : (d.nest n).loopback = true) (a : AmbientLevel)
    (b : Bool) : d.guardWindow n a b = d := if_pos h

theorem Device.guardWindow_watched {d : Device} {n : NestId} (h : (d.nest n).loopback = false) (a : AmbientLevel)
    (b : Bool) : d.guardWindow n a b
      = d.modGroup (d.groupOf n) fun g => { g with ambientLevel := some a, windowVoid := b } :=
  if_neg (by rw [h]; exact Bool.false_ne_true)

theorem Device.guardWindow_planOf (d : Device) (n : NestId) (a : AmbientLevel) (b : Bool) (r : UnitRecord) :
    (d.guardWindow n a b).planOf r = d.planOf r := by
  simp only [Device.planOf, Device.guardWindow_tables]

theorem Device.guardWindow_segmentOf (d : Device) (n : NestId) (a : AmbientLevel) (b : Bool) (r : UnitRecord) :
    (d.guardWindow n a b).segmentOf r = d.segmentOf r := by
  simp only [Device.segmentOf, Device.guardWindow_planOf]

theorem Device.guardWindow_stageOnly (d : Device) (n : NestId) (a : AmbientLevel) (b : Bool) :
    StageOnly d (d.guardWindow n a b) n := by
  refine ⟨?_, fun m _ => by rw [Device.guardWindow_nest]; exact .refl _⟩
  by_cases h : (d.nest n).loopback = true
  · rw [Device.guardWindow_loopback h]
  · rw [Device.guardWindow_watched (Bool.eq_false_of_not_eq_true h)]
    rfl

/-! ### The arbiter leaves what the guard keeps -/

/-- The groups' ambient levels and indications stand. -/
def KeepsGuard (d e : Device) : Prop :=
  ∀ g, (e.group g).ambientLevel = (d.group g).ambientLevel ∧ (e.group g).windowVoid = (d.group g).windowVoid

theorem KeepsGuard.refl (d : Device) : KeepsGuard d d := fun _ => ⟨rfl, rfl⟩

theorem KeepsGuard.trans {d e f : Device} (h : KeepsGuard d e) (k : KeepsGuard e f) : KeepsGuard d f := fun g =>
  ⟨(k g).1.trans (h g).1, (k g).2.trans (h g).2⟩

theorem KeepsGuard.of_groups {d e : Device} (h : e.groups = d.groups) : KeepsGuard d e := fun g => by
  simp only [Device.group, h, and_self]

theorem Device.modGroup_keepsGuard (d : Device) (g : GroupId) {f : Group → Group}
    (hf : ∀ x, (f x).ambientLevel = x.ambientLevel ∧ (f x).windowVoid = x.windowVoid) : KeepsGuard d (d.modGroup g f) := by
  intro k
  by_cases hk : k = g
  · rw [hk, Device.modGroup_group_same]
    exact hf _
  · rw [Device.modGroup_group_ne _ _ hk]
    exact ⟨rfl, rfl⟩

theorem Device.beginStart_keepsGuard (d : Device) (n : NestId) : KeepsGuard d (d.beginStart n) := by
  rw [Device.beginStart_eq]
  have hset : KeepsGuard d (d.setNest n (d.nest n).started) := .of_groups rfl
  split
  · exact hset.trans (Device.modGroup_keepsGuard _ _ fun _ => ⟨rfl, rfl⟩)
  · exact hset

theorem Device.settleGroup_keepsGuard (d : Device) (g : GroupId) : KeepsGuard d (d.settleGroup g) := by
  have hgrant : KeepsGuard d (d.grantTest g) := by
    rcases d.grantTest_cases g with h | ⟨n, rest, -, -, h⟩ <;> rw [h]
    · exact .refl d
    · exact (Device.modGroup_keepsGuard d g (f := fun x => { x with holder := some n, queue := rest })
        fun _ => ⟨rfl, rfl⟩).trans (Device.beginStart_keepsGuard _ n)
  refine hgrant.trans ?_
  simp only [Device.settleGroup, Device.beginHeld]
  split
  · refine List.foldlRecOn (motive := fun e => KeepsGuard (d.grantTest g) e) _ _ (.refl _) fun e he n _ => he.trans ?_
    simp only [Device.beginIfHeld]
    split
    · exact e.beginStart_keepsGuard n
    · exact .refl e
  · exact .refl _

theorem Device.leaveArbiter_keepsGuard (d : Device) (n : NestId) : KeepsGuard d (d.leaveArbiter n) := by
  have hsub : KeepsGuard d (d.setSub n .none) := .of_groups rfl
  have hleft : KeepsGuard (d.setSub n .none) ((d.setSub n .none).modGroup (d.groupOf n) fun x => { x with
      holder := x.holder.filter fun m => decide (m ≠ n)
      queue := x.queue.filter fun m => decide (m ≠ n)
      loud := x.loud.set n false }) := Device.modGroup_keepsGuard _ _ fun _ => ⟨rfl, rfl⟩
  rw [Device.leaveArbiter]
  exact (hsub.trans hleft).trans (Device.settleGroup_keepsGuard _ _)

theorem Device.failStage_keepsGuard (d : Device) (n : NestId) (c : FailureClass) (e : HistoryEvent) :
    KeepsGuard d (d.failStage n c e) := by
  refine KeepsGuard.trans (e := (((d.addFailureTo n c).addHistory n e).silence n).modNest n
    fun x => { x with state := .judging, judgeTimer := 0 }) (.of_groups rfl) ?_
  exact Device.leaveArbiter_keepsGuard _ n

/-- The level and indication that the guard keeps of a closed window (log 25). -/
theorem Device.guardWindow_kept {d e : Device} {n : NestId} {a : AmbientLevel} {b : Bool}
    (hl : (d.nest n).loopback = false) (h : KeepsGuard (d.guardWindow n a b) e) :
    (e.group (d.groupOf n)).windowVoid = b ∧ (e.group (d.groupOf n)).ambientLevel = some a := by
  obtain ⟨hlevel, hvoid⟩ := h (d.groupOf n)
  rw [Device.guardWindow_watched hl, Device.modGroup_group_same] at hlevel hvoid
  exact ⟨hvoid, hlevel⟩

/-! ### A void window (R64, R65) -/

/-- With resweeps left the segment restarts. -/
theorem Device.voidWindow_restarts {d : Device} {n : NestId} {r : UnitRecord} (hr : (d.nest n).record = some r)
    (h : r.resweeps + 1 ≤ (d.planOf r).header.resweeps) : d.voidWindow n r = d.setNest n { d.nest n with
      record := some { r with resweeps := r.resweeps + 1 }
      history := addEvent (d.nest n).history .reswept
      tone := { (d.nest n).tone with phase := 0, timer := 0 }
      engine := { window := none, closed := 0 } } := by
  simp only [Device.voidWindow, if_pos h, Device.modRecord_eq, Device.addHistory_eq, Device.modNest_eq,
    Device.nest_setNest_same, Device.setNest_setNest, hr]
  rfl

/-- Without a resweep left the sweep ends with NOISE. -/
theorem Device.voidWindow_ends {d : Device} {n : NestId} {r : UnitRecord} (hr : (d.nest n).record = some r)
    (h : (d.planOf r).header.resweeps < r.resweeps + 1) :
    EnteredJudging d (d.voidWindow n r) n { r with resweeps := r.resweeps + 1 } (addFailure r.failures .noise)
      (addEvent (d.nest n).history .noiseFail) ∧ KeepsGuard d (d.voidWindow n r) := by
  have hvoid : d.voidWindow n r = (d.setNest n { d.nest n with
      record := some { r with resweeps := r.resweeps + 1 } }).failStage n .noise .noiseFail := by
    simp only [Device.voidWindow, if_neg (Nat.not_le.mpr h), Device.modRecord_eq, hr]
    rfl
  rw [hvoid]
  have hend := Device.failStage_spec (d := d.setNest n { d.nest n with
    record := some { r with resweeps := r.resweeps + 1 } }) (n := n) .noise .noiseFail
    (congrArg Nest.record (Device.nest_setNest_same _ _ _))
  rw [Device.nest_setNest_same] at hend
  have hkeep : KeepsGuard d (d.setNest n { d.nest n with record := some { r with resweeps := r.resweeps + 1 } }) :=
    .of_groups rfl
  exact ⟨hend.of_setNest, hkeep.trans (Device.failStage_keepsGuard _ n .noise .noiseFail)⟩

end Sys2Proof.Machine

namespace Sys2Proof.Machine

/-! ## FOLDING (R73, R82, R83) -/

theorem UnitRecord.foldWindow_band {r : UnitRecord} {p : Plan} {s : Segment} {k : Nat} {b : BandId}
    (hk : s.kind ≠ .silence) (hb : p.bandAt (windowFrequency p.header s k) = some b) (signal : WindowSignal)
    (m : Measures) : r.foldWindow p s k signal m = { r with
      accumulators := r.accumulators.set b (r.accumulators[b].fold
        (drivenValues signal (windowFrequency p.header s k) (segmentLevel r s) r.corrections[b] m)) } := by
  cases hkind : s.kind
  case silence => exact absurd hkind hk
  all_goals simp only [UnitRecord.foldWindow, hkind, hb]

theorem UnitRecord.foldWindow_unmapped {r : UnitRecord} {p : Plan} {s : Segment} {k : Nat} (hk : s.kind ≠ .silence)
    (hb : p.bandAt (windowFrequency p.header s k) = none) (signal : WindowSignal) (m : Measures) :
    r.foldWindow p s k signal m = r.countUnmapped := by
  cases hkind : s.kind
  case silence => exact absurd hkind hk
  all_goals simp only [UnitRecord.foldWindow, hkind, hb]

theorem UnitRecord.foldWindow_silence_none {r : UnitRecord} {p : Plan} {s : Segment} (k : Nat)
    (hk : s.kind = .silence) (hb : silenceBands p (p.segmentBefore r.cursor) = []) (signal : WindowSignal)
    (m : Measures) : r.foldWindow p s k signal m = r.countUnmapped := by
  simp only [UnitRecord.foldWindow, hk, hb]

theorem UnitRecord.foldWindow_silence {r : UnitRecord} {p : Plan} {s : Segment} (k : Nat)
    (hk : s.kind = .silence) (hb : silenceBands p (p.segmentBefore r.cursor) ≠ []) (signal : WindowSignal)
    (m : Measures) : r.foldWindow p s k signal m = { r with
      accumulators := (silenceBands p (p.segmentBefore r.cursor)).foldl (foldSilenceInto
        (silenceBuzz signal (((p.segmentBefore r.cursor).map (segmentLevel r)).getD 0) m) (held 0 600 m.crest))
        r.accumulators } := by
  cases hbands : silenceBands p (p.segmentBefore r.cursor) with
  | nil => exact absurd hbands hb
  | cons b bs => simp only [UnitRecord.foldWindow, hk, hbands]

/-- Of a SILENCE window no polarity is taken. -/
theorem UnitRecord.takePolarity_other {r : UnitRecord} {p : Plan} {s : Segment} (hk : s.kind ≠ .pilot)
    (signal : WindowSignal) (m : Measures) : r.takePolarity p s signal m = r := by
  simp only [UnitRecord.takePolarity]
  exact if_neg fun h => hk h.1

/-- The polarity result of an accepted window (R80). -/
theorem UnitRecord.takePolarity_failures (r : UnitRecord) (p : Plan) (s : Segment) (x : Nest) (m : Measures) :
    (r.takePolarity p s x.windowSignal m).failures = if s.kind = .pilot ∧ x.loopback = false ∧ m.inPhase = false
        ∧ (∃ v ∈ x.windowSamples, v ≠ 0) ∧ p.header.noSignalFloor
          ≤ max (-1200) (min 0 m.fundamental) - min 0 (s.level + r.lockedGain.getD 0)
      then addFailure r.failures .polarity else r.failures := by
  have hcond : (s.kind = .pilot ∧ x.windowSignal = .sound
        ∧ p.header.noSignalFloor ≤ heldFundamental x.windowSignal (segmentLevel r s) m - segmentLevel r s
        ∧ (!m.inPhase) = true)
      ↔ s.kind = .pilot ∧ x.loopback = false ∧ m.inPhase = false ∧ (∃ v ∈ x.windowSamples, v ≠ 0)
        ∧ p.header.noSignalFloor ≤ max (-1200) (min 0 m.fundamental) - min 0 (s.level + r.lockedGain.getD 0) := by
    by_cases hs : x.windowSignal = .sound
    · obtain ⟨hl, hv⟩ := x.windowSignal_sound.mp hs
      have hf : heldFundamental x.windowSignal (segmentLevel r s) m - segmentLevel r s
          = max (-1200) (min 0 m.fundamental) - min 0 (s.level + r.lockedGain.getD 0) := by
        rw [hs]
        rfl
      rw [hf, Bool.not_eq_true']
      exact ⟨fun ⟨hk, _, hfloor, hp⟩ => ⟨hk, hl, hp, hv, hfloor⟩, fun ⟨hk, _, hp, _, hfloor⟩ => ⟨hk, hs, hfloor, hp⟩⟩
    · exact ⟨fun ⟨_, h, _⟩ => absurd h hs, fun ⟨_, hl, _, hv, _⟩ => absurd (x.windowSignal_sound.mpr ⟨hl, hv⟩) hs⟩
  simp only [UnitRecord.takePolarity, if_congr hcond rfl rfl]
  split <;> rfl

theorem windowFrequency_eq {h : PlanHeader} {x : Segment} {k f : Nat}
    (hf : (x.kind = .pilot ∧ f = h.pilotFrequency) ∨ (x.kind = .step ∧ f = x.startFrequency)
      ∨ (x.kind = .chirp ∧ f = subWindowFrequency x k)) : x.kind ≠ .silence ∧ windowFrequency h x k = f := by
  rcases hf with ⟨hk, rfl⟩ | ⟨hk, rfl⟩ | ⟨hk, rfl⟩ <;> exact ⟨by rw [hk]; decide, by simp only [windowFrequency, hk]⟩

/-- A driven window is folded with its held values (R76 to R79, R83). -/
theorem drivenValues_folded (a : Accumulator) (x : Nest) (f : Nat) (applied correction : Int) (m : Measures)
    {fundamental : Int} (hf : fundamental = max (-1200) (min 0 (if x.loopback then applied
      else if ∀ v ∈ x.windowSamples, v = 0 then -1200 else m.fundamental))) :
    Folded a (a.fold (drivenValues x.windowSignal f applied correction m))
      (max (-1000) (min 400 (fundamental - applied + correction))) (max (-1000) (min 400 (fundamental - applied)))
      (if fundamental = -1200 then 10000 else if f = 24000 then 1 else max 1 (min 10000 m.distortion))
      (if 4800 ≤ f then none else some (max (-1200) (min 400 m.buzz), max 0 (min 600 m.crest))) := by
  rw [← x.heldFundamental_eq applied m] at hf
  subst hf
  refine Accumulator.fold_folded a (drivenValues x.windowSignal f applied correction m) _ ?_ ?_
  all_goals
    simp only [drivenValues, residueEmpty, decide_eq_true_eq]
    split <;> rfl

/-! ### The bands of a SILENCE window (R73, R78) -/

/-- The frequency that a SILENCE window takes from the segment before it (R73). -/
def FedFrequency (p : Plan) (c : Segment) (f : Nat) : Prop :=
  (c.kind = .step ∧ f = c.startFrequency) ∨ (c.kind = .pilot ∧ f = p.header.pilotFrequency)
  ∨ (c.kind = .chirp ∧ f = c.endFrequency)

theorem mem_silenceBands {p : Plan} {c : Segment} {f : Nat} (hf : FedFrequency p c f) (i : BandId) :
    i ∈ silenceBands p (some c) ↔ f < 4800 ∧ ((c.kind ≠ .chirp ∧ p.bandAt f = some i)
      ∨ (c.kind = .chirp ∧ i.val < p.header.bandCount
        ∧ (p.bands[i]).lower ≤ max c.startFrequency c.endFrequency
        ∧ min c.startFrequency c.endFrequency < (p.bands[i]).upper)) := by
  have hempty : (!residueEmpty f) = true ↔ f < 4800 := by simp [residueEmpty]
  rw [silenceBands_eq]
  rcases hf with ⟨hk, rfl⟩ | ⟨hk, rfl⟩ | ⟨hk, rfl⟩
  · simp [silenceFeeds, hk, residueEmpty, Option.mem_toList]
  · simp [silenceFeeds, hk, residueEmpty, Option.mem_toList]
  · simp [silenceFeeds, hk, residueEmpty, Plan.mem_bandIds, Band.overlaps]

theorem silenceBands_nodup (p : Plan) (before : Option Segment) : (silenceBands p before).Nodup := by
  have hids : p.bandIds.Nodup := (List.nodup_finRange 32).filter _
  rw [silenceBands_eq]
  split
  · cases before with
    | none => exact List.nodup_nil
    | some c =>
      cases hk : c.kind <;> simp only [silenceFeeds, hk]
      · exact Option.toList_nodup _
      · exact Option.toList_nodup _
      · exact hids.filter _
      · exact List.nodup_nil
  · exact List.nodup_nil

theorem silenceBands_nothing {p : Plan} {before : Option Segment}
    (h : before = none ∨ ∃ c, before = some c ∧ c.kind = .silence) : silenceBands p before = [] := by
  rcases h with rfl | ⟨c, rfl, hk⟩
  · rfl
  · simp only [silenceBands, silenceFeeds, hk]

/-- A SILENCE window is folded into each band it feeds, and into no other. -/
theorem foldSilence_getElem (buzz crest : Int) {l : List BandId} (hl : l.Nodup) (a : Vector Accumulator 32)
    (i : BandId) : (l.foldl (foldSilenceInto buzz crest) a)[i]
      = if i ∈ l then a[i].foldSilence buzz crest else a[i] := by
  induction l generalizing a with
  | nil => rw [if_neg List.not_mem_nil]; rfl
  | cons b l ih =>
    obtain ⟨hb, hl⟩ := List.nodup_cons.mp hl
    rw [List.foldl_cons, ih hl]
    by_cases hi : i = b
    · subst hi
      rw [if_neg hb, if_pos List.mem_cons_self]
      simp [foldSilenceInto]
    · have hne : b.val ≠ i.val := fun h => hi (Fin.ext h.symm)
      have hset : (foldSilenceInto buzz crest a b)[i] = a[i] := by simp [foldSilenceInto, hne]
      rw [hset]
      exact if_congr (by simp [hi]) rfl rfl

/-! ## AN ACCEPTED WINDOW (R74, R141) -/

theorem Device.acceptedRecord_eq (d : Device) (n : NestId) (r : UnitRecord) (m : Measures) : d.acceptedRecord n r m
    = (r.foldWindow (d.planOf r) (d.segmentOf r) (d.nest n).engine.closed (d.nest n).windowSignal m).takePolarity
        (d.planOf r) (d.segmentOf r) (d.nest n).windowSignal m := rfl

theorem Device.acceptedRecord_chain (d : Device) (n : NestId) (r : UnitRecord) (m : Measures) :
    (d.acceptedRecord n r m).chain = r.chain := by
  rw [d.acceptedRecord_eq, UnitRecord.takePolarity_frame, UnitRecord.foldWindow_frame]

theorem Device.acceptedRecord_accumulators (d : Device) (n : NestId) (r : UnitRecord) (m : Measures) :
    (d.acceptedRecord n r m).accumulators = (r.foldWindow (d.planOf r) (d.segmentOf r) (d.nest n).engine.closed
      (d.nest n).windowSignal m).accumulators
    ∧ (d.acceptedRecord n r m).unmapped = (r.foldWindow (d.planOf r) (d.segmentOf r) (d.nest n).engine.closed
      (d.nest n).windowSignal m).unmapped := by
  rw [d.acceptedRecord_eq, UnitRecord.takePolarity_frame]
  exact ⟨rfl, rfl⟩

theorem Device.acceptedRecord_failures (d : Device) (n : NestId) (r : UnitRecord) (m : Measures) :
    (d.acceptedRecord n r m).failures = if (d.segmentOf r).kind = .pilot ∧ (d.nest n).loopback = false
        ∧ m.inPhase = false ∧ (∃ v ∈ (d.nest n).windowSamples, v ≠ 0) ∧ (d.planOf r).header.noSignalFloor
          ≤ max (-1200) (min 0 m.fundamental) - min 0 ((d.segmentOf r).level + r.lockedGain.getD 0)
      then addFailure r.failures .polarity else r.failures := by
  rw [d.acceptedRecord_eq, UnitRecord.takePolarity_failures, UnitRecord.foldWindow_frame]

/-- `t` is `s` after a window of this unit is accepted. -/
structure Accepted (s t : State) (n : NestId) (r : UnitRecord) (m : Measures) (c : Chain) : Prop where
  self : t.dev.nest n = { s.dev.nest n with
    record := some { s.dev.acceptedRecord n r m with chain := c }
    engine := { window := none, closed := (s.dev.nest n).engine.closed + 1 } }
  others : ∀ j, j ≠ n → t.dev.nest j = s.dev.nest j
  mgmt : t.mgmt = s.mgmt
  plain : s.dev.captures r = false → c = r.chain ∧ t.samples = s.samples ∧ t.dev.pool = s.dev.pool
  captured : s.dev.captures r = true → r.chain.fill ≤ 4096 → c.blocks ++ t.dev.pool.free = r.chain.blocks ++ s.dev.pool.free
    ∧ r.chain.blocks.length ≤ c.blocks.length ∧ ∀ (b : BlockId) (i : Nat), b ∉ c.blocks → i < 4096 →
      readSample t.samples b i = readSample s.samples b i

theorem State.acceptWindow_plain {s : State} {n : NestId} {r : UnitRecord} (hr : (s.dev.nest n).record = some r)
    (hc : s.dev.captures r = false) (m : Measures) : s.acceptWindow n r m
      = { s with dev := s.dev.setNest n { s.dev.nest n with
          record := some (s.dev.acceptedRecord n r m)
          engine := { window := none, closed := (s.dev.nest n).engine.closed + 1 } } } := by
  rw [State.acceptWindow, if_neg (by rw [hc]; exact Bool.false_ne_true), Device.modRecord_eq, Device.modNest_eq,
    Device.nest_setNest_same, Device.setNest_setNest, hr]
  rfl

theorem State.acceptWindow_captured {s : State} {n : NestId} {r : UnitRecord} (hr : (s.dev.nest n).record = some r)
    (hc : s.dev.captures r = true) (m : Measures) : ∃ a, s.acceptWindow n r m
      = { s with
          samples := (s.claimBlocks n r).samples
          dev := { s.dev.setNest n { s.dev.nest n with
            record := some { s.dev.acceptedRecord n r m with chain := (s.claimBlocks n r).chain }
            engine := { window := none, closed := (s.dev.nest n).engine.closed + 1 } } with
              pool := (s.claimBlocks n r).pool, notices := a } } := by
  have hmod : (({ s.dev with pool := (s.claimBlocks n r).pool } : Device).modRecord n fun _ =>
      { s.dev.acceptedRecord n r m with chain := (s.claimBlocks n r).chain }).modNest n Nest.closeWindow
      = { s.dev.setNest n { s.dev.nest n with
            record := some { s.dev.acceptedRecord n r m with chain := (s.claimBlocks n r).chain }
            engine := { window := none, closed := (s.dev.nest n).engine.closed + 1 } } with
          pool := (s.claimBlocks n r).pool } := by
    have hr' : (({ s.dev with pool := (s.claimBlocks n r).pool } : Device).nest n).record = some r := hr
    rw [Device.modRecord_eq, Device.modNest_eq, Device.nest_setNest_same, Device.setNest_setNest, hr']
    rfl
  rw [State.acceptWindow, if_pos hc]
  simp only [hmod]
  split
  · exact ⟨_, rfl⟩
  · exact ⟨s.dev.notices, rfl⟩

theorem State.acceptWindow_spec {s : State} {n : NestId} {r : UnitRecord} (hr : (s.dev.nest n).record = some r)
    (m : Measures) : (s.acceptWindow n r m).dev.groups = s.dev.groups ∧ ∃ c, Accepted s (s.acceptWindow n r m) n r m c := by
  cases hc : s.dev.captures r with
  | false =>
    rw [State.acceptWindow_plain hr hc]
    refine ⟨rfl, r.chain, ?_, fun j hj => Device.nest_setNest_ne _ _ hj, rfl, fun _ => ⟨rfl, rfl, rfl⟩,
      fun h => absurd (hc.symm.trans h) Bool.false_ne_true⟩
    refine (Device.nest_setNest_same _ _ _).trans ?_
    rw [← s.dev.acceptedRecord_chain n r m]
  | true =>
    obtain ⟨a, ha⟩ := State.acceptWindow_captured hr hc m
    rw [ha]
    refine ⟨rfl, (s.claimBlocks n r).chain, Device.nest_setNest_same _ _ _, fun j hj => Device.nest_setNest_ne _ _ hj,
      rfl, fun h => absurd (hc.symm.trans h) (by decide), fun _ hfill => ?_⟩
    have hg := recordWindow_grows (s.dev.planOf r).header.captureBlockLimit
      { chain := r.chain, pool := s.dev.pool, samples := s.samples, low := false } (s.dev.nest n).windowSamples hfill
    exact ⟨hg.conserved, hg.longer, hg.others⟩

theorem Device.captures_iff (d : Device) (r : UnitRecord) : d.captures r = true
    ↔ (d.segmentOf r).capture = true ∧ (d.planOf r).header.capturePolicy ≠ .none := by
  rw [Device.captures, Bool.and_eq_true, decide_eq_true_iff]

end Sys2Proof.Machine

namespace Sys2Proof.Machine

/-! ## THE TONES LEFT OUT (R63; log 39) -/

theorem mem_excludedRates (lo hi count : Nat) (r : ToneRate) : r ∈ excludedRates lo hi count
    ↔ ∃ h, 1 ≤ h ∧ h ≤ 5 ∧ r ∈ rangeRates lo hi count h ∧ 2 * r.turns < r.frames := by
  have hmem : ∀ h : Nat, h ∈ [1, 2, 3, 4, 5] ↔ 1 ≤ h ∧ h ≤ 5 := fun h => by
    simp only [List.mem_cons, List.not_mem_nil, or_false]
    omega
  rw [excludedRates, List.mem_filter, List.mem_flatMap, decide_eq_true_iff]
  exact ⟨fun ⟨⟨h, hh, hr⟩, hlow⟩ => ⟨h, ((hmem h).mp hh).1, ((hmem h).mp hh).2, hr, hlow⟩,
    fun ⟨h, h1, h5, hr, hlow⟩ => ⟨⟨h, (hmem h).mpr ⟨h1, h5⟩, hr⟩, hlow⟩⟩

theorem mem_rangeRates (lo hi count h turns frames : Nat) : (⟨turns, frames⟩ : ToneRate) ∈ rangeRates lo hi count h
    ↔ (lo = hi ∧ turns = h * lo ∧ frames = 96000)
      ∨ (lo ≠ hi ∧ ∃ b steps i : Nat, b = (h * (hi - lo) * count + 95999) / 96000
        ∧ steps = b + (b + 3) / 4 + 3 ∧ i ≤ steps ∧ turns = h * (lo * steps + (hi - lo) * i)
        ∧ frames = 96000 * steps) := by
  rw [rangeRates]
  by_cases hl : lo = hi
  · rw [if_pos hl, List.mem_singleton, ToneRate.mk.injEq]
    exact ⟨fun ⟨ht, hf⟩ => .inl ⟨hl, ht, hf⟩, fun k => k.elim (fun ⟨_, ht, hf⟩ => ⟨ht, hf⟩) fun k => absurd hl k.1⟩
  · rw [if_neg hl, List.mem_map]
    constructor
    · rintro ⟨i, hi, he⟩
      obtain ⟨ht, hf⟩ := ToneRate.mk.injEq .. ▸ he
      exact .inr ⟨hl, _, _, i, rfl, rfl, Nat.lt_succ_iff.mp (List.mem_range.mp hi), ht.symm, hf.symm⟩
    · rintro (⟨k, -⟩ | ⟨-, b, steps, i, rfl, rfl, hi, ht, hf⟩)
      · exact absurd k hl
      · exact ⟨i, List.mem_range.mpr (Nat.lt_succ_of_le hi), by rw [ht, hf]; rfl⟩

theorem mem_excludedWaves (lo hi count : Nat) (w : List ℚ) : w ∈ excludedWaves lo hi count ↔
    ∃ h turns frames start : Nat, 1 ≤ h ∧ h ≤ 5 ∧ 2 * turns < frames ∧ (start = 0 ∨ start = phaseTurn / 4)
      ∧ ((lo = hi ∧ turns = h * lo ∧ frames = 96000)
        ∨ (lo ≠ hi ∧ ∃ b steps i : Nat, b = (h * (hi - lo) * count + 95999) / 96000
          ∧ steps = b + (b + 3) / 4 + 3 ∧ i ≤ steps ∧ turns = h * (lo * steps + (hi - lo) * i)
          ∧ frames = 96000 * steps))
      ∧ w = (List.range count).map fun j => (signedSine (turns * j * phaseTurn / frames + start) : ℚ) := by
  rw [excludedWaves, List.mem_flatMap]
  constructor
  · rintro ⟨⟨turns, frames⟩, hr, hw⟩
    obtain ⟨h, h1, h5, hrange, hlow⟩ := (mem_excludedRates lo hi count _).mp hr
    have hrate := (mem_rangeRates lo hi count h turns frames).mp hrange
    rcases List.mem_pair.mp hw with rfl | rfl
    · exact ⟨h, turns, frames, 0, h1, h5, hlow, .inl rfl, hrate, rfl⟩
    · exact ⟨h, turns, frames, phaseTurn / 4, h1, h5, hlow, .inr rfl, hrate, rfl⟩
  · rintro ⟨h, turns, frames, start, h1, h5, hlow, hstart, hrate, rfl⟩
    refine ⟨⟨turns, frames⟩, (mem_excludedRates lo hi count _).mpr
      ⟨h, h1, h5, (mem_rangeRates lo hi count h turns frames).mpr hrate, hlow⟩, List.mem_pair.mpr ?_⟩
    rcases hstart with rfl | rfl
    · exact .inl rfl
    · exact .inr rfl

/-! ## THE FREQUENCIES OF A CHIRP (R46, R72) -/

/-- The rounded frequency of a chirp is the nearest whole number. -/
theorem chirpFrequency_roundsTo {f0 f1 p q : Nat} (hq : 0 < q) (hp : p ≤ q) (h0 : f0 ≤ 24000) (h1 : f1 ≤ 24000) :
    RoundsTo f0 f1 p q (chirpFrequency f0 f1 p q) := by
  obtain ⟨hholds, hlargest⟩ := largestWith_largest
    (p := fun h => decide ((2 * h - 1) ^ q ≤ 2 ^ q * (f0 ^ (q - p) * f1 ^ p)))
    (fun a b hab hb => decide_eq_true ((Nat.pow_le_pow_left (by omega) q).trans (of_decide_eq_true hb))) 15 0
    (decide_eq_true (by rw [Nat.mul_zero, Nat.zero_sub, Nat.zero_pow hq]; exact Nat.zero_le _))
  have hlow := of_decide_eq_true hholds
  change (2 * chirpFrequency f0 f1 p q - 1) ^ q ≤ _ at hlow
  have hbound : (2 * chirpFrequency f0 f1 p q - 1) ^ q ≤ 48000 ^ q := calc
    _ ≤ 2 ^ q * (f0 ^ (q - p) * f1 ^ p) := hlow
    _ ≤ 2 ^ q * (24000 ^ (q - p) * 24000 ^ p) :=
      Nat.mul_le_mul_left _ (Nat.mul_le_mul (Nat.pow_le_pow_left h0 _) (Nat.pow_le_pow_left h1 _))
    _ = 48000 ^ q := by rw [← Nat.pow_add, Nat.sub_add_cancel hp, ← Nat.mul_pow]
  have hsmall := (Nat.pow_le_pow_iff_left hq.ne').mp hbound
  refine ⟨hlow, Nat.lt_of_not_le fun hhigh => ?_⟩
  have hnext := hlargest (chirpFrequency f0 f1 p q + 1) (by omega) (decide_eq_true (by
    rw [show 2 * (chirpFrequency f0 f1 p q + 1) - 1 = 2 * chirpFrequency f0 f1 p q + 1 by omega]
    exact hhigh))
  change chirpFrequency f0 f1 p q + 1 ≤ chirpFrequency f0 f1 p q at hnext
  omega

theorem windowCount_chirp {x : Segment} (hk : x.kind = .chirp) :
    windowCount x 1 = max 1 ((x.duration - x.settle) / 10) := by
  simp only [windowCount, hk, durationFrames, settleFrames, subWindowFrames, msFrames, Nat.mul_one]
  congr 1
  omega

/-- The centre and the two ends of a chirp sub-window are rounded to 1 Hz (R72, R82; logs 28, 39). -/
theorem subWindow_roundsTo {x : Segment} {k portion length : Nat} (hx : x.InRange) (hk : x.kind = .chirp)
    (hcount : k < windowCount x 1) (hp : portion = x.duration - x.settle)
    (hl : length = (if k + 1 = max 1 (portion / 10) then portion - 10 * k else 10)) :
    RoundsTo x.startFrequency x.endFrequency (20 * k + length) (2 * portion) (subWindowFrequency x k)
    ∧ ∀ h : PlanHeader, ∃ a b, driveRange h x k = (min a b, max a b)
        ∧ RoundsTo x.startFrequency x.endFrequency (10 * k) portion a
        ∧ RoundsTo x.startFrequency x.endFrequency (10 * k + length) portion b := by
  obtain ⟨⟨-, hstart⟩, ⟨-, hend⟩, -, -, -, hsettle⟩ := hx
  have hwindows := windowCount_chirp hk
  rw [← hp] at hwindows
  rw [hwindows] at hcount
  have htimes : subWindowTimes x k = (10 * k, length) := by
    rw [subWindowTimes, hwindows, ← hp, hl]
  have hpos : 0 < portion := by omega
  have hwithin : 10 * k + length ≤ portion := by
    split at hl <;> omega
  have hcentre : subWindowFrequency x k
      = chirpFrequency x.startFrequency x.endFrequency (20 * k + length) (2 * portion) := by
    simp only [subWindowFrequency, htimes, ← hp]
    congr 1
    omega
  rw [hcentre]
  refine ⟨chirpFrequency_roundsTo (by omega) (by omega) hstart hend, fun h =>
    ⟨chirpFrequency x.startFrequency x.endFrequency (10 * k) portion,
      chirpFrequency x.startFrequency x.endFrequency (10 * k + length) portion, ?_,
      chirpFrequency_roundsTo hpos (by omega) hstart hend, chirpFrequency_roundsTo hpos hwithin hstart hend⟩⟩
  simp only [driveRange, hk, htimes, ← hp]

/-! ## SEGMENT_END (R48) -/

theorem exec_segmentEnd {s : State} {n : NestId} {r : UnitRecord} (hs : (s.dev.nest n).state = .sweeping)
    (hm : (s.dev.nest n).tone.mode = .segment) (hr : (s.dev.nest n).record = some r)
    (hdue : durationFrames (s.dev.segmentOf r) r.dwell ≤ (s.dev.nest n).tone.timer)
    (hc : windowCount (s.dev.segmentOf r) r.dwell ≤ (s.dev.nest n).engine.closed) :
    exec (.segmentEnd n) s = .next { s with dev := s.dev.endSegment n r } := by
  have hover : s.dev.segmentOver n r = true := by
    rw [Device.segmentOver, Bool.and_eq_true, decide_eq_true_iff, decide_eq_true_iff]
    exact ⟨hdue, hc⟩
  change execSegmentEnd n s = _
  simp only [execSegmentEnd, Device.sweepingUnit_eq hs hm hr, hover, if_true]

/-- The next segment is presented (R48, R57). -/
theorem Device.endSegment_next {d : Device} {n : NestId} {r : UnitRecord} (hr : (d.nest n).record = some r)
    (h : r.cursor.val + 1 < (d.planOf r).header.segmentCount) :
    ((d.endSegment n r).nest n).state = (d.nest n).state ∧ ((d.endSegment n r).nest n).history = (d.nest n).history
    ∧ (∃ sub, ((d.endSegment n r).nest n).record = some { r with cursor := r.cursor + 1, resweeps := 0, sub := sub })
    ∧ StageOnly d (d.endSegment n r) n := by
  have hrec : ((d.silence n).nest n).record = some r := by
    rw [Device.silence_eq, Device.nest_setNest_same]
    exact hr
  have hleft := Device.leaveArbiter_record hrec
  have honly := (d.silence n).leaveArbiter_startsOnly n
  have hend : d.endSegment n r = (((d.silence n).leaveArbiter n).setNest n { (d.silence n).nest n with
      record := some { r with sub := .none, cursor := r.cursor + 1, resweeps := 0 } }).presentStart n := by
    simp only [Device.endSegment, if_pos h, Device.modRecord_eq]
    rw [hleft]
    rfl
  have hstart := (((d.silence n).leaveArbiter n).setNest n { (d.silence n).nest n with
    record := some { r with sub := .none, cursor := r.cursor + 1, resweeps := 0 } }).presentStart_startsOnly n
  rw [← hend] at hstart
  have hnest := hstart.nests n
  rw [Device.nest_setNest_same] at hnest
  rw [Device.silence_eq] at honly
  have hsilent : ((d.silence n).nest n).state = (d.nest n).state ∧ ((d.silence n).nest n).history = (d.nest n).history := by
    rw [Device.silence_eq, Device.nest_setNest_same]
    exact ⟨rfl, rfl⟩
  exact ⟨hnest.state.trans hsilent.1, hnest.history.trans hsilent.2, hnest.record_some rfl,
    honly.stageOnly.of_setNest.trans (by rw [← Device.silence_eq]; exact hstart.stageOnly.of_setNest)⟩

/-- After the last segment the sweep ends (R48). -/
theorem Device.endSegment_last {d : Device} {n : NestId} {r : UnitRecord} (hr : (d.nest n).record = some r)
    (h : (d.planOf r).header.segmentCount ≤ r.cursor.val + 1) :
    EnteredJudging d (d.endSegment n r) n r r.failures (addEvent (d.nest n).history .swept) := by
  have hend : d.endSegment n r = (d.setNest n { d.nest n with history := addEvent (d.nest n).history .swept }).enterJudging n := by
    simp only [Device.endSegment, if_neg (Nat.not_lt.mpr h), Device.addHistory_eq]
  rw [hend]
  have hj := Device.enterJudging_spec (d := d.setNest n { d.nest n with
    history := addEvent (d.nest n).history .swept }) (n := n) (r := r) (by rw [Device.nest_setNest_same]; exact hr)
  rw [Device.nest_setNest_same] at hj
  exact hj.of_setNest

end Sys2Proof.Machine

namespace Sys2Proof.Machine

/-! ## WHAT AN ACCEPTED WINDOW FOLDS (O57) -/

/-- The frequency of a window of a PILOT, STEP or CHIRP segment (Table 4-1). -/
def DrivenFrequency (p : Plan) (x : Segment) (k f : Nat) : Prop :=
  (x.kind = .pilot ∧ f = p.header.pilotFrequency) ∨ (x.kind = .step ∧ f = x.startFrequency)
  ∨ (x.kind = .chirp ∧ f = subWindowFrequency x k)

/-- A driven window is folded into the band of its frequency, with its held values (R74, R76 to R79, R82, R83). -/
theorem Device.acceptedRecord_band {d : Device} {n : NestId} {r : UnitRecord} {m : Measures} {f : Nat} {b : BandId}
    {applied fundamental : Int} (hf : DrivenFrequency (d.planOf r) (d.segmentOf r) (d.nest n).engine.closed f)
    (hb : (d.planOf r).bandAt f = some b) (happlied : applied = min 0 ((d.segmentOf r).level + r.lockedGain.getD 0))
    (hfund : fundamental = max (-1200) (min 0 (if (d.nest n).loopback then applied
      else if ∀ v ∈ (d.nest n).windowSamples, v = 0 then -1200 else m.fundamental))) :
    (d.acceptedRecord n r m).unmapped = r.unmapped
    ∧ (∀ i : BandId, i ≠ b → (d.acceptedRecord n r m).accumulators[i] = r.accumulators[i])
    ∧ Folded r.accumulators[b] (d.acceptedRecord n r m).accumulators[b]
        (max (-1000) (min 400 (fundamental - applied + r.corrections[b])))
        (max (-1000) (min 400 (fundamental - applied)))
        (if fundamental = -1200 then 10000 else if f = 24000 then 1 else max 1 (min 10000 m.distortion))
        (if 4800 ≤ f then none else some (max (-1200) (min 400 m.buzz), max 0 (min 600 m.crest))) := by
  obtain ⟨hk, hfreq⟩ := windowFrequency_eq hf
  subst hfreq happlied
  obtain ⟨hacc, hunmapped⟩ := d.acceptedRecord_accumulators n r m
  rw [hacc, hunmapped, UnitRecord.foldWindow_band hk hb]
  refine ⟨rfl, fun i hi => ?_, ?_⟩
  · have hne : b.val ≠ i.val := fun h => hi (Fin.ext h.symm)
    simp [hne]
  · have hself : (r.accumulators.set b (r.accumulators[b].fold (drivenValues (d.nest n).windowSignal
        (windowFrequency (d.planOf r).header (d.segmentOf r) (d.nest n).engine.closed) (segmentLevel r (d.segmentOf r))
        r.corrections[b] m)))[b] = _ := Vector.getElem_set_self b.isLt
    rw [hself]
    exact drivenValues_folded _ _ _ _ _ _ hfund

/-- A driven window of a frequency that no band holds is counted unmapped (R82). -/
theorem Device.acceptedRecord_unmapped {d : Device} {n : NestId} {r : UnitRecord} {m : Measures} {f : Nat}
    (hf : DrivenFrequency (d.planOf r) (d.segmentOf r) (d.nest n).engine.closed f)
    (hb : (d.planOf r).bandAt f = none) : (d.acceptedRecord n r m).accumulators = r.accumulators
      ∧ (d.acceptedRecord n r m).unmapped = min 65535 (r.unmapped + 1) := by
  obtain ⟨hk, hfreq⟩ := windowFrequency_eq hf
  subst hfreq
  obtain ⟨hacc, hunmapped⟩ := d.acceptedRecord_accumulators n r m
  rw [hacc, hunmapped, UnitRecord.foldWindow_unmapped hk hb]
  exact ⟨rfl, rfl⟩

/-- A SILENCE window that feeds no band is counted unmapped (R73). -/
theorem Device.acceptedRecord_silence_none {d : Device} {n : NestId} {r : UnitRecord} {m : Measures}
    (hk : (d.segmentOf r).kind = .silence) (hb : silenceBands (d.planOf r) ((d.planOf r).segmentBefore r.cursor) = []) :
    (d.acceptedRecord n r m).accumulators = r.accumulators
    ∧ (d.acceptedRecord n r m).unmapped = min 65535 (r.unmapped + 1) := by
  obtain ⟨hacc, hunmapped⟩ := d.acceptedRecord_accumulators n r m
  rw [hacc, hunmapped, UnitRecord.foldWindow_silence_none _ hk hb]
  exact ⟨rfl, rfl⟩

/-- A SILENCE window is folded, buzz and crest alone, into the bands that the segment before feeds (R73, R78, R83). -/
theorem Device.acceptedRecord_silence {d : Device} {n : NestId} {r : UnitRecord} {m : Measures} {c : Segment}
    {buzz crest : Int} (hk : (d.segmentOf r).kind = .silence) (hc : (d.planOf r).segmentBefore r.cursor = some c)
    (hb : silenceBands (d.planOf r) (some c) ≠ [])
    (hbuzz : buzz = (if (d.nest n).loopback = true ∨ ∀ v ∈ (d.nest n).windowSamples, v = 0 then -1200
      else max (-1200) (min 400 (m.residueLevel - min 0 (c.level + r.lockedGain.getD 0)))))
    (hcrest : crest = max 0 (min 600 m.crest)) : (d.acceptedRecord n r m).unmapped = r.unmapped
      ∧ ∀ i : BandId, (i ∉ silenceBands (d.planOf r) (some c) →
          (d.acceptedRecord n r m).accumulators[i] = r.accumulators[i])
        ∧ (i ∈ silenceBands (d.planOf r) (some c) → (d.acceptedRecord n r m).accumulators[i] = { r.accumulators[i] with
            maxBuzz := some (max buzz ((r.accumulators[i]).maxBuzz.getD buzz))
            maxCrest := some (max crest ((r.accumulators[i]).maxCrest.getD crest)) }) := by
  obtain ⟨hacc, hunmapped⟩ := d.acceptedRecord_accumulators n r m
  have hlevel : silenceBuzz (d.nest n).windowSignal ((((d.planOf r).segmentBefore r.cursor).map (segmentLevel r)).getD 0) m
      = buzz := by
    rw [hc, Nest.silenceBuzz_eq, hbuzz]
    rfl
  have hheld : held 0 600 m.crest = crest := hcrest.symm
  rw [hacc, hunmapped, UnitRecord.foldWindow_silence _ hk (by rw [hc]; exact hb), hlevel, hheld, hc]
  refine ⟨rfl, fun i => ?_⟩
  rw [foldSilence_getElem buzz crest (silenceBands_nodup _ _)]
  refine ⟨fun hi => if_neg hi, fun hi => ?_⟩
  rw [if_pos hi, Accumulator.foldSilence, foldMax_eq, foldMax_eq]

/-! ## THE GUARD AND THE WINDOW (O57) -/

theorem Device.guarded_nest (d : Device) (n m : NestId) (r : UnitRecord) (b : Bool) :
    (d.guarded n r b).nest m = d.nest m := d.guardWindow_nest n m _ b
theorem Device.guarded_planOf (d : Device) (n : NestId) (r : UnitRecord) (b : Bool) :
    (d.guarded n r b).planOf r = d.planOf r := d.guardWindow_planOf n _ b r
theorem Device.guarded_segmentOf (d : Device) (n : NestId) (r : UnitRecord) (b : Bool) :
    (d.guarded n r b).segmentOf r = d.segmentOf r := d.guardWindow_segmentOf n _ b r
theorem Device.guarded_pool (d : Device) (n : NestId) (r : UnitRecord) (b : Bool) :
    (d.guarded n r b).pool = d.pool := d.guardWindow_pool n _ b

theorem Device.guarded_acceptedRecord (d : Device) (n : NestId) (r : UnitRecord) (b : Bool) (m : Measures) :
    (d.guarded n r b).acceptedRecord n r m = d.acceptedRecord n r m := by
  rw [Device.acceptedRecord_eq, Device.acceptedRecord_eq, d.guarded_planOf, d.guarded_segmentOf, d.guarded_nest]

theorem Device.guarded_captures (d : Device) (n : NestId) (r : UnitRecord) (b : Bool) :
    (d.guarded n r b).captures r = d.captures r := by
  rw [Device.captures, Device.captures, d.guarded_planOf, d.guarded_segmentOf]

/-- A window that is not void is accepted. -/
theorem State.closeWindow_spec {s : State} {n : NestId} {r : UnitRecord} (hr : (s.dev.nest n).record = some r)
    (he : (s.dev.nextSpan n r).isEmpty = false) (hv : s.dev.windowIsVoid n r = false) (m : Measures) :
    (s.closeWindow n r m).dev.groups = (s.dev.guarded n r false).groups
    ∧ ∃ c, Accepted s (s.closeWindow n r m) n r m c := by
  rw [State.closeWindow_accepted he hv]
  obtain ⟨hgroups, c, hc⟩ := State.acceptWindow_spec (s := { s with dev := s.dev.guarded n r false }) (n := n) (r := r)
    (by rw [Device.guarded_nest]; exact hr) m
  obtain ⟨hself, hothers, hmgmt, hplain, hcaptured⟩ := hc
  simp only [Device.guarded_nest, Device.guarded_acceptedRecord, Device.guarded_captures, Device.guarded_pool]
    at hself hothers hplain hcaptured
  exact ⟨hgroups, c, hself, hothers, hmgmt, hplain, hcaptured⟩

end Sys2Proof.Machine

namespace Sys2Proof.Machine

/-! ## WINDOW_CLOSE AND SEGMENT_END (O57) -/

theorem EnteredJudging.of_stageOnly {d d' e : Device} {n : NestId} {r : UnitRecord} {f : FailureSet} {h : HistorySet}
    (hd : StageOnly d d' n) (k : EnteredJudging d' e n r f h) : EnteredJudging d e n r f h := by
  obtain ⟨hstate, hmode, hhist, hrecord, hholder, hqueue, hloud, honly⟩ := k
  have hg : d'.groupOf n = d.groupOf n := by simp only [Device.groupOf, hd.groupMap]
  rw [hg] at hholder hqueue hloud
  exact ⟨hstate, hmode, hhist, hrecord, hholder, hqueue, hloud, hd.trans honly⟩

/-- The part in which a window has been found void and closed. -/
def Device.voided (d : Device) (n : NestId) (r : UnitRecord) : Device :=
  (d.guarded n r true).setNest n (d.nest n).closeWindow

theorem State.closeWindow_voided {s : State} {n : NestId} {r : UnitRecord} (he : (s.dev.nextSpan n r).isEmpty = false)
    (hv : s.dev.windowIsVoid n r = true) (m : Measures) :
    s.closeWindow n r m = { s with dev := (s.dev.voided n r).voidWindow n r } := by
  rw [State.closeWindow_void he hv, Device.modNest_eq, Device.guarded_nest]
  rfl

theorem Device.voided_nest (d : Device) (n : NestId) (r : UnitRecord) :
    (d.voided n r).nest n = (d.nest n).closeWindow := Device.nest_setNest_same _ _ _

theorem Device.voided_nest_ne {d : Device} {n m : NestId} (r : UnitRecord) (h : m ≠ n) :
    (d.voided n r).nest m = d.nest m := by
  rw [Device.voided, Device.nest_setNest_ne _ _ h, Device.guarded_nest]

theorem Device.voided_planOf (d : Device) (n : NestId) (r : UnitRecord) : (d.voided n r).planOf r = d.planOf r := by
  rw [Device.voided, Device.setNest_planOf, Device.guarded_planOf]

theorem Device.voided_stageOnly (d : Device) (n : NestId) (r : UnitRecord) : StageOnly d (d.voided n r) n :=
  (d.guardWindow_stageOnly n _ true).trans (Device.setNest_stageOnly _ _ _)

/-- A void window with a resweep left (R64). -/
theorem State.closeWindow_restarts {s : State} {n : NestId} {r : UnitRecord} (hr : (s.dev.nest n).record = some r)
    (he : (s.dev.nextSpan n r).isEmpty = false) (hv : s.dev.windowIsVoid n r = true) (m : Measures)
    (h : r.resweeps + 1 ≤ (s.dev.planOf r).header.resweeps) :
    (s.closeWindow n r m).dev.nest n = { s.dev.nest n with
      record := some { r with resweeps := r.resweeps + 1 }
      history := addEvent (s.dev.nest n).history .reswept
      tone := { (s.dev.nest n).tone with phase := 0, timer := 0 }
      engine := { window := none, closed := 0 } }
    ∧ (∀ j, j ≠ n → (s.closeWindow n r m).dev.nest j = s.dev.nest j) ∧ (s.closeWindow n r m).samples = s.samples := by
  rw [State.closeWindow_voided he hv, Device.voidWindow_restarts (by rw [Device.voided_nest]; exact hr)
    (by rw [Device.voided_planOf]; exact h)]
  refine ⟨?_, fun j hj => ?_, rfl⟩
  · refine (Device.nest_setNest_same _ _ _).trans ?_
    rw [Device.voided_nest]
    rfl
  · exact (Device.nest_setNest_ne _ _ hj).trans (Device.voided_nest_ne r hj)

/-- A void window without a resweep left (R65). -/
theorem State.closeWindow_ends {s : State} {n : NestId} {r : UnitRecord} (hr : (s.dev.nest n).record = some r)
    (he : (s.dev.nextSpan n r).isEmpty = false) (hv : s.dev.windowIsVoid n r = true) (m : Measures)
    (h : (s.dev.planOf r).header.resweeps < r.resweeps + 1) :
    EnteredJudging s.dev (s.closeWindow n r m).dev n { r with resweeps := r.resweeps + 1 } (addFailure r.failures .noise)
      (addEvent (s.dev.nest n).history .noiseFail) ∧ (s.closeWindow n r m).samples = s.samples := by
  rw [State.closeWindow_voided he hv]
  obtain ⟨hend, -⟩ := Device.voidWindow_ends (d := s.dev.voided n r) (n := n) (r := r)
    (by rw [Device.voided_nest]; exact hr) (by rw [Device.voided_planOf]; exact h)
  rw [Device.voided_nest] at hend
  exact ⟨hend.of_stageOnly (s.dev.voided_stageOnly n r), rfl⟩

/-- The guard keeps its finding of every window that is not empty (log 25). -/
theorem State.closeWindow_keepsGuard {s : State} {n : NestId} {r : UnitRecord} (hr : (s.dev.nest n).record = some r)
    (he : (s.dev.nextSpan n r).isEmpty = false) (m : Measures) :
    KeepsGuard (s.dev.guarded n r (s.dev.windowIsVoid n r)) (s.closeWindow n r m).dev := by
  cases hv : s.dev.windowIsVoid n r with
  | false => exact .of_groups (State.closeWindow_spec hr he hv m).1
  | true =>
    rw [State.closeWindow_voided he hv]
    have hvoided : KeepsGuard (s.dev.guarded n r true) (s.dev.voided n r) := .of_groups rfl
    have hrecord : ((s.dev.voided n r).nest n).record = some r := by
      rw [Device.voided_nest]
      exact hr
    by_cases h : r.resweeps + 1 ≤ ((s.dev.voided n r).planOf r).header.resweeps
    · rw [Device.voidWindow_restarts hrecord h]
      exact hvoided.trans (.of_groups rfl)
    · exact hvoided.trans (Device.voidWindow_ends hrecord (Nat.not_le.mp h)).2

theorem State.closeWindow_loopback {s : State} {n : NestId} {r : UnitRecord} (hr : (s.dev.nest n).record = some r)
    (he : (s.dev.nextSpan n r).isEmpty = false) (m : Measures) (hl : (s.dev.nest n).loopback = true) :
    (s.closeWindow n r m).dev.groups = s.dev.groups := by
  rw [(State.closeWindow_spec hr he (Device.windowIsVoid_loopback hl r) m).1, Device.guarded,
    Device.guardWindow_loopback hl]

theorem State.closeWindow_watched {s : State} {n : NestId} {r : UnitRecord} (hr : (s.dev.nest n).record = some r)
    (he : (s.dev.nextSpan n r).isEmpty = false) (m : Measures) (hl : (s.dev.nest n).loopback = false) :
    ((s.closeWindow n r m).dev.group (s.dev.groupOf n)).windowVoid = s.dev.windowIsVoid n r
    ∧ ((s.closeWindow n r m).dev.group (s.dev.groupOf n)).ambientLevel
      = some ((s.dev.nest n).ambientLevel (s.dev.planOf r).header (s.dev.segmentOf r)) :=
  Device.guardWindow_kept hl (State.closeWindow_keepsGuard hr he m)

/-- The record that an accepted window leaves, but for its chain. -/
theorem Accepted.record {s t : State} {n : NestId} {r : UnitRecord} {m : Measures} {c : Chain}
    (h : Accepted s t n r m c) :
    (t.dev.nest n).record = some { s.dev.acceptedRecord n r m with chain := c } := by rw [h.self]

/-- Settles O57. -/
theorem sweepAdvances : Obligations.SweepAdvances := by
  refine ⟨?_, fun p f => ⟨fun b hb => ?_, ?_⟩, mem_excludedWaves,
    fun h x k => ⟨fun hk => ?_, fun hk => ?_⟩, fun x k portion length hx hk hcount hp hl =>
      subWindow_roundsTo hx hk hcount hp hl⟩
  · rintro s n r _ _ _ m _ _ _ squares void hs hm hr rfl rfl rfl rfl rfl rfl hsilence hdriven hvoid
    have hlevel := (s.dev.nest n).ambientLevel_eq (h := (s.dev.planOf r).header) (s := s.dev.segmentOf r) hsilence hdriven
    replace hvoid : void ↔ s.dev.windowIsVoid n r = true := hvoid.trans (Device.windowIsVoid_iff hlevel).symm
    refine ⟨fun hc hdue => ⟨_, exec_windowClose hs hm hr hc hdue m, (s.closeWindow_rest n r m).2,
      fun he => State.closeWindow_empty hr he m, fun he => ⟨State.closeWindow_loopback hr he m, fun hl => ?_⟩,
      fun he hv => ⟨State.closeWindow_restarts hr he (hvoid.mp hv) m, State.closeWindow_ends hr he (hvoid.mp hv) m⟩,
      fun he hv => ?_⟩, fun hdue hc => ⟨_, exec_segmentEnd hs hm hr hdue hc, rfl, fun h => ?_, Device.endSegment_last hr⟩⟩
    · obtain ⟨hflag, hkept⟩ := State.closeWindow_watched hr he m hl
      exact ⟨by rw [hflag]; exact hvoid.symm, hkept.trans (congrArg some hlevel)⟩
    · obtain ⟨-, c, hacc⟩ := State.closeWindow_spec hr he (Bool.eq_false_of_not_eq_true (mt hvoid.mpr hv)) m
      have hcaptures := s.dev.captures_iff r
      refine ⟨by rw [hacc.self]; exact hs, by rw [hacc.self], fun f hf => ⟨_, hacc.record,
        fun b applied fundamental hb => Device.acceptedRecord_band hf hb, Device.acceptedRecord_unmapped hf,
        s.dev.acceptedRecord_failures n r m⟩, fun before hk hbefore => ⟨_, hacc.record, ?_, fun hnone => ?_, ?_⟩,
        fun hno => ?_, fun hyes hpolicy hfill => ⟨_, hacc.record,
          hacc.captured (hcaptures.mpr ⟨hyes, hpolicy⟩) hfill⟩, hacc.others⟩
      · refine (s.dev.acceptedRecord_failures n r m).trans (if_neg fun h => ?_)
        exact absurd (hk.symm.trans h.1) (by decide)
      · subst hbefore
        exact Device.acceptedRecord_silence_none hk (silenceBands_nothing hnone)
      · rintro d f feeds buzz crest rfl hf hfeeds hbuzz hcrest
        have hmem : ∀ i, feeds i ↔ i ∈ silenceBands (s.dev.planOf r) (some d) := fun i =>
          (hfeeds i).trans (mem_silenceBands hf i).symm
        refine ⟨fun hnone => Device.acceptedRecord_silence_none hk ?_, fun ⟨i, hi⟩ => ?_⟩
        · change silenceBands (s.dev.planOf r) (if r.cursor.val = 0 then none else _) = []
          rw [← hbefore]
          exact List.eq_nil_iff_forall_not_mem.mpr fun i hi => hnone i ((hmem i).mpr hi)
        · obtain ⟨hunmapped, hbands⟩ := Device.acceptedRecord_silence (m := m) hk hbefore.symm
            (List.ne_nil_of_mem ((hmem i).mp hi)) hbuzz hcrest
          exact ⟨hunmapped, fun j => ⟨fun hj => (hbands j).1 (mt (hmem j).mpr hj), fun hj => (hbands j).2 ((hmem j).mp hj)⟩⟩
      · have hplain : s.dev.captures r = false := Bool.eq_false_of_not_eq_true fun h =>
          hno.elim (fun h' => absurd (h'.symm.trans (hcaptures.mp h).1) Bool.false_ne_true) (hcaptures.mp h).2
        obtain ⟨hchain, hsamples, hpool⟩ := hacc.plain hplain
        exact ⟨hsamples, hpool, _, hacc.record, hchain⟩
    · obtain ⟨hstate, hhist, hrecord, honly⟩ := Device.endSegment_next hr h
      exact ⟨hstate.trans hs, hhist, hrecord, honly⟩
  · obtain ⟨hmem, hin⟩ := Plan.bandAt_some hb
    obtain ⟨hlower, hupper⟩ := (Band.contains_iff _ f).mp hin
    exact ⟨(p.mem_bandIds b).mp hmem, hlower, hupper⟩
  · rw [Plan.bandAt_none]
    refine forall_congr' fun b => ?_
    simp only [p.mem_bandIds, ← Bool.not_eq_true, Band.contains_iff, not_and_or, Nat.not_le, Nat.not_lt]
  · simp only [driveRange, hk, windowFrequency]
  · simp only [driveRange, hk, windowFrequency]

end Sys2Proof.Machine

namespace Sys2Proof.Machine

/-! ## A WINDOW CAPTURED INTO A STORE THAT IS NOT CANONICAL (O58)

The statement asks that the blocks are whole, and nothing of the form of the sample store. Where the store lists an
address twice, a byte 0 that is written takes the first of the two cells away, and the second is read. -/

/-- A unit whose plan captures every segment, at its first window. -/
def capturingUnit : UnitRecord := newRecord .production 0 .bankA 1 [] 0 .reset

/-- A plan that captures every segment, one block a unit. -/
def capturingPlan : Plan :=
  { Plan.cleared with
    header := { PlanHeader.cleared with capturePolicy := .always }
    segments := Vector.replicate 24 { Segment.cleared with capture := true } }

/-- A nest in loopback at the end of its window, of which the one sample taken is 0. -/
def capturingNest : Nest :=
  { Nest.reset with
    state := .sweeping
    loopback := true
    record := some capturingUnit
    tone := { ToneGenerator.reset with mode := .segment, timer := 9600 }
    engine := { window := some ((capturingPlan.openWindow 0 (capturingPlan.segments[0]) 0
      (windowSpan capturingPlan.segments[0] 1 0 0)).take 0 0), closed := 0 } }

/-- The state: the plan stands in bank A, and the first address of the store is listed twice. -/
def capturingState : State :=
  { State.reset with
    samples := [(0, 1), (0, 1)]
    dev := { Device.reset with
      tables := { TableStore.reset with bankA := { Bank.reset with
        rows := { Bank.reset.rows with plans := Vector.replicate 8 capturingPlan }, state := .active } } }.setNest 0
          capturingNest }

/-- Measured values of the window. -/
def capturedMeasures : Measures where
  fundamental := 0
  distortion := 0
  buzz := 0
  residueLevel := 0
  crest := 0
  inPhase := true

theorem capturingState_poolKept : PoolKept capturingState :=
  ⟨⟨by decide, by decide, by decide, by decide⟩, ⟨by decide, by decide, by decide +kernel, by decide +kernel⟩,
    by decide +kernel, fun n r hs => absurd hs (by revert n; decide)⟩

/-- The sample 0 that the window took reads as 256 after it is written. -/
theorem capturingState_reads : (((capturingState.closeWindow 0 capturingUnit capturedMeasures).dev.nest 0).record.map
    fun y => chainSamples (capturingState.closeWindow 0 capturingUnit capturedMeasures).samples y.chain)
      = some [256] := by decide +kernel

/-- Refutes O58: in a sample store that lists an address twice, a captured sample does not read as it was written. -/
theorem not_windowCaptured : ¬ Obligations.WindowCaptured := by
  intro h
  obtain ⟨t, y, hexec, hy, -, hwrites, -⟩ := h capturingState 0 capturingUnit capturingPlan.header
    capturingPlan.segments[0] capturedMeasures 0 4096 0 [0] capturingState_poolKept rfl rfl rfl rfl rfl rfl
    (by decide) (by decide) (by decide) rfl rfl (by decide) (by decide) (by decide) rfl (by decide)
  have ht : t = capturingState.closeWindow 0 capturingUnit capturedMeasures :=
    Host.Outcome.next.inj (hexec.symm.trans (exec_windowClose rfl rfl rfl (by decide) (by decide) capturedMeasures))
  obtain ⟨hsamples, -⟩ := hwrites rfl (by decide) (by decide)
  have hreads := capturingState_reads
  rw [← ht, hy, Option.map_some, hsamples] at hreads
  exact absurd hreads (by decide)

end Sys2Proof.Machine

namespace Sys2Proof.Machine

/-! ## ENTRIES RETURNED (O40) -/

theorem entry_zero (x : EntryId) : x + Fin.ofNat 64 0 = x := by
  apply Fin.ext
  simp only [Fin.add_def, Fin.ofNat_eq_cast, Fin.val_natCast]
  omega

theorem entry_succ (x : EntryId) (j : Nat) : x + 1 + Fin.ofNat 64 j = x + Fin.ofNat 64 (j + 1) := by
  apply Fin.ext
  simp only [Fin.add_def, Fin.ofNat_eq_cast, Fin.val_natCast]
  change ((x.val + 1) % 64 + j % 64) % 64 = _
  omega

theorem Device.returnEntry_labels (d : Device) : d.returnEntry.labels = { d.labels with
    ring := d.labels.ring.set d.labels.ret none, ret := d.labels.ret + 1, posted := d.labels.posted - 1 } := by
  simp only [Device.returnEntry]
  split <;> rfl

theorem Device.returnEntry_pool (d : Device) : d.returnEntry.pool
    = { d.pool with free := d.pool.free ++ entryBlocks d.labels.ring[d.labels.ret] } := by
  have hring : (d.labels.ring[d.labels.ret]).bind RingEntry.chain = (d.labels.ring[d.labels.ret.val]).bind RingEntry.chain :=
    rfl
  simp only [Device.returnEntry, entryBlocks, hring]
  split <;> rename_i hc <;> rw [hc]
  · rfl
  · simp

theorem Device.returnEntries_ring (k : Nat) : ∀ {d : Device}, k ≤ 64 → ∀ x : EntryId,
    (d.returnEntries k).labels.ring[x] = if (x - d.labels.ret).val < k then none else d.labels.ring[x] := by
  induction k with
  | zero => exact fun _ x => (if_neg (Nat.not_lt_zero _)).symm
  | succ k ih =>
    intro d hk x
    rw [Device.returnEntries, ih (by omega), d.returnEntry_labels]
    have hoffset : (x - (d.labels.ret + 1)).val < k ∨ x = d.labels.ret ↔ (x - d.labels.ret).val < k + 1 := by
      rw [Fin.ext_iff, Fin.sub_def, Fin.sub_def, Fin.add_def]
      change (64 - (d.labels.ret.val + 1) % 64 + x.val) % 64 < k ∨ _ ↔ (64 - d.labels.ret.val + x.val) % 64 < k + 1
      omega
    by_cases hx : x = d.labels.ret
    · subst hx
      rw [if_pos (hoffset.mp (.inr rfl))]
      split
      · rfl
      · exact Vector.getElem_set_self _
    · have hne : d.labels.ret.val ≠ x.val := fun h => hx (Fin.ext h.symm)
      have hset : (d.labels.ring.set d.labels.ret none)[x] = d.labels.ring[x] := Vector.getElem_set_ne _ _ hne
      have hiff : (x - (d.labels.ret + 1)).val < k ↔ (x - d.labels.ret).val < k + 1 :=
        ⟨fun h => hoffset.mp (.inl h), fun h => (hoffset.mpr h).resolve_right hx⟩
      exact if_congr hiff rfl hset

/-- The chains still attached join the tail of the Free List in ring order (R146). -/
theorem Device.returnEntries_pool (k : Nat) : ∀ {d : Device}, k ≤ 64 → (d.returnEntries k).pool = { d.pool with
    free := d.pool.free ++ (List.range k).flatMap fun j => entryBlocks d.labels.ring[d.labels.ret + Fin.ofNat 64 j] } := by
  induction k with
  | zero =>
    intro d _
    rw [List.range_zero, List.flatMap_nil, List.append_nil]
    rfl
  | succ k ih =>
    intro d hk
    have hlater : ((List.range k).flatMap fun j => entryBlocks
          d.returnEntry.labels.ring[d.returnEntry.labels.ret + Fin.ofNat 64 j])
        = (List.range k).flatMap fun j => entryBlocks d.labels.ring[d.labels.ret + Fin.ofNat 64 (j + 1)] := by
      refine List.flatMap_congr fun j hj => ?_
      have hj := List.mem_range.mp hj
      have hne : d.labels.ret.val ≠ (d.labels.ret + Fin.ofNat 64 (j + 1)).val := by
        simp only [Fin.add_def, Fin.ofNat_eq_cast, Fin.val_natCast]
        omega
      refine congrArg entryBlocks ?_
      simp only [d.returnEntry_labels, entry_succ]
      exact Vector.getElem_set_ne _ _ hne
    rw [Device.returnEntries, ih (by omega), hlater, d.returnEntry_pool, List.range_succ_eq_map, List.flatMap_cons,
      List.flatMap_map, List.append_assoc]
    simp

/-! ## FREED ENTRIES GRANTED (O40) -/

theorem NestState.labelWait_idle : NestState.labelWait.idle := ⟨by decide, by decide, by decide⟩

theorem Device.afterUnit_idle (d : Device) (n : NestId) : (d.afterUnit n).idle := by
  simp only [Device.afterUnit, Device.afterRelease]
  split_ifs <;> exact ⟨by decide, by decide, by decide⟩

/-- One grant, to the head of the Ring Wait Queue. -/
structure Granted (d e : Device) (n : NestId) (rest : List NestId) (r : UnitRecord) (v : Verdict) : Prop where
  labels : e.labels = { d.labels with waitQueue := rest }.put
    { label := verdictLabel d.labels.counter n r v
      chain := if r.chainKept = true ∧ r.chain.blocks ≠ [] then some r.chain else none }
  pool : e.pool = { d.pool with free := d.pool.free ++ if r.chainKept then [] else r.chain.blocks }
  live : e.yields.live = d.yields.live.set n (counted d.yields.live[n] r.role (if v.cls = .void then none else v.bin)
    (hasFailure r.failures .marginal))
  state : (e.nest n).state = if r.partLost = false ∧ actMark v.actions = true then .marking else d.afterUnit n
  claims : ClaimsMade d e n (if r.partLost then 0 else v.actions)
  others : ∀ m, m ≠ n → (d.nest m).state.idle → e.nest m = d.nest m
  fixture : e.fixture = d.fixture

theorem Granted.idle {d e : Device} {n : NestId} {rest : List NestId} {r : UnitRecord} {v : Verdict}
    (h : Granted d e n rest r v) : (e.nest n).state.idle := by
  rw [h.state]
  split
  · exact ⟨by decide, by decide, by decide⟩
  · exact d.afterUnit_idle n

theorem Device.dequeued_idle {d : Device} {n m : NestId} (rest : List NestId) (r : UnitRecord) (v : Verdict) (hm : m ≠ n)
    (h : (d.nest m).state.idle) : ((d.dequeued rest).postVerdict n r v).nest m = d.nest m :=
  Device.postVerdict_idle (d := d.dequeued rest) hm h r v

theorem Device.dequeued_labels (d : Device) (n : NestId) (rest : List NestId) (r : UnitRecord) (v : Verdict) :
    ((d.dequeued rest).postVerdict n r v).labels = { d.labels with waitQueue := rest }.put
      { label := verdictLabel d.labels.counter n r v
        chain := if r.chainKept = true ∧ r.chain.blocks ≠ [] then some r.chain else none } := by
  have hp := ((d.dequeued rest).postVerdict_spec n r v).labels
  have hattached : _ = if r.chainKept = true ∧ r.chain.blocks ≠ [] then some r.chain else none := r.attached_eq
  rw [← hattached]
  exact hp

theorem Device.dequeued_pool (d : Device) (n : NestId) (rest : List NestId) (r : UnitRecord) (v : Verdict) :
    ((d.dequeued rest).postVerdict n r v).pool
      = { d.pool with free := d.pool.free ++ if r.chainKept then [] else r.chain.blocks } := by
  have hp := ((d.dequeued rest).postVerdict_spec n r v).pool
  cases hk : r.chainKept with
  | true =>
    rw [hk] at hp
    rw [if_pos rfl, List.append_nil]
    exact hp
  | false =>
    rw [hk] at hp
    exact hp

theorem Device.dequeued_live (d : Device) (n : NestId) (rest : List NestId) (r : UnitRecord) (v : Verdict) :
    ((d.dequeued rest).postVerdict n r v).yields.live = d.yields.live.set n (counted d.yields.live[n] r.role
      (if v.cls = .void then none else v.bin) (hasFailure r.failures .marginal)) := by
  have hp := congrArg YieldCounters.live ((d.dequeued rest).postVerdict_spec n r v).yields
  exact hp.trans (congrArg (d.yields.live.set n) (Counters.countLabel_eq _ _))

theorem Device.dequeued_fixture (d : Device) (n : NestId) (rest : List NestId) (r : UnitRecord) (v : Verdict) :
    ((d.dequeued rest).postVerdict n r v).fixture = d.fixture :=
  (congrArg Device.fixture ((d.dequeued rest).postVerdict_spec n r v).frame).trans rfl

theorem Device.grantEntry_granted {d : Device} {n : NestId} {rest : List NestId} {r : UnitRecord} {v : Verdict}
    (hq : d.labels.waitQueue = n :: rest) (hf : d.labels.posted < 64) (hr : (d.nest n).record = some r)
    (hv : r.verdict = some v) : Granted d d.grantEntry n rest r v := by
  obtain ⟨y, hy, hstate, hclaims⟩ := Device.grantEntry_spec hq hf hr hv
  have hsame : d.grantEntry.nest n = y := by rw [hy, Device.nest_setNest_same]
  refine ⟨?_, ?_, ?_, ?_, ?_, fun m hm hidle => ?_, ?_⟩
  · exact (congrArg Device.labels hy).trans (d.dequeued_labels n rest r v)
  · exact (congrArg Device.pool hy).trans (d.dequeued_pool n rest r v)
  · exact (congrArg (fun e => e.yields.live) hy).trans (d.dequeued_live n rest r v)
  · rw [hsame, hstate]
  · rw [claimsMade_iff, hsame]
    exact hclaims
  · rw [hy, Device.nest_setNest_ne _ _ hm, Device.dequeued_idle rest r v hm hidle]
  · exact (congrArg Device.fixture hy).trans (d.dequeued_fixture n rest r v)

theorem LabelUnit.put_ring_same (u : LabelUnit) (e : RingEntry) : (u.put e).ring[u.post] = some e :=
  Vector.getElem_set_self _

theorem LabelUnit.put_ring_ne {u : LabelUnit} {x : EntryId} (e : RingEntry) (h : x ≠ u.post) :
    (u.put e).ring[x] = u.ring[x] :=
  Vector.getElem_set_ne u.post.isLt x.isLt fun h' => h (Fin.ext h'.symm)

theorem Device.grantEntry_nobody {d : Device} (hq : d.labels.waitQueue = []) : d.grantEntry = d := by
  simp only [Device.grantEntry, hq]

theorem Device.grantEntries_nobody {d : Device} (hq : d.labels.waitQueue = []) (k : Nat) : d.grantEntries k = d := by
  induction k with
  | zero => rfl
  | succ k ih => rw [Device.grantEntries, Device.grantEntry_nobody hq, ih]

/-- The blocks that a waiting unit's label frees when it is posted (R145). -/
def freedBlocks (d : Device) (n : NestId) : List BlockId :=
  ((d.nest n).record.map fun r => if r.chainKept then [] else r.chain.blocks).getD []

/-- The grants of `k` freed entries to the nests of the Ring Wait Queue `q`, one each from the head on. -/
structure GrantedAll (k : Nat) (q : List NestId) (d e : Device) : Prop where
  ret : e.labels.ret = d.labels.ret
  waitQueue : e.labels.waitQueue = q.drop k
  post : e.labels.post = d.labels.post + Fin.ofNat 64 (min k q.length)
  counter : e.labels.counter = d.labels.counter + BitVec.ofNat 32 (min k q.length)
  posted : e.labels.posted = d.labels.posted + min k q.length
  ring : ∀ x : EntryId, (∀ j < k, x ≠ d.labels.post + Fin.ofNat 64 j) → e.labels.ring[x] = d.labels.ring[x]
  granted : ∀ (j : Nat) (n : NestId) (r : UnitRecord) (v : Verdict), j < k → q[j]? = some n →
    (d.nest n).record = some r → r.verdict = some v →
    e.labels.ring[d.labels.post + Fin.ofNat 64 j] = some
      { label := verdictLabel (d.labels.counter + BitVec.ofNat 32 j) n r v
        chain := if r.chainKept = true ∧ r.chain.blocks ≠ [] then some r.chain else none }
    ∧ (e.nest n).state = (if r.partLost = false ∧ actMark v.actions = true then .marking else d.afterUnit n)
    ∧ ClaimsMade d e n (if r.partLost then 0 else v.actions)
    ∧ e.yields.live[n] = counted d.yields.live[n] r.role (if v.cls = .void then none else v.bin)
        (hasFailure r.failures .marginal)
  pool : e.pool = { d.pool with free := d.pool.free ++ (q.take k).flatMap (freedBlocks d) }
  others : ∀ m, m ∉ q → (d.nest m).state.idle → e.nest m = d.nest m
  live : ∀ m : NestId, m ∉ q → e.yields.live[m] = d.yields.live[m]

theorem GrantedAll.none {d : Device} {k : Nat} (hq : d.labels.waitQueue = []) : GrantedAll k [] d (d.grantEntries k) := by
  rw [Device.grantEntries_nobody hq]
  refine ⟨rfl, by rw [hq, List.drop_nil], ?_, ?_, ?_, fun _ _ => rfl, fun j n _ _ _ h => ?_, ?_, fun _ _ _ => rfl,
    fun _ _ => rfl⟩
  · rw [List.length_nil, Nat.min_zero]
    exact (entry_zero _).symm
  · rw [List.length_nil, Nat.min_zero]
    exact (BitVec.add_zero _).symm
  · rw [List.length_nil, Nat.min_zero, Nat.add_zero]
  · rw [List.getElem?_nil] at h
    cases h
  · rw [List.take_nil, List.flatMap_nil, List.append_nil]

theorem GrantedAll.zero (q : List NestId) {d : Device} (hq : d.labels.waitQueue = q) : GrantedAll 0 q d d := by
  refine ⟨rfl, by rw [hq, List.drop_zero], ?_, ?_, ?_, fun _ _ => rfl, fun j n _ _ h => absurd h (Nat.not_lt_zero j), ?_,
    fun _ _ _ => rfl, fun _ _ => rfl⟩
  · rw [Nat.zero_min]
    exact (entry_zero _).symm
  · rw [Nat.zero_min]
    exact (BitVec.add_zero _).symm
  · rw [Nat.zero_min, Nat.add_zero]
  · rw [List.take_zero, List.flatMap_nil, List.append_nil]

theorem number_succ (w : Word32) (j : Nat) : w + 1 + BitVec.ofNat 32 j = w + BitVec.ofNat 32 (j + 1) := by
  rw [BitVec.ofNat_add, BitVec.add_assoc, BitVec.add_comm 1]
  rfl

/-- A grant to the head, before the grants to the rest. -/
theorem GrantedAll.cons {k : Nat} {n : NestId} {q : List NestId} {d d' e : Device} {r : UnitRecord} {v : Verdict}
    (hg : Granted d d' n q r v) (hall : GrantedAll k q d' e) (hn : n ∉ q) (hk : k < 64)
    (hr : (d.nest n).record = some r) (hv : r.verdict = some v)
    (hwait : ∀ m ∈ q, (d.nest m).state = .labelWait) : GrantedAll (k + 1) (n :: q) d e := by
  have hlabels := hg.labels
  have hpost : d'.labels.post = d.labels.post + 1 := by rw [hlabels]; rfl
  have hcounter : d'.labels.counter = d.labels.counter + 1 := by rw [hlabels]; rfl
  have hposted : d'.labels.posted = d.labels.posted + 1 := by rw [hlabels]; rfl
  have hmin : min (k + 1) (q.length + 1) = min k q.length + 1 := by omega
  have hhead : ∀ j < k, d.labels.post ≠ d'.labels.post + Fin.ofNat 64 j := fun j hj h => by
    have h := congrArg Fin.val h
    rw [hpost, entry_succ] at h
    simp only [Fin.add_def, Fin.ofNat_eq_cast, Fin.val_natCast] at h
    omega
  have hsame : ∀ m ∈ q, d'.nest m = d.nest m := fun m hm =>
    hg.others m (fun h => hn (h ▸ hm)) (by rw [hwait m hm]; exact NestState.labelWait_idle)
  have hself : e.nest n = d'.nest n := hall.others n hn hg.idle
  refine ⟨?_, ?_, ?_, ?_, ?_, fun x hx => ?_, fun j m r' v' hj hm hr' hv' => ?_, ?_, fun m hm hidle => ?_,
    fun m hm => ?_⟩
  · rw [hall.ret, hlabels]
    rfl
  · rw [hall.waitQueue, List.drop_succ_cons]
  · rw [hall.post, hpost, entry_succ, List.length_cons, hmin]
  · rw [hall.counter, hcounter, number_succ, List.length_cons, hmin]
  · rw [hall.posted, hposted, List.length_cons, hmin]
    omega
  · have hne : x ≠ d.labels.post := fun h => hx 0 (Nat.succ_pos k) (h.trans (entry_zero d.labels.post).symm)
    rw [hall.ring x fun j hj h => hx (j + 1) (Nat.succ_lt_succ hj) (by rw [h, hpost, entry_succ]), hlabels]
    exact LabelUnit.put_ring_ne _ hne
  · cases j with
    | zero =>
      obtain rfl : n = m := Option.some.inj hm
      obtain rfl : r = r' := Option.some.inj (hr.symm.trans hr')
      obtain rfl : v = v' := Option.some.inj (hv.symm.trans hv')
      refine ⟨?_, by rw [hself]; exact hg.state, ?_, ?_⟩
      · simp only [entry_zero]
        rw [hall.ring _ hhead, hlabels, BitVec.add_zero]
        exact LabelUnit.put_ring_same _ _
      · rw [claimsMade_iff, hself]
        exact hg.claims
      · rw [hall.live n hn, hg.live]
        exact Vector.getElem_set_self _
    | succ j =>
      have hm : q[j]? = some m := hm
      have hmem := List.mem_of_getElem? hm
      have hnm : n.val ≠ m.val := fun h => hn (Fin.ext h ▸ hmem)
      obtain ⟨hentry, hstate, hclaims, hlive⟩ := hall.granted j m r' v' (Nat.lt_of_succ_lt_succ hj) hm
        (by rw [hsame m hmem]; exact hr') hv'
      have hlive' : d'.yields.live[m] = d.yields.live[m] := by
        rw [hg.live]
        exact Vector.getElem_set_ne _ _ hnm
      rw [hcounter, number_succ] at hentry
      simp only [hpost, entry_succ] at hentry
      rw [Device.afterUnit_congr hg.fixture (by rw [hsame m hmem])] at hstate
      rw [claimsMade_iff, hsame m hmem] at hclaims
      rw [hlive'] at hlive
      exact ⟨hentry, hstate, hclaims, hlive⟩
  · have hfreed : (q.take k).flatMap (freedBlocks d') = (q.take k).flatMap (freedBlocks d) :=
      List.flatMap_congr fun m hm => by rw [freedBlocks, hsame m (List.mem_of_mem_take hm)]; rfl
    have hown : freedBlocks d n = if r.chainKept then [] else r.chain.blocks := by
      rw [freedBlocks, hr]
      rfl
    rw [hall.pool, hg.pool, hfreed, List.take_succ_cons, List.flatMap_cons, hown, List.append_assoc]
  · obtain ⟨hmn, hmq⟩ := not_or.mp (List.mem_cons.not.mp hm)
    have hd' := hg.others m hmn hidle
    rw [hall.others m hmq (by rw [hd']; exact hidle), hd']
  · obtain ⟨hmn, hmq⟩ := not_or.mp (List.mem_cons.not.mp hm)
    rw [hall.live m hmq, hg.live]
    exact Vector.getElem_set_ne _ _ fun h => hmn (Fin.ext h.symm)

theorem Device.grantEntries_granted (k : Nat) : ∀ {d : Device} {q : List NestId}, d.labels.waitQueue = q → q.Nodup →
    d.labels.posted + k ≤ 64 → (∀ n ∈ q, (d.nest n).state = .labelWait) →
    (∀ n ∈ q, ∃ r v, (d.nest n).record = some r ∧ r.verdict = some v) → GrantedAll k q d (d.grantEntries k) := by
  induction k with
  | zero => exact fun hq _ _ _ _ => .zero _ hq
  | succ k ih =>
    intro d q hq hnodup hroom hwait hverdict
    cases q with
    | nil => exact .none hq
    | cons n rest =>
      obtain ⟨r, v, hr, hv⟩ := hverdict n List.mem_cons_self
      obtain ⟨hn, hnodup⟩ := List.nodup_cons.mp hnodup
      have hg := Device.grantEntry_granted hq (by omega) hr hv
      have hlabels := hg.labels
      have hwait' : ∀ m ∈ rest, (d.nest m).state = .labelWait := fun m hm => hwait m (List.mem_cons_of_mem _ hm)
      have hsame : ∀ m ∈ rest, d.grantEntry.nest m = d.nest m := fun m hm =>
        hg.others m (fun h => hn (h ▸ hm)) (by rw [hwait' m hm]; exact NestState.labelWait_idle)
      have hposted : d.grantEntry.labels.posted = d.labels.posted + 1 := by rw [hlabels]; rfl
      have hall := ih (d := d.grantEntry) (q := rest) (by rw [hlabels]; rfl) hnodup (by rw [hposted]; omega)
        (fun m hm => by rw [hsame m hm]; exact hwait' m hm)
        (fun m hm => by rw [hsame m hm]; exact hverdict m (List.mem_cons_of_mem _ hm))
      exact GrantedAll.cons hg hall hn (by omega) hr hv hwait'

end Sys2Proof.Machine

namespace Sys2Proof.Machine

/-! ## RING RETURN (O40) -/

section
variable {d : Device} {k : Nat}

theorem Device.returnEntries_nest (n : NestId) : (d.returnEntries k).nest n = d.nest n := by
  obtain ⟨_, _, _, _, _, hframe⟩ := d.returnEntries_pointers k
  rw [hframe]
  rfl

theorem Device.returnEntries_yields : (d.returnEntries k).yields = d.yields := by
  obtain ⟨_, _, _, _, _, hframe⟩ := d.returnEntries_pointers k
  rw [hframe]

theorem Device.returnEntries_fixture : (d.returnEntries k).fixture = d.fixture := by
  obtain ⟨_, _, _, _, _, hframe⟩ := d.returnEntries_pointers k
  rw [hframe]

/-- The grants that follow a return stand as grants from the device before it, whose nests the return leaves alone. -/
theorem Device.returnEntries_grants (hk : k ≤ d.labels.posted) (hposted : d.labels.posted ≤ 64) (hkept : UnitsKept d)
    (hverdict : ∀ n ∈ d.labels.waitQueue, ∃ r v, (d.nest n).record = some r ∧ r.verdict = some v) :
    GrantedAll k d.labels.waitQueue (d.returnEntries k) (Device.grantEntries k (d.returnEntries k)) := by
  obtain ⟨_, _, hnodup, hwait⟩ := hkept
  obtain ⟨_, hcount, _, _, hqueue, _⟩ := d.returnEntries_pointers k
  refine Device.grantEntries_granted k hqueue hnodup (by omega) (fun n hn => ?_) (fun n hn => ?_)
  · rw [Device.returnEntries_nest]
    exact hwait n hn
  · rw [Device.returnEntries_nest]
    exact hverdict n hn

end

theorem Device.spanTo_le_posted {u : LabelUnit} {i : EntryId} (hu : u.Contiguous) (hi : u.ring[i].isSome = true) :
    (i - u.ret).val + 1 ≤ u.posted := by
  obtain ⟨_, _, hring, _⟩ := hu
  rw [hring i] at hi
  exact of_decide_eq_true hi

theorem entry_after (x i : EntryId) : x + Fin.ofNat 64 ((i - x).val + 1) = i + 1 := by
  apply Fin.ext
  simp only [Fin.add_def, Fin.sub_def, Fin.ofNat_eq_cast, Fin.val_natCast]
  change (x.val + ((64 - x.val + i.val) % 64 + 1) % 64) % 64 = (i.val + 1) % 64
  omega

/-- The freed entries, where the waiting labels go, are not among the posted ones (R100). -/
theorem LabelUnit.Contiguous.kept_ne {u : LabelUnit} (hu : u.Contiguous) {k j : Nat} {x : EntryId}
    (hk : k ≤ (x - u.ret).val) (hx : (x - u.ret).val < u.posted) (hj : j < k) : x ≠ u.post + Fin.ofNat 64 j := by
  obtain ⟨_, hpost, _, _⟩ := hu
  intro h
  have h := congrArg Fin.val h
  rw [hpost] at h
  simp only [Fin.add_def, Fin.sub_def, Fin.ofNat_eq_cast, Fin.val_natCast] at h hk hx
  omega

theorem exec_ringReturn {s : State} {tag : Byte} {i : EntryId} (hs : s.Heads 0x0B tag [BitVec.ofNat 8 i.val])
    (hring : s.dev.labels.ring[i].isSome = true) {k : Nat} (hk : k = (i - s.dev.labels.ret).val + 1) :
    exec (.ringReturn tag (BitVec.ofNat 8 i.val)) s
      = .next (s.repliedWith 0x0B tag .ok (.returned k) (Device.grantEntries k (s.dev.returnEntries k))) := by
  have hnone : s.dev.labels.ring[i].isNone = false := by
    rw [Option.isNone_eq_false_iff]
    exact hring
  rw [exec_command rfl hs (show 1 ∈ bodyLengths 11 by decide) (decide_eq_true rfl), entryOf_ofNat]
  simp only [hnone, Bool.false_eq_true, if_false, State.answered_ok]
  rw [hk]
  rfl

theorem exec_ringReturn_free {s : State} {tag : Byte} {i : EntryId} (hs : s.Heads 0x0B tag [BitVec.ofNat 8 i.val])
    (hring : s.dev.labels.ring[i] = none) :
    exec (.ringReturn tag (BitVec.ofNat 8 i.val)) s = .next (s.repliedWith 0x0B tag .badField .none s.dev) := by
  rw [exec_command rfl hs (show 1 ∈ bodyLengths 11 by decide) (decide_eq_true rfl), entryOf_ofNat]
  simp only [hring, Option.isNone_none, if_true, State.answered_refuse]

/-- Settles O40. -/
theorem ringReturnFrees : Obligations.RingReturnFrees := by
  intro s tag i k hs hu hkept hk hverdict
  refine ⟨fun hring => ⟨_, exec_ringReturn hs hring hk, ?_⟩, exec_ringReturn_free hs⟩
  have hle : k ≤ s.dev.labels.posted := hk ▸ Device.spanTo_le_posted hu hring
  have hposted : s.dev.labels.posted ≤ 64 := hu.1
  have hall := Device.returnEntries_grants hle hposted hkept hverdict
  obtain ⟨hret, hcount, hpost, hcounter, hqueue, hframe⟩ := s.dev.returnEntries_pointers k
  have hreturned := Device.returnEntries_ring (d := s.dev) k (by omega)
  refine ⟨?_, hall.waitQueue, ?_, ?_, ?_, fun x hx hx' => ?_, fun j n r v hj hn hr hv => ?_, ?_, fun hempty => ⟨fun x => ?_, ?_⟩⟩
  · rw [hall.ret, hret, hk, entry_after]
  · rw [hall.post, hpost]
  · rw [hall.counter, hcounter]
  · rw [hall.posted, hcount]
    omega
  · rw [hall.ring x fun j hj => by rw [hpost]; exact hu.kept_ne hx hx' hj, hreturned x, if_neg (by omega)]
  · obtain ⟨hentry, hstate, hclaims, hlive⟩ := hall.granted j n r v hj hn (by rw [Device.returnEntries_nest]; exact hr) hv
    simp only [hpost, hcounter] at hentry
    rw [Device.afterUnit_congr Device.returnEntries_fixture (by rw [Device.returnEntries_nest])] at hstate
    rw [claimsMade_iff, Device.returnEntries_nest] at hclaims
    simp only [Device.returnEntries_yields] at hlive
    exact ⟨hentry, hstate, hclaims, hlive⟩
  · have hfreed : freedBlocks (s.dev.returnEntries k) = freedBlocks s.dev :=
      funext fun n => by rw [freedBlocks, Device.returnEntries_nest]; rfl
    rw [hall.pool, hfreed, Device.returnEntries_pool k (by omega)]
    rfl
  · rw [Device.grantEntries_nobody (hqueue.trans hempty), hreturned x, hk]
    exact if_congr Nat.lt_succ_iff rfl rfl
  · rw [Device.grantEntries_nobody (hqueue.trans hempty)]
    exact hframe

end Sys2Proof.Machine

namespace Sys2Proof.Machine

/-! ## What the posting of a label does to the calibration store and the notices (R101, R120, R192) -/

/-- A label stands in the ring and is counted. -/
def Device.labelled (d : Device) (n : NestId) (l : Label) (chain : Option Chain) : Device :=
  { d with labels := d.labels.put { label := l, chain := chain } }.count n fun c => c.countLabel l

/-- The label has entered the drift window of its nest, where it is of a PRODUCTION unit (R120). -/
def Device.drifted (d : Device) (n : NestId) (l : Label) (chain : Option Chain) : Device :=
  if l.role = .production then (d.labelled n l chain).enterDrift n (hasFailure l.failures .marginal)
  else d.labelled n l chain

theorem Device.postLabel_eq (d : Device) (n : NestId) (l : Label) (chain : Option Chain) :
    d.postLabel n l chain
      = { d.drifted n l chain with notices := (d.drifted n l chain).notices.countPosting }.addHistory n .labelled :=
  rfl

theorem Device.postLabel_calibration (d : Device) (n : NestId) (l : Label) (chain : Option Chain) :
    (d.postLabel n l chain).calibration = (d.drifted n l chain).calibration := by
  rw [Device.postLabel_eq, Device.addHistory_eq]
  rfl

theorem Device.postLabel_notices (d : Device) (n : NestId) (l : Label) (chain : Option Chain) :
    (d.postLabel n l chain).notices = (d.drifted n l chain).notices.countPosting := by
  rw [Device.postLabel_eq, Device.addHistory_eq]
  rfl

/-- The notices agree but for BANK. -/
structure SameButBank (a b : NoticeArbiter) : Prop where
  labelsPosted : b.labelsPosted = a.labelsPosted
  timer : b.timer = a.timer
  calCause : b.calCause = a.calCause
  pending : ∀ i, i ≠ bankSource → b.pending[i] = a.pending[i]

theorem Device.unpin_notices (d : Device) (b : BankId) : SameButBank d.notices (d.unpin b).notices := by
  simp only [Device.unpin]
  split
  · exact ⟨rfl, rfl, rfl, fun i hi => NoticeArbiter.raise_pending_ne _ hi⟩
  · exact ⟨rfl, rfl, rfl, fun _ _ => rfl⟩

theorem Device.endInTest_notices (d : Device) (n : NestId) (r : UnitRecord) :
    SameButBank d.notices (d.endInTest n r).notices := by
  rw [Device.endInTest, ((d.unpin r.bank).leaveArbiter_startsOnly n).frame]
  exact d.unpin_notices r.bank

theorem Device.endInTest_calibration (d : Device) (n : NestId) (r : UnitRecord) :
    (d.endInTest n r).calibration = d.calibration := by
  rw [(d.endInTest_spec n r).frame]

theorem Device.postVerdict_calibration (d : Device) (n : NestId) (r : UnitRecord) (v : Verdict) :
    (d.postVerdict n r v).calibration
      = (d.drifted n (verdictLabel d.labels.counter n r v) r.attached).calibration := by
  rw [Device.postVerdict_eq, Device.modRecord_eq, ← Device.postLabel_calibration]
  change (d.postedVerdict n r v).calibration = _
  rw [Device.postedVerdict, Device.endInTest_calibration]
  split <;> rfl

theorem Device.postVerdict_notices (d : Device) (n : NestId) (r : UnitRecord) (v : Verdict) :
    SameButBank (d.drifted n (verdictLabel d.labels.counter n r v) r.attached).notices.countPosting
      (d.postVerdict n r v).notices := by
  have hpost : (if r.chainKept then d.postLabel n (verdictLabel d.labels.counter n r v) r.attached
      else (d.postLabel n (verdictLabel d.labels.counter n r v) r.attached).freeChain r.chain).notices
      = (d.drifted n (verdictLabel d.labels.counter n r v) r.attached).notices.countPosting := by
    rw [← Device.postLabel_notices]
    split <;> rfl
  rw [Device.postVerdict_eq, Device.modRecord_eq, ← hpost]
  exact Device.endInTest_notices _ n r

/-! ## The final verdict of a judged unit (R17, R93 to R96, R101, R105) -/

/-- The verdict, the capture decision and CAL_STALE are written in the record (R93, R94, R131). -/
def UnitRecord.decided (r : UnitRecord) (v : Verdict) (kept stale : Bool) : UnitRecord :=
  { r with verdict := some v, chainKept := kept, calStale := stale }

/-- A judged nest with the Judge's results in its record, and the calibration store and the notices as the judging
leaves them. -/
def Device.judged (d : Device) (n : NestId) (r : UnitRecord) (c : CalibrationStore) (a : NoticeArbiter) : Device :=
  { d.setNest n { d.nest n with history := addEvent (d.nest n).history .judged, record := some r } with
    calibration := c, notices := a }

/-- The part after the final verdict of a judged unit has been posted. -/
structure FinalPosted (d e : Device) (n : NestId) (r : UnitRecord) (v : Verdict) (kept stale : Bool) : Prop where
  ring : e.labels.ring[d.labels.post] = some
    { label := verdictLabel d.labels.counter n (r.decided v kept stale) v
      chain := if kept = true ∧ r.chain.blocks ≠ [] then some r.chain else none }
  posted : e.labels.posted = d.labels.posted + 1
  counter : e.labels.counter = d.labels.counter + 1
  pool : e.pool = if kept then d.pool else { d.pool with free := d.pool.free ++ r.chain.blocks }
  pins : (e.tables.bank r.bank).pins = (d.tables.bank r.bank).pins - 1
  yields : e.yields = { d.yields with live := d.yields.live.set n (counted d.yields.live[n] r.role
    (if v.cls = .void then none else v.bin) (hasFailure r.failures .marginal)) }
  history : (e.nest n).history = addEvent (addEvent (d.nest n).history .judged) .labelled
  state : (e.nest n).state = if actMark v.actions then .marking else d.afterUnit n
  claims : ClaimsMade d e n v.actions

/-- The part after the final verdict of a judged unit has found no free ring entry. -/
structure FinalWaits (d e : Device) (n : NestId) (r : UnitRecord) (v : Verdict) (kept stale : Bool) : Prop where
  state : (e.nest n).state = .labelWait
  record : (e.nest n).record = some (r.decided v kept stale)
  history : (e.nest n).history = addEvent (d.nest n).history .judged
  labels : e.labels = { d.labels with waitQueue := d.labels.waitQueue ++ [n] }
  tables : e.tables = d.tables
  yields : e.yields = d.yields
  pool : e.pool = d.pool

section
variable {d : Device} {n : NestId} {r : UnitRecord} {v : Verdict} {stale : Bool} {c : CalibrationStore}
  {a : NoticeArbiter}

theorem Device.judged_nest : (d.judged n r c a).nest n
    = { d.nest n with history := addEvent (d.nest n).history .judged, record := some r } :=
  Device.nest_setNest_same d n _

theorem Device.judged_judged (q : UnitRecord) :
    ((d.judged n r c a).modRecord n fun _ => q) = d.judged n q c a := by
  rw [Device.modRecord_eq, Device.judged_nest]
  exact congrArg (fun e : Device => { e with calibration := c, notices := a }) (Device.setNest_setNest d n _ _)

theorem Device.finalVerdict_of_free (hf : d.labels.posted < 64) {kept : Bool}
    (hk : kept = captureKept v.override (d.planOf r).header.capturePolicy v.cls) :
    (d.judged n r c a).finalVerdict n v stale
      = ((d.judged n (r.decided v kept stale) c a).postVerdict n (r.decided v kept stale) v).enterMarking n v := by
  have hrec : ((d.judged n r c a).nest n).record = some r := by rw [Device.judged_nest]
  have hfree : (d.judged n (r.decided v kept stale) c a).labels.hasFree = true := decide_eq_true hf
  have hdecided := Device.judged_judged (d := d) (n := n) (r := r) (c := c) (a := a) (r.decided v kept stale)
  have hplan : (d.judged n r c a).planOf r = d.planOf r := rfl
  have hwrite : ({ r with verdict := some v, chainKept := kept, calStale := stale } : UnitRecord)
    = r.decided v kept stale := rfl
  simp only [Device.finalVerdict, hrec, hplan, ← hk, hwrite, hdecided]
  exact if_pos hfree

theorem Device.finalVerdict_of_full (hf : 64 ≤ d.labels.posted) {kept : Bool}
    (hk : kept = captureKept v.override (d.planOf r).header.capturePolicy v.cls) :
    (d.judged n r c a).finalVerdict n v stale
      = let e := { d.judged n (r.decided v kept stale) c a with
          labels := { d.labels with waitQueue := d.labels.waitQueue ++ [n] } }.setState n .labelWait
        if d.labels.waitQueue.isEmpty then e.raise ringFullSource else e := by
  have hrec : ((d.judged n r c a).nest n).record = some r := by rw [Device.judged_nest]
  have hfree : ¬ (d.judged n (r.decided v kept stale) c a).labels.hasFree = true :=
    fun h => absurd (of_decide_eq_true h) (Nat.not_lt.mpr hf)
  have hdecided := Device.judged_judged (d := d) (n := n) (r := r) (c := c) (a := a) (r.decided v kept stale)
  have hplan : (d.judged n r c a).planOf r = d.planOf r := rfl
  have hwrite : ({ r with verdict := some v, chainKept := kept, calStale := stale } : UnitRecord)
    = r.decided v kept stale := rfl
  simp only [Device.finalVerdict, hrec, hplan, ← hk, hwrite, hdecided]
  exact if_neg hfree

end

end Sys2Proof.Machine

namespace Sys2Proof.Machine

section
variable {d : Device} {n : NestId} {r : UnitRecord} {v : Verdict} {kept stale : Bool} {c : CalibrationStore}
  {a : NoticeArbiter}

theorem Device.judged_afterUnit (m : NestId) : (d.judged n r c a).afterUnit m = d.afterUnit m := by
  refine Device.afterUnit_congr rfl ?_
  by_cases h : m = n
  · subst h
    rw [Device.judged_nest]
  · exact congrArg Nest.loopback (Device.nest_setNest_ne d _ h)

theorem Device.judged_claims {x : Nest} (h : ClaimsOf ((d.judged n r c a).nest n) x v.actions) :
    ClaimsOf (d.nest n) x v.actions := by
  rw [Device.judged_nest] at h
  exact h

/-- What the posting of a decided verdict leaves, before MARKING (R101). -/
theorem Device.judged_posted (q : UnitRecord) (hq : q = r.decided v kept stale) {P : Device}
    (hp : VerdictPosted (d.judged n q c a) P n q v) :
    P.labels = d.labels.put
      { label := verdictLabel d.labels.counter n q v
        chain := if kept = true ∧ r.chain.blocks ≠ [] then some r.chain else none }
    ∧ P.pool = (if kept then d.pool else { d.pool with free := d.pool.free ++ r.chain.blocks })
    ∧ (P.tables.bank r.bank).pins = (d.tables.bank r.bank).pins - 1
    ∧ P.yields = { d.yields with live := d.yields.live.set n (counted d.yields.live[n] r.role
        (if v.cls = .void then none else v.bin) (hasFailure r.failures .marginal)) }
    ∧ ∃ p, P.nest n = { (d.judged n q c a).nest n with
        history := addEvent ((d.judged n q c a).nest n).history .labelled, record := p } := by
  subst hq
  have hattached := (r.decided v kept stale).attached_eq
  have hyields := hp.yields
  rw [Counters.countLabel_eq] at hyields
  refine ⟨?_, hp.pool, hp.pins, hyields, hp.self⟩
  exact hp.labels.trans (congrArg (fun x => d.labels.put { label := _, chain := x }) hattached)

theorem Device.finalVerdict_posts (hf : d.labels.posted < 64)
    (hk : kept = captureKept v.override (d.planOf r).header.capturePolicy v.cls) :
    FinalPosted d ((d.judged n r c a).finalVerdict n v stale) n r v kept stale := by
  rw [Device.finalVerdict_of_free hf hk]
  obtain ⟨hlabels, hpool, hpins, hyields, p, hself⟩ :=
    Device.judged_posted (d := d) (r := r) (c := c) (a := a) (n := n) _ rfl
      ((d.judged n (r.decided v kept stale) c a).postVerdict_spec n (r.decided v kept stale) v)
  have hafter := (d.judged n (r.decided v kept stale) c a).postVerdict_afterUnit n (r.decided v kept stale) v
  generalize (d.judged n (r.decided v kept stale) c a).postVerdict n (r.decided v kept stale) v = P at *
  obtain ⟨y, hy, hstate, hhist, hclaims⟩ := P.enterMarking_claims n v
  rw [hy]
  have hlabels' : (P.setNest n y).labels = _ := hlabels
  refine ⟨?_, by rw [hlabels']; rfl, by rw [hlabels']; rfl, hpool, hpins, hyields, ?_, ?_, ?_⟩
  · rw [hlabels']
    exact LabelUnit.put_ring_same _ _
  · rw [Device.nest_setNest_same, hhist, hself, Device.judged_nest]
  · rw [Device.nest_setNest_same, hstate, hafter, Device.judged_afterUnit]
  · rw [claimsMade_iff, Device.nest_setNest_same]
    rw [hself] at hclaims
    exact Device.judged_claims hclaims

theorem Device.finalVerdict_posts_calibration (hf : d.labels.posted < 64)
    (hk : kept = captureKept v.override (d.planOf r).header.capturePolicy v.cls) :
    ((d.judged n r c a).finalVerdict n v stale).calibration
      = ((d.judged n (r.decided v kept stale) c a).drifted n
          (verdictLabel d.labels.counter n (r.decided v kept stale) v) (r.decided v kept stale).attached).calibration := by
  rw [Device.finalVerdict_of_free hf hk]
  have hcal := (d.judged n (r.decided v kept stale) c a).postVerdict_calibration n (r.decided v kept stale) v
  generalize (d.judged n (r.decided v kept stale) c a).postVerdict n (r.decided v kept stale) v = P at *
  obtain ⟨y, hy, -⟩ := P.enterMarking_claims n v
  rw [hy]
  exact hcal

theorem Device.finalVerdict_posts_notices (hf : d.labels.posted < 64)
    (hk : kept = captureKept v.override (d.planOf r).header.capturePolicy v.cls) :
    SameButBank ((d.judged n (r.decided v kept stale) c a).drifted n
        (verdictLabel d.labels.counter n (r.decided v kept stale) v)
        (r.decided v kept stale).attached).notices.countPosting
      ((d.judged n r c a).finalVerdict n v stale).notices := by
  rw [Device.finalVerdict_of_free hf hk]
  have hnotices := (d.judged n (r.decided v kept stale) c a).postVerdict_notices n (r.decided v kept stale) v
  generalize (d.judged n (r.decided v kept stale) c a).postVerdict n (r.decided v kept stale) v = P at *
  obtain ⟨y, hy, -⟩ := P.enterMarking_claims n v
  rw [hy]
  exact hnotices

/-- The part before RING_FULL, where a judged unit joins the Ring Wait Queue (R105). -/
def Device.joinsQueue (d : Device) (n : NestId) (q : UnitRecord) (c : CalibrationStore) (a : NoticeArbiter) : Device :=
  { d.judged n q c a with labels := { d.labels with waitQueue := d.labels.waitQueue ++ [n] } }.setState n .labelWait

theorem Device.joinsQueue_nest (q : UnitRecord) : (d.joinsQueue n q c a).nest n
    = { d.nest n with history := addEvent (d.nest n).history .judged, record := some q, state := .labelWait } := by
  rw [Device.joinsQueue, Device.setState, Device.modNest_eq, Device.nest_setNest_same]
  exact congrArg (fun x : Nest => { x with state := NestState.labelWait }) (Device.judged_nest (c := c) (a := a))

theorem Device.finalVerdict_joins (hf : 64 ≤ d.labels.posted)
    (hk : kept = captureKept v.override (d.planOf r).header.capturePolicy v.cls) :
    (d.judged n r c a).finalVerdict n v stale = { d.joinsQueue n (r.decided v kept stale) c a with
      notices := if d.labels.waitQueue = [] then a.raise ringFullSource else a } := by
  rw [Device.finalVerdict_of_full hf hk]
  cases hq : d.labels.waitQueue with
  | nil => simp only [Device.joinsQueue, hq]; rfl
  | cons m l => simp only [Device.joinsQueue, hq]; rfl

theorem Device.finalVerdict_waits (hf : 64 ≤ d.labels.posted)
    (hk : kept = captureKept v.override (d.planOf r).header.capturePolicy v.cls) :
    FinalWaits d ((d.judged n r c a).finalVerdict n v stale) n r v kept stale := by
  rw [Device.finalVerdict_joins hf hk]
  have hnest := Device.joinsQueue_nest (d := d) (n := n) (c := c) (a := a) (r.decided v kept stale)
  exact ⟨congrArg Nest.state hnest, congrArg Nest.record hnest, congrArg Nest.history hnest, rfl, rfl, rfl, rfl⟩

end

end Sys2Proof.Machine

namespace Sys2Proof.Machine

/-! ## The drift window (R120, R121) -/

/-- The store after the demotion of the plans of `l` that `demoted` names. -/
def CalibrationStore.demote (n : NestId) (demoted : PlanId → Bool) (c : CalibrationStore) (l : List PlanId) :
    CalibrationStore :=
  l.foldl (fun c p => if demoted p then c.setRecord n p { c.record n p with state := .due } else c) c

section
variable {n : NestId} {demoted : PlanId → Bool}

theorem CalibrationStore.demote_cons (c : CalibrationStore) (p : PlanId) (l : List PlanId) :
    c.demote n demoted (p :: l)
      = (if demoted p then c.setRecord n p { c.record n p with state := .due } else c).demote n demoted l := rfl

theorem CalibrationStore.demote_drift (l : List PlanId) : ∀ c : CalibrationStore,
    (c.demote n demoted l).drift = c.drift := by
  induction l with
  | nil => exact fun _ => rfl
  | cons p l ih =>
    intro c
    rw [CalibrationStore.demote_cons, ih]
    split
    · exact CalibrationStore.setRecord_drift c n p _
    · rfl

theorem CalibrationStore.demote_record_ne {m : NestId} (hm : m ≠ n) (q : PlanId) (l : List PlanId) :
    ∀ c : CalibrationStore, (c.demote n demoted l).record m q = c.record m q := by
  induction l with
  | nil => exact fun _ => rfl
  | cons p l ih =>
    intro c
    rw [CalibrationStore.demote_cons, ih]
    split
    · exact CalibrationStore.record_setRecord_ne _ _ fun h => hm (congrArg Prod.fst h)
    · rfl

theorem CalibrationStore.demote_record (q : PlanId) (l : List PlanId) : ∀ c : CalibrationStore,
    (c.demote n demoted l).record n q
      = if q ∈ l ∧ demoted q = true then { c.record n q with state := .due } else c.record n q := by
  induction l with
  | nil => exact fun c => (if_neg fun h => absurd h.1 List.not_mem_nil).symm
  | cons p l ih =>
    intro c
    rw [CalibrationStore.demote_cons, ih]
    by_cases hp : demoted p = true
    · rw [if_pos hp]
      by_cases hq : q = p
      · subst hq
        rw [CalibrationStore.record_setRecord_same]
        simp [hp]
      · have hrec := c.record_setRecord_ne (n := n) (p := p) (m := n) (q := q) { c.record n p with state := .due }
          fun h => hq (congrArg Prod.snd h)
        simp [hrec, hq]
    · rw [if_neg hp]
      by_cases hq : q = p
      · subst hq
        simp [hp]
      · simp [hq]

end

/-- The plans that a drift demotes (R121). -/
def Device.demotes (d : Device) (n : NestId) (p : PlanId) : Bool :=
  decide ((d.calibration.record n p).state = .ok) && d.activeReferenceValid p

theorem Device.demotes_iff (d : Device) (n : NestId) (p : PlanId) : d.demotes n p = true
    ↔ (d.calibration.record n p).state = .ok ∧ d.activeReferenceValid p = true := by
  simp only [Device.demotes, Bool.and_eq_true, decide_eq_true_eq]

theorem Device.demoteRecords_eq (d : Device) (n : NestId) : d.demoteRecords n
    = if (List.finRange 8).any (d.demotes n) then
        { d with calibration := d.calibration.demote n (d.demotes n) (List.finRange 8) }.raiseCal n .drift none
      else { d with calibration := d.calibration.demote n (d.demotes n) (List.finRange 8) } := rfl

theorem Device.demoteRecords_calibration (d : Device) (n : NestId) :
    (d.demoteRecords n).calibration = d.calibration.demote n (d.demotes n) (List.finRange 8) := by
  rw [Device.demoteRecords_eq]
  split <;> rfl

/-- What the posting count and the coalescing of labels read of the notices (R192). -/
structure SameLabels (a b : NoticeArbiter) : Prop where
  labelsPosted : b.labelsPosted = a.labelsPosted
  timer : b.timer = a.timer
  count : b.coalescingCount = a.coalescingCount
  pending : b.pending[labelsSource] = a.pending[labelsSource]

theorem SameLabels.refl (a : NoticeArbiter) : SameLabels a a := ⟨rfl, rfl, rfl, rfl⟩

theorem Device.demoteRecords_labels (d : Device) (n : NestId) : SameLabels d.notices (d.demoteRecords n).notices := by
  have hne : labelsSource ≠ calSource n := fun h => by
    have h := congrArg Fin.val h
    simp only [labelsSource, calSource] at h
    change 12 = _ at h
    omega
  rw [Device.demoteRecords_eq]
  split
  · exact ⟨rfl, rfl, rfl, NoticeArbiter.raise_pending_ne _ hne⟩
  · exact .refl _

theorem Device.demoteRecords_raised {d : Device} {n : NestId} (h : ∃ q, d.demotes n q = true) :
    (d.demoteRecords n).notices.pending[calSource n] = true
    ∧ (d.demoteRecords n).notices.calCause[n] = some (.drift, none) := by
  have hany : (List.finRange 8).any (d.demotes n) = true := by
    obtain ⟨q, hq⟩ := h
    exact List.any_eq_true.mpr ⟨q, List.mem_finRange q, hq⟩
  rw [Device.demoteRecords_eq, if_pos hany]
  exact ⟨NoticeArbiter.raise_pending_same _ _, Vector.getElem_set_self _⟩

/-- What a PRODUCTION label does to the drift window `w` of its nest, its marginal labels now `marginals` (R120, R121).
-/
structure DriftEntered (d e : Device) (n : NestId) (w : DriftWindow) (marginals : Nat) : Prop where
  others : ∀ m : NestId, m ≠ n → e.calibration.drift[m] = d.calibration.drift[m]
    ∧ ∀ q, e.calibration.record m q = d.calibration.record m q
  counts : w.labels + 1 < w.length → e.calibration.drift[n] = { w with labels := w.labels + 1, marginals := marginals }
  restarts : w.length ≤ w.labels + 1 → e.calibration.drift[n] = { w with labels := 0, marginals := 0 }
  stands : w.labels + 1 < w.length ∨ marginals < w.limit →
    e.calibration.records = d.calibration.records ∧ e.notices = d.notices
  demotes : w.length ≤ w.labels + 1 → w.limit ≤ marginals →
    (∀ q, e.calibration.record n q = if (d.calibration.record n q).state = .ok ∧ d.activeReferenceValid q = true then
        { d.calibration.record n q with state := .due } else d.calibration.record n q)
    ∧ ((∃ q, (d.calibration.record n q).state = .ok ∧ d.activeReferenceValid q = true) →
        e.notices.pending[calSource n] = true ∧ e.notices.calCause[n] = some (.drift, none))
  labels : SameLabels d.notices e.notices

/-- The drift window of a nest is replaced. -/
def Device.withDrift (d : Device) (n : NestId) (x : DriftWindow) : Device :=
  { d with calibration := { d.calibration with drift := d.calibration.drift.set n x } }

theorem Device.withDrift_same (d : Device) (n : NestId) (x : DriftWindow) :
    (d.withDrift n x).calibration.drift[n] = x := Vector.getElem_set_self _

theorem Device.withDrift_ne (d : Device) {n m : NestId} (x : DriftWindow) (h : m ≠ n) :
    (d.withDrift n x).calibration.drift[m] = d.calibration.drift[m] :=
  Vector.getElem_set_ne n.isLt m.isLt fun e => h (Fin.ext e.symm)

theorem Device.enterDrift_eq (d : Device) (n : NestId) (marginal : Bool) {w : DriftWindow} {marginals : Nat}
    (hw : d.calibration.drift[n] = w) (hm : marginals = if marginal then w.marginals + 1 else w.marginals) :
    d.enterDrift n marginal = if w.labels + 1 < w.length then
        d.withDrift n { w with labels := w.labels + 1, marginals := marginals }
      else if w.limit ≤ marginals then (d.withDrift n { w with labels := 0, marginals := 0 }).demoteRecords n
      else d.withDrift n { w with labels := 0, marginals := 0 } := by
  subst hw hm
  rfl

theorem Device.demotes_withDrift (d : Device) (n : NestId) (x : DriftWindow) : (d.withDrift n x).demotes n = d.demotes n :=
  rfl

theorem Device.enterDrift_spec (d : Device) (n : NestId) (marginal : Bool) {w : DriftWindow} {marginals : Nat}
    (hw : d.calibration.drift[n] = w) (hm : marginals = if marginal then w.marginals + 1 else w.marginals) :
    DriftEntered d (d.enterDrift n marginal) n w marginals := by
  rw [d.enterDrift_eq n marginal hw hm]
  by_cases hlength : w.labels + 1 < w.length
  · rw [if_pos hlength]
    exact ⟨fun m hm => ⟨d.withDrift_ne _ hm, fun _ => rfl⟩, fun _ => d.withDrift_same n _,
      fun h => absurd hlength (Nat.not_lt.mpr h), fun _ => ⟨rfl, rfl⟩, fun h => absurd hlength (Nat.not_lt.mpr h), .refl _⟩
  · rw [if_neg hlength]
    by_cases hlimit : w.limit ≤ marginals
    · rw [if_pos hlimit]
      have hcal := (d.withDrift n { w with labels := 0, marginals := 0 }).demoteRecords_calibration n
      refine ⟨fun m hm => ⟨?_, fun q => ?_⟩, fun h => absurd h hlength, fun _ => ?_, fun h => ?_, fun _ _ => ⟨fun q => ?_, ?_⟩,
        (d.withDrift n _).demoteRecords_labels n⟩
      · simp only [hcal, CalibrationStore.demote_drift]
        exact d.withDrift_ne _ hm
      · rw [hcal, CalibrationStore.demote_record_ne hm]
        rfl
      · simp only [hcal, CalibrationStore.demote_drift]
        exact d.withDrift_same n _
      · rcases h with h | h
        · exact absurd h hlength
        · exact absurd hlimit (Nat.not_le.mpr h)
      · rw [hcal, CalibrationStore.demote_record, Device.demotes_withDrift]
        refine if_congr ?_ rfl rfl
        rw [← Device.demotes_iff]
        exact and_iff_right (List.mem_finRange q)
      · rintro ⟨q, hq⟩
        exact Device.demoteRecords_raised ⟨q, (d.demotes_iff n q).mpr hq⟩
    · rw [if_neg hlimit]
      exact ⟨fun m hm => ⟨d.withDrift_ne _ hm, fun _ => rfl⟩, fun h => absurd h hlength, fun _ => d.withDrift_same n _,
        fun _ => ⟨rfl, rfl⟩, fun _ h => absurd h hlimit, .refl _⟩

/-! ## The posting count (R192) -/

/-- What a posting does to the notices. -/
structure PostingCounted (a b : NoticeArbiter) : Prop where
  labelsPosted : a.labelsPosted ≠ 0xFFFFFFFF → b.labelsPosted = a.labelsPosted + 1
  timer : b.timer = if a.labelsPosted = 0 then some 0 else a.timer
  pending : b.pending[labelsSource]
    = (a.pending[labelsSource] || decide (a.coalescingCount ≤ b.labelsPosted.toNat))
  calCause : b.calCause = a.calCause
  others : ∀ i, i ≠ labelsSource → b.pending[i] = a.pending[i]

theorem NoticeArbiter.countPosting_spec (a : NoticeArbiter) : PostingCounted a a.countPosting := by
  have hposted : ∀ w : Word32, a.labelsPosted ≠ 0xFFFFFFFF →
      (if a.labelsPosted = 0xFFFFFFFF then w else a.labelsPosted + 1) = a.labelsPosted + 1 := fun w h => if_neg h
  by_cases h : a.coalescingCount
      ≤ (if a.labelsPosted = 0xFFFFFFFF then Config.labelsPostedAfterMax else a.labelsPosted + 1).toNat
  · simp only [NoticeArbiter.countPosting, if_pos h]
    refine ⟨hposted _, rfl, ?_, rfl, fun i hi => NoticeArbiter.raise_pending_ne _ hi⟩
    exact (NoticeArbiter.raise_pending_same _ _).trans (Bool.or_eq_true_iff.mpr (.inr (decide_eq_true h))).symm
  · simp only [NoticeArbiter.countPosting, if_neg h]
    refine ⟨hposted _, rfl, ?_, rfl, fun i hi => rfl⟩
    rw [decide_eq_false h, Bool.or_false]

end Sys2Proof.Machine

namespace Sys2Proof.Machine

/-! ## JUDGE_COMPLETE of a PRODUCTION or ENGINEERING unit (O26) -/

section
variable {s : State} {n : NestId} {r : UnitRecord}

theorem Device.addHistory_judged {d : Device} (hr : (d.nest n).record = some r) (q : UnitRecord) :
    ((d.addHistory n .judged).modRecord n fun _ => q) = d.judged n q d.calibration d.notices := by
  rw [Device.addHistory_eq, Device.modRecord_eq, Device.nest_setNest_same, Device.setNest_setNest]
  simp only [hr, Option.map_some]
  rfl

theorem exec_judgeComplete_entry {i : Fin 16} (hs : (s.dev.nest n).state = .judging)
    (hr : (s.dev.nest n).record = some r) (hrole : r.role ≠ .golden)
    (hsel : selectEntry (s.dev.tables.bank r.bank).rows (judgedFailures (s.dev.planOf r) r) = some i) :
    exec (.judgeComplete n) s = .next { s with
      dev := (s.dev.addHistory n .judged).actOnEntry n (s.dev.judgedRecord r) i
          ((s.dev.tables.bank r.bank).rows.verdicts[i]) } := by
  have hsel' : selectEntry ((s.dev.addHistory n .judged).tables.bank r.bank).rows
      ((s.dev.addHistory n .judged).judgedRecord r).failures = some i := hsel
  change execJudgeComplete n s = _
  simp only [execJudgeComplete, hs, hr]
  cases hk : r.role with
  | golden => exact absurd hk hrole
  | production => simp only [hsel']; rfl
  | engineering => simp only [hsel']; rfl

/-- The verdict of the entry is taken as final (R17). -/
theorem Device.actOnEntry_final {e : VerdictEntry} (i : Fin 16) (hr : (s.dev.nest n).record = some r)
    (he : e.retest = false ∨ (s.dev.planOf r).header.retestLimit ≤ r.tries - 1) :
    (s.dev.addHistory n .judged).actOnEntry n (s.dev.judgedRecord r) i e
      = (s.dev.judged n (s.dev.judgedRecord r) s.dev.calibration s.dev.notices).finalVerdict n (verdictOfEntry i e)
          false := by
  have hretest : ¬ takesRetest e (s.dev.judgedRecord r)
      ((s.dev.addHistory n .judged).planOf (s.dev.judgedRecord r)).header = true := by
    rw [takesRetest, Bool.and_eq_true, decide_eq_true_eq, not_and_or, Bool.not_eq_true, Nat.not_lt]
    exact he
  rw [Device.actOnEntry, if_neg hretest, Device.addHistory_judged hr]

/-- The label of a judged PRODUCTION unit enters its nest's drift window (R120). -/
theorem Device.judged_drifted {d : Device} (q : UnitRecord) {l : Label} (chain : Option Chain)
    (hl : l.role = .production) {w : DriftWindow} {marginals : Nat} (hw : d.calibration.drift[n] = w)
    (hm : marginals = if hasFailure l.failures .marginal then w.marginals + 1 else w.marginals) :
    DriftEntered d ((d.judged n q d.calibration d.notices).drifted n l chain) n w marginals := by
  rw [Device.drifted, if_pos hl]
  obtain ⟨others, counts, restarts, stands, demotes, labels⟩ :=
    ((d.judged n q d.calibration d.notices).labelled n l chain).enterDrift_spec n (hasFailure l.failures .marginal) hw hm
  exact ⟨others, counts, restarts, stands, demotes, labels⟩

theorem Device.judged_notDrifted {d : Device} (q : UnitRecord) {l : Label} (chain : Option Chain)
    (hl : l.role ≠ .production) :
    ((d.judged n q d.calibration d.notices).drifted n l chain).calibration = d.calibration
    ∧ ((d.judged n q d.calibration d.notices).drifted n l chain).notices = d.notices := by
  rw [Device.drifted, if_neg hl]
  exact ⟨rfl, rfl⟩

end

/-- A posting, and the BANK notice of a bank that it leaves unpinned, in the posting count and its flag. -/
theorem PostingCounted.sameButBank {a b c : NoticeArbiter} {x : NoticeArbiter} (hx : SameLabels x a)
    (h : PostingCounted a b) (hb : SameButBank b c) :
    (x.labelsPosted ≠ 0xFFFFFFFF → c.labelsPosted = x.labelsPosted + 1)
    ∧ c.timer = (if x.labelsPosted = 0 then some 0 else x.timer)
    ∧ c.pending[labelsSource] = (x.pending[labelsSource] || decide (x.coalescingCount ≤ c.labelsPosted.toNat)) := by
  have hne : labelsSource ≠ bankSource := by decide
  rw [← hx.labelsPosted, ← hx.timer, ← hx.count, ← hx.pending, hb.labelsPosted, hb.timer, hb.pending _ hne]
  exact ⟨h.labelsPosted, h.timer, h.pending⟩

theorem calSource_ne_labels (n : NestId) : calSource n ≠ labelsSource := fun h => by
  have h := congrArg Fin.val h
  simp only [labelsSource, calSource] at h
  change _ = 12 at h
  omega

theorem calSource_ne_bank (n : NestId) : calSource n ≠ bankSource := fun h => by
  have h := congrArg Fin.val h
  simp only [bankSource, calSource] at h
  change _ = 15 at h
  omega

/-- A posting leaves CAL as it is. -/
theorem PostingCounted.cal {a b c : NoticeArbiter} (h : PostingCounted a b) (hb : SameButBank b c) (n : NestId) :
    c.calCause = a.calCause ∧ c.pending[calSource n] = a.pending[calSource n] := by
  rw [hb.calCause, h.calCause, hb.pending _ (calSource_ne_bank n), h.others _ (calSource_ne_labels n)]
  exact ⟨rfl, rfl⟩

/-- Settles O26. -/
theorem postingCounts : Obligations.PostingCounts := by
  intro s n r p i v f w marginals hs hr hrole hp hf hsel hv hretest hfree hw hm
  subst hp hf
  obtain ⟨kept, hk⟩ : ∃ kept, kept = captureKept v.override (s.dev.planOf r).header.capturePolicy v.cls := ⟨_, rfl⟩
  refine ⟨_, exec_judgeComplete_entry hs hr hrole hsel, ?_⟩
  rw [hv, Device.actOnEntry_final i hr hretest]
  have hposts := Device.finalVerdict_posts (r := s.dev.judgedRecord r) (v := verdictOfEntry i v) (n := n) (stale := false)
    (c := s.dev.calibration) (a := s.dev.notices) hfree hk
  have hcal := Device.finalVerdict_posts_calibration (r := s.dev.judgedRecord r) (v := verdictOfEntry i v) (n := n)
    (stale := false) (c := s.dev.calibration) (a := s.dev.notices) hfree hk
  have hnotices := Device.finalVerdict_posts_notices (r := s.dev.judgedRecord r) (v := verdictOfEntry i v) (n := n)
    (stale := false) (c := s.dev.calibration) (a := s.dev.notices) hfree hk
  generalize hq : (s.dev.judgedRecord r).decided (verdictOfEntry i v) kept false = q at hcal hnotices
  have hcounted := NoticeArbiter.countPosting_spec
    ((s.dev.judged n q s.dev.calibration s.dev.notices).drifted n
      (verdictLabel s.dev.labels.counter n q (verdictOfEntry i v)) q.attached).notices
  have hrole' : (verdictLabel s.dev.labels.counter n q (verdictOfEntry i v)).role = r.role := by
    subst hq
    rfl
  have hmarginal : (verdictLabel s.dev.labels.counter n q (verdictOfEntry i v)).failures
      = judgedFailures (s.dev.planOf r) r := by
    subst hq
    rfl
  generalize (s.dev.judged n (s.dev.judgedRecord r) s.dev.calibration s.dev.notices).finalVerdict n
    (verdictOfEntry i v) false = e at hposts hcal hnotices
  generalize hlabel : verdictLabel s.dev.labels.counter n q (verdictOfEntry i v) = l at *
  by_cases hproduction : r.role = .production
  · have hdrift := Device.judged_drifted (d := s.dev) (n := n) (marginals := marginals) q q.attached (hrole'.trans hproduction) hw
      (by rw [hmarginal]; exact hm)
    obtain ⟨hcause, hpending⟩ := hcounted.cal hnotices n
    refine ⟨hposts.yields, fun m hm => ?_, fun h => ?_, fun _ => ⟨fun h => ?_, fun h => ?_, fun h => ?_, fun h h' => ?_⟩,
      PostingCounted.sameButBank hdrift.labels hcounted hnotices⟩
    · rw [hcal]
      exact hdrift.others m hm
    · rw [hproduction] at h
      cases h
    · rw [hcal]
      exact hdrift.counts h
    · rw [hcal]
      exact hdrift.restarts h
    · obtain ⟨hrecords, hsame⟩ := hdrift.stands h
      rw [hcal, hcause, hpending, hsame]
      exact ⟨hrecords, rfl, rfl⟩
    · rw [hcal, hcause, hpending]
      exact hdrift.demotes h h'
  · obtain ⟨hsame, hnotice⟩ := Device.judged_notDrifted (d := s.dev) (n := n) q q.attached
      (fun h => hproduction (hrole'.symm.trans h))
    rw [hsame] at hcal
    rw [hnotice] at hcounted hnotices
    refine ⟨hposts.yields, fun m hm => ?_, fun _ => hcal, fun h => absurd h hproduction,
      PostingCounted.sameButBank (.refl _) hcounted hnotices⟩
    rw [hcal]
    exact ⟨rfl, fun _ => rfl⟩

end Sys2Proof.Machine

namespace Sys2Proof.Machine

/-! ## Failure sets -/

theorem FailureClass.ofNat_bit (c : FailureClass) : FailureClass.ofNat c.bit = c := by cases c <;> rfl

theorem FailureClass.bit_injective {b c : FailureClass} (h : b.bit = c.bit) : b = c := by
  rw [← b.ofNat_bit, h, c.ofNat_bit]

theorem hasFailure_zero (c : FailureClass) : hasFailure 0 c = false := BitVec.getLsbD_zero

/-- A class joins a failure set, and no other class does. -/
theorem hasFailure_addFailure_eq (f : FailureSet) (c b : FailureClass) :
    hasFailure (addFailure f c) b = (decide (b = c) || hasFailure f b) := by
  have hbit : c.bit < 16 := by cases c <;> decide
  have hsame : decide (c.bit = b.bit) = decide (b = c) :=
    decide_eq_decide.mpr ⟨fun h => (FailureClass.bit_injective h).symm, fun h => h ▸ rfl⟩
  rw [hasFailure, addFailure, BitVec.getLsbD_or, BitVec.getLsbD_twoPow, hsame, decide_eq_true hbit, Bool.true_and,
    Bool.or_comm]
  rfl

theorem hasFailure_addFailure_ne {c b : FailureClass} (f : FailureSet) (h : b ≠ c) :
    hasFailure (addFailure f c) b = hasFailure f b := by
  rw [hasFailure_addFailure_eq, decide_eq_false h, Bool.false_or]

theorem hasFailure_addFailed (c : FailureClass) (tests : List BandTest) : ∀ f : FailureSet,
    hasFailure (addFailed f tests) c = true
      ↔ hasFailure f c = true ∨ ∃ t ∈ tests, t.failed = true ∧ t.cls = c := by
  induction tests with
  | nil => exact fun f => ⟨.inl, fun h => h.resolve_right fun ⟨t, ht, _⟩ => absurd ht List.not_mem_nil⟩
  | cons t tests ih =>
    intro f
    have hfold : addFailed f (t :: tests) = addFailed (if t.failed then addFailure f t.cls else f) tests := rfl
    rw [hfold, ih]
    simp only [List.mem_cons, exists_eq_or_imp]
    cases ht : t.failed with
    | false => simp
    | true =>
      rw [if_pos rfl, hasFailure_addFailure_eq, Bool.or_eq_true, decide_eq_true_eq]
      simp only [true_and, eq_comm (a := c)]
      tauto

/-! ## The failure set of a judged unit (R86 to R88) -/

section
variable {p : Plan} {r : UnitRecord}

/-- The tests that the Judge makes, of all the measured bands (R85). -/
def judgeTests (p : Plan) (r : UnitRecord) : List BandTest := (measuredBands p r).flatMap (testsOf p r)

theorem mem_judgeTests (t : BandTest) : t ∈ judgeTests p r
    ↔ ∃ i, Measured p r i ∧ TestMade p.bands[i] r.accumulators[i] t.cls t.failed t.margin := by
  simp only [judgeTests, List.mem_flatMap, mem_measuredBands, testsOf, mem_bandTests]

/-- The classes that a band test can add (Table 4-5). -/
def bandClasses : List FailureClass := [.respLow, .respHigh, .distortion, .buzz, .crest]

theorem TestMade.cls {b : Band} {a : Accumulator} {c : FailureClass} {q : Bool} {m : Int} (h : TestMade b a c q m) :
    c ∈ bandClasses := by
  rcases h with ⟨rfl, _⟩ | ⟨rfl, _⟩ | ⟨rfl, _⟩ | ⟨rfl, _⟩ | ⟨rfl, _⟩ <;> decide

/-- The set after the failed tests have joined it (R86). -/
def failedSet (p : Plan) (r : UnitRecord) : FailureSet := addFailed r.failures (judgeTests p r)

theorem hasFailure_failedSet (c : FailureClass) : hasFailure (failedSet p r) c = true
    ↔ hasFailure r.failures c = true ∨ ∃ i m, Measured p r i ∧ TestMade p.bands[i] r.accumulators[i] c true m := by
  rw [failedSet, hasFailure_addFailed]
  refine or_congr_right ⟨?_, ?_⟩
  · rintro ⟨⟨_, _, m⟩, ht, rfl, rfl⟩
    obtain ⟨i, hi, hmade⟩ := (mem_judgeTests _).mp ht
    exact ⟨i, m, hi, hmade⟩
  · rintro ⟨i, m, hi, hmade⟩
    exact ⟨⟨c, true, m⟩, (mem_judgeTests _).mpr ⟨i, hi, hmade⟩, rfl, rfl⟩

theorem hasFailure_failedSet_other {c : FailureClass} (h : c ∉ bandClasses) :
    hasFailure (failedSet p r) c = hasFailure r.failures c := by
  rw [Bool.eq_iff_iff, hasFailure_failedSet]
  exact ⟨fun k => k.resolve_right fun ⟨_, _, _, hmade⟩ => h hmade.cls, .inl⟩

/-- No test failed, and a margin lies within its band's guard (R87). -/
def marginalTests (p : Plan) (r : UnitRecord) : Bool :=
  !((judgeTests p r).any fun t => t.failed)
    && (measuredBands p r).any fun i => (testsOf p r i).any (withinGuard p.bands[i])

theorem withinGuard_iff (b : Band) (t : BandTest) :
    withinGuard b t = true ↔ 0 ≤ t.margin ∧ t.margin < b.guardMargin := by
  rw [withinGuard, Bool.and_eq_true, decide_eq_true_eq, decide_eq_true_eq]

theorem marginalTests_iff : marginalTests p r = true
    ↔ (∀ i c m, Measured p r i → ¬ TestMade p.bands[i] r.accumulators[i] c true m)
      ∧ ∃ i c m, Measured p r i ∧ TestMade p.bands[i] r.accumulators[i] c false m ∧ 0 ≤ m
          ∧ m < (p.bands[i]).guardMargin := by
  rw [marginalTests, Bool.and_eq_true, Bool.not_eq_true', List.any_eq_false]
  simp only [List.any_eq_true, mem_measuredBands, testsOf, withinGuard_iff]
  constructor
  · rintro ⟨hnone, i, hi, ⟨c, q, m⟩, ht, h0, hm⟩
    have hmade := (mem_bandTests _ _ _).mp ht
    have hq : q = false := Bool.eq_false_of_not_eq_true (hnone ⟨c, q, m⟩ ((mem_judgeTests _).mpr ⟨i, hi, hmade⟩))
    subst hq
    exact ⟨fun j c m hj k => hnone ⟨c, true, m⟩ ((mem_judgeTests _).mpr ⟨j, hj, k⟩) rfl, i, c, m, hi, hmade, h0, hm⟩
  · rintro ⟨hnone, i, c, m, hi, hmade, h0, hm⟩
    refine ⟨fun t ht hfailed => ?_, i, hi, ⟨c, false, m⟩, (mem_bandTests _ _ _).mpr hmade, h0, hm⟩
    obtain ⟨j, hj, k⟩ := (mem_judgeTests t).mp ht
    rw [hfailed] at k
    exact hnone j t.cls t.margin hj k

/-- The set after MARGINAL has joined it (R87). -/
def marginalSet (p : Plan) (r : UnitRecord) : FailureSet :=
  if marginalTests p r then addFailure (failedSet p r) .marginal else failedSet p r

theorem judgedFailures_eq : judgedFailures p r = addUnmeasured p r (marginalSet p r) := rfl

theorem hasFailure_marginalSet_ne {c : FailureClass} (h : c ≠ .marginal) :
    hasFailure (marginalSet p r) c = hasFailure (failedSet p r) c := by
  rw [marginalSet]
  split
  · exact hasFailure_addFailure_ne _ h
  · rfl

theorem hasFailure_marginalSet : hasFailure (marginalSet p r) .marginal = true
    ↔ hasFailure r.failures .marginal = true ∨ marginalTests p r = true := by
  rw [← hasFailure_failedSet_other (p := p) (r := r) (c := .marginal) (by decide), marginalSet]
  cases marginalTests p r with
  | false => simp
  | true => simp [hasFailure_addFailure_eq]

/-- Some band of the plan was not measured (R88). -/
def Unmeasured (p : Plan) (r : UnitRecord) : Prop :=
  ∃ i : BandId, i.val < p.header.bandCount ∧ (r.accumulators[i]).windowCount = 0

theorem addUnmeasured_of {f : FailureSet} (h : Unmeasured p r) (hn : hasFailure f .noise = false)
    (hl : hasFailure f .levelLock = false) : addUnmeasured p r f = addFailure f .noSignal := by
  obtain ⟨i, hi, hcount⟩ := h
  have hany : (p.bandIds.any fun i => decide (r.accumulators[i].windowCount = 0)) = true :=
    List.any_eq_true.mpr ⟨i, (p.mem_bandIds i).mpr hi, decide_eq_true hcount⟩
  rw [addUnmeasured, hany, hn, hl]
  rfl

theorem addUnmeasured_of_not {f : FailureSet}
    (h : ¬ (Unmeasured p r ∧ hasFailure f .noise = false ∧ hasFailure f .levelLock = false)) :
    addUnmeasured p r f = f := by
  refine if_neg fun k => h ?_
  rw [Bool.and_eq_true, Bool.and_eq_true, List.any_eq_true, Bool.not_eq_true', Bool.not_eq_true'] at k
  obtain ⟨⟨⟨i, hi, hcount⟩, hn⟩, hl⟩ := k
  exact ⟨⟨i, (p.mem_bandIds i).mp hi, of_decide_eq_true hcount⟩, hn, hl⟩

theorem hasFailure_addUnmeasured_ne {c : FailureClass} (f : FailureSet) (h : c ≠ .noSignal) :
    hasFailure (addUnmeasured p r f) c = hasFailure f c := by
  rw [addUnmeasured]
  split
  · exact hasFailure_addFailure_ne _ h
  · rfl

theorem hasFailure_addUnmeasured (f : FailureSet) : hasFailure (addUnmeasured p r f) .noSignal = true
    ↔ hasFailure f .noSignal = true
      ∨ (Unmeasured p r ∧ hasFailure f .noise = false ∧ hasFailure f .levelLock = false) := by
  by_cases h : Unmeasured p r ∧ hasFailure f .noise = false ∧ hasFailure f .levelLock = false
  · obtain ⟨hu, hn, hl⟩ := h
    rw [addUnmeasured_of hu hn hl, hasFailure_addFailure]
    exact iff_of_true rfl (.inr ⟨hu, hn, hl⟩)
  · rw [addUnmeasured_of_not h]
    exact ⟨.inl, fun k => k.resolve_right h⟩

theorem hasFailure_judged_other {c : FailureClass} (hm : c ≠ .marginal) (hs : c ≠ .noSignal) :
    hasFailure (judgedFailures p r) c = hasFailure (failedSet p r) c := by
  rw [judgedFailures_eq, hasFailure_addUnmeasured_ne _ hs, hasFailure_marginalSet_ne hm]

theorem hasFailure_judged_marginal : hasFailure (judgedFailures p r) .marginal = true
    ↔ hasFailure r.failures .marginal = true ∨ marginalTests p r = true := by
  rw [judgedFailures_eq, hasFailure_addUnmeasured_ne _ (by decide), hasFailure_marginalSet]

theorem hasFailure_judged_noSignal : hasFailure (judgedFailures p r) .noSignal = true
    ↔ hasFailure r.failures .noSignal = true
      ∨ (Unmeasured p r ∧ hasFailure r.failures .noise = false ∧ hasFailure r.failures .levelLock = false) := by
  have hsame : ∀ c : FailureClass, c ≠ .marginal → c ∉ bandClasses →
      hasFailure (marginalSet p r) c = hasFailure r.failures c :=
    fun c h h' => (hasFailure_marginalSet_ne h).trans (hasFailure_failedSet_other h')
  rw [judgedFailures_eq, hasFailure_addUnmeasured, hsame .noSignal (by decide) (by decide),
    hsame .noise (by decide) (by decide), hsame .levelLock (by decide) (by decide)]

end

/-! ## The worst band (R89) -/

theorem bandMargin_concat (tests : List BandTest) (t : BandTest) :
    bandMargin (tests ++ [t]) = some ((bandMargin tests).elim t.margin fun x => min x t.margin) := by
  simp only [bandMargin, List.foldl_append, List.foldl_cons, List.foldl_nil]
  split <;> rename_i h <;> rw [h] <;> rfl

theorem bandMargin_eq_none {tests : List BandTest} : bandMargin tests = none ↔ tests = [] := by
  cases tests using List.reverseRecOn with
  | nil => exact iff_of_true rfl rfl
  | append_singleton tests t =>
    rw [bandMargin_concat]
    exact iff_of_false (Option.some_ne_none _) (List.append_ne_nil_of_right_ne_nil _ (List.cons_ne_nil _ _))

theorem bandMargin_eq_some {tests : List BandTest} : ∀ {g : Int}, bandMargin tests = some g →
    (∃ t ∈ tests, t.margin = g) ∧ ∀ t ∈ tests, g ≤ t.margin := by
  induction tests using List.reverseRecOn with
  | nil => exact fun h => by cases h
  | append_singleton tests t ih =>
    intro g h
    rw [bandMargin_concat, Option.some.injEq] at h
    cases hb : bandMargin tests with
    | none =>
      rw [hb] at h
      obtain rfl := bandMargin_eq_none.mp hb
      rw [List.nil_append]
      exact ⟨⟨t, List.mem_singleton_self t, h⟩, fun u hu => by rw [List.mem_singleton.mp hu]; exact h.ge⟩
    | some x =>
      rw [hb] at h
      change min x t.margin = g at h
      obtain ⟨⟨u, hu, hx⟩, hleast⟩ := ih hb
      refine ⟨?_, fun v hv => ?_⟩
      · rcases min_choice x t.margin with hm | hm
        · exact ⟨u, List.mem_append_left _ hu, by rw [hx, ← h, hm]⟩
        · exact ⟨t, List.mem_append_right _ (List.mem_singleton_self t), by rw [← h, hm]⟩
      · rcases List.mem_append.mp hv with hv | hv
        · exact (h ▸ min_le_left _ _ : g ≤ x).trans (hleast v hv)
        · rw [List.mem_singleton.mp hv, ← h]
          exact min_le_right _ _

/-- The best of the bands `l` seen so far: the first of those with the smallest margin. -/
structure WorstOf (margin : BandId → Option Int) (l : List BandId) (best : Option (BandId × Int)) : Prop where
  unmargined : best = none → ∀ i ∈ l, margin i = none
  least : ∀ i g, best = some (i, g) → i ∈ l ∧ margin i = some g
    ∧ ∀ j ∈ l, ∀ k, margin j = some k → g ≤ k ∧ (j < i → g < k)

section
variable {margin : BandId → Option Int} {l : List BandId} {i : BandId}

theorem WorstOf.skip {best : Option (BandId × Int)} (h : WorstOf margin l best) (hi : margin i = none) :
    WorstOf margin (l ++ [i]) best := by
  have hsplit : ∀ {j}, j ∈ l ++ [i] → j ∈ l ∨ j = i := fun hj => (List.mem_append.mp hj).imp_right List.mem_singleton.mp
  refine ⟨fun hb j hj => ?_, fun j g hb => ?_⟩
  · rcases hsplit hj with hj | rfl
    · exact h.unmargined hb j hj
    · exact hi
  · obtain ⟨hj, hg, hleast⟩ := h.least j g hb
    refine ⟨List.mem_append_left _ hj, hg, fun k hk x hx => ?_⟩
    rcases hsplit hk with hk | rfl
    · exact hleast k hk x hx
    · rw [hi] at hx
      cases hx

theorem WorstOf.first {m : Int} (h : WorstOf margin l none) (hi : margin i = some m) :
    WorstOf margin (l ++ [i]) (some (i, m)) := by
  refine ⟨fun hb => (nomatch hb), fun j g hb => ?_⟩
  cases hb
  refine ⟨List.mem_append_right _ (List.mem_singleton_self _), hi, fun j hj k hk => ?_⟩
  rcases List.mem_append.mp hj with hj | hj
  · rw [h.unmargined rfl j hj] at hk
    cases hk
  · obtain rfl := List.mem_singleton.mp hj
    rw [hi] at hk
    cases hk
    exact ⟨le_refl _, fun h => absurd h (lt_irrefl _)⟩

theorem WorstOf.next {m n : Int} {b : BandId} (h : WorstOf margin l (some (b, n))) (hi : margin i = some m)
    (hl : ∀ j ∈ l, j < i) : WorstOf margin (l ++ [i]) (if m < n then some (i, m) else some (b, n)) := by
  obtain ⟨hb, hn, hleast⟩ := h.least b n rfl
  refine ⟨fun k => (by split at k <;> cases k), fun j g hj => ?_⟩
  by_cases hmn : m < n
  · rw [if_pos hmn] at hj
    cases hj
    refine ⟨List.mem_append_right _ (List.mem_singleton_self _), hi, fun j hj k hk => ?_⟩
    rcases List.mem_append.mp hj with hj | hj
    · have hnk := (hleast j hj k hk).1
      exact ⟨(hmn.trans_le hnk).le, fun _ => hmn.trans_le hnk⟩
    · obtain rfl := List.mem_singleton.mp hj
      rw [hi] at hk
      cases hk
      exact ⟨le_refl _, fun h => absurd h (lt_irrefl _)⟩
  · rw [if_neg hmn] at hj
    cases hj
    refine ⟨List.mem_append_left _ hb, hn, fun j hj k hk => ?_⟩
    rcases List.mem_append.mp hj with hj | hj
    · exact hleast j hj k hk
    · obtain rfl := List.mem_singleton.mp hj
      rw [hi] at hk
      cases hk
      exact ⟨not_lt.mp hmn, fun h => absurd h (lt_asymm (hl b hb))⟩

/-- A fold that keeps the first band with the smallest margin finds it. -/
theorem WorstOf.foldl {f : Option (BandId × Int) → BandId → Option (BandId × Int)}
    (hskip : ∀ best i, margin i = none → f best i = best)
    (hfirst : ∀ i m, margin i = some m → f none i = some (i, m))
    (hnext : ∀ i m b n, margin i = some m → f (some (b, n)) i = if m < n then some (i, m) else some (b, n)) :
    ∀ l : List BandId, l.Pairwise (· < ·) → WorstOf margin l (l.foldl f none) := by
  intro l
  induction l using List.reverseRecOn with
  | nil => exact fun _ => ⟨fun _ i hi => absurd hi List.not_mem_nil, fun _ _ h => by cases h⟩
  | append_singleton l i ih =>
    intro hl
    obtain ⟨hsorted, _, hlast⟩ := List.pairwise_append.mp hl
    have hbest := ih hsorted
    have hlt : ∀ j ∈ l, j < i := fun j hj => hlast j hj i (List.mem_singleton_self i)
    rw [List.foldl_append, List.foldl_cons, List.foldl_nil]
    cases hm : margin i with
    | none =>
      rw [hskip _ _ hm]
      exact hbest.skip hm
    | some m =>
      cases hb : l.foldl f none with
      | none =>
        rw [hfirst i m hm]
        exact (hb ▸ hbest).first hm
      | some w =>
        rw [hnext i m w.1 w.2 hm]
        exact WorstOf.next (hb ▸ hbest) hm hlt

end

/-- The worst band before its margin is held (R89). -/
theorem worstBand_spec (p : Plan) (r : UnitRecord) : ∃ best,
    WorstOf (fun i => bandMargin (testsOf p r i)) (measuredBands p r) best
    ∧ worstBand p r = best.map fun w => (w.1, held (-999) 999 w.2) := by
  have hsorted : (measuredBands p r).Pairwise (· < ·) := ((List.pairwise_lt_finRange 32).filter _).filter _
  refine ⟨_, WorstOf.foldl ?_ ?_ ?_ _ hsorted, rfl⟩
  · intro best i h
    simp only [h]
  · intro i m h
    simp only [h]
  · intro i m b n h
    simp only [h]

/-! ## The distortion margin (R85) -/

theorem decibel_steps {k M L X : Nat} (hk : 1 ≤ k) (hlow : 10 ^ (2 * k) * M ≤ L * (X * 10))
    (hhigh : L * (X * 10) < 10 ^ (2 * (k + 1)) * M) :
    10 ^ (2 * k - 1) * M ≤ L * X ∧ L * X < 10 ^ (2 * k + 1) * M := by
  have hstep : ∀ e, 10 ^ (e + 1) * M = 10 ^ e * M * 10 := fun e => by rw [pow_succ]; ring
  have hlow' : 10 ^ (2 * k - 1) * M * 10 ≤ L * X * 10 := by
    rw [← hstep, Nat.sub_add_cancel (by omega), mul_assoc]
    exact hlow
  have hhigh' : L * X * 10 < 10 ^ (2 * k + 1) * M * 10 := by
    rw [← hstep, mul_assoc]
    exact hhigh
  exact ⟨Nat.le_of_mul_le_mul_right hlow' (by decide), Nat.lt_of_mul_lt_mul_right hhigh'⟩

/-- The rounded level of a ratio lies well within the range searched. -/
theorem distortionSteps {limit measured : Nat} (hl : 1 ≤ limit) (hl' : limit ≤ 10000) (hm : 1 ≤ measured)
    (hm' : measured ≤ 10000) : ∃ k : Nat, distortionDecibels limit measured = (k : Int) - 1000 ∧ 1 ≤ k ∧ k < 2000
      ∧ 10 ^ (2 * k) * measured ^ 400 ≤ limit ^ 400 * 10 ^ 2001
      ∧ limit ^ 400 * 10 ^ 2001 < 10 ^ (2 * (k + 1)) * measured ^ 400 := by
  have hbound : ∀ x : Nat, x ≤ 10 ^ 4 → x ^ 400 ≤ 10 ^ 1600 := fun x hx => by
    rw [show 1600 = 4 * 400 by rfl, pow_mul]
    exact Nat.pow_le_pow_left hx 400
  have hM := hbound measured hm'
  have hL := hbound limit hl'
  have hM1 : 1 ≤ measured ^ 400 := Nat.one_le_pow _ _ hm
  have hL1 : 1 ≤ limit ^ 400 := Nat.one_le_pow _ _ hl
  have hok : ∀ e, e ≤ 401 → 10 ^ e * measured ^ 400 ≤ limit ^ 400 * 10 ^ 2001 := fun e he => calc
    10 ^ e * measured ^ 400 ≤ 10 ^ e * 10 ^ 1600 := Nat.mul_le_mul_left _ hM
    _ = 10 ^ (e + 1600) := (pow_add 10 e 1600).symm
    _ ≤ 10 ^ 2001 := Nat.pow_le_pow_right (by decide) (by omega)
    _ ≤ limit ^ 400 * 10 ^ 2001 := Nat.le_mul_of_pos_left _ hL1
  obtain ⟨hholds, hlargest⟩ := largestWith_largest
    (p := fun k => decide (10 ^ (2 * k) * measured ^ 400 ≤ limit ^ 400 * 10 ^ 2001))
    (fun a b hab hb => decide_eq_true
      ((Nat.mul_le_mul_right _ (Nat.pow_le_pow_right (by decide) (by omega))).trans (of_decide_eq_true hb)))
    11 0 (decide_eq_true (hok _ (by omega)))
  have hone := hlargest 1 (by omega) (decide_eq_true (hok _ (by omega)))
  have hlow := of_decide_eq_true hholds
  have hfit : largestWith (fun k => decide (10 ^ (2 * k) * measured ^ 400 ≤ limit ^ 400 * 10 ^ 2001)) 11 0 < 2000 := by
    refine Nat.lt_of_not_le fun hbig => ?_
    have hpower : 10 ^ 4000 ≤ 10 ^ 3601 := calc
      10 ^ 4000 ≤ 10 ^ (2 * _) * measured ^ 400 :=
        (Nat.pow_le_pow_right (by decide) (Nat.mul_le_mul_left 2 hbig)).trans (Nat.le_mul_of_pos_right _ hM1)
      _ ≤ limit ^ 400 * 10 ^ 2001 := hlow
      _ ≤ 10 ^ 1600 * 10 ^ 2001 := Nat.mul_le_mul_right _ hL
      _ = 10 ^ 3601 := (pow_add 10 1600 2001).symm
    have := (Nat.pow_le_pow_iff_right (by decide)).mp hpower
    omega
  refine ⟨_, rfl, hone, hfit, hlow, Nat.lt_of_not_le fun hnext => ?_⟩
  have hlarger := hlargest _ (by omega) (decide_eq_true hnext)
  omega

theorem distortionMargin_spec {limit measured : Nat} (hl : 1 ≤ limit) (hl' : limit ≤ 10000) (hm : 1 ≤ measured)
    (hm' : measured ≤ 10000) : ∃ m : Int, 10 ^ (2 * m + 1999).toNat * measured ^ 400 ≤ limit ^ 400 * 10 ^ 2000
      ∧ limit ^ 400 * 10 ^ 2000 < 10 ^ (2 * m + 2001).toNat * measured ^ 400 ∧ -1000 < m ∧ m < 1000
      ∧ distortionMargin limit measured = if limit < measured ∧ m = 0 then -1 else m := by
  obtain ⟨k, hk, hk1, hk2, hlow, hhigh⟩ := distortionSteps hl hl' hm hm'
  rw [pow_succ 10 2000] at hlow hhigh
  obtain ⟨hlow', hhigh'⟩ := decibel_steps hk1 hlow hhigh
  have htop : (2 * ((k : Int) - 1000) + 2001).toNat = 2 * k + 1 := by omega
  have hbottom : (2 * ((k : Int) - 1000) + 1999).toNat = 2 * k - 1 := by omega
  refine ⟨(k : Int) - 1000, by rw [hbottom]; exact hlow', by rw [htop]; exact hhigh', by omega, by omega, ?_⟩
  rw [distortionMargin, hk]

/-! ## The selected entry (R92) -/

theorem selectEntry_eq_some {rows : BankRows} {f : FailureSet} {i : Fin 16} : selectEntry rows f = some i
    ↔ (rows.verdicts[i]).accepts f = true ∧ ∀ j : Fin 16, j < i → (rows.verdicts[j]).accepts f = false := by
  rw [selectEntry, ← Fin.find?_eq_find?_finRange, Fin.find?_eq_some_iff]

theorem VerdictEntry.accepts_iff (e : VerdictEntry) (f : FailureSet) :
    e.accepts f = true ↔ e.require &&& f = e.require ∧ e.exclude &&& f = 0 := by
  rw [VerdictEntry.accepts, Bool.and_eq_true, decide_eq_true_eq, decide_eq_true_eq]

end Sys2Proof.Machine

namespace Sys2Proof.Machine

/-! ## A RETEST, AND THE CAPTURE DECISION (O59) -/

section
variable {s : State} {n : NestId} {r : UnitRecord}

/-- A nest returns to LEVEL_LOCK for a retest (R18). -/
structure Retested (d e : Device) (n : NestId) (r : UnitRecord) : Prop where
  state : (e.nest n).state = .levelLock
  labels : e.labels = d.labels
  history : (e.nest n).history = addEvent (d.nest n).history .retested
  record : ∃ sub, (e.nest n).record = some { r.retested (d.planOf r).header with sub := sub }
  pool : e.pool = { d.pool with free := d.pool.free ++ r.chain.blocks }
  live : e.yields.live[n] = { d.yields.live[n] with retests := (d.yields.live[n]).retests + 1 }

theorem Device.retest_spec {d : Device} {r₀ : UnitRecord} (hr : (d.nest n).record = some r₀) :
    Retested d (d.retest n r) n r := by
  have hbefore : ∀ q : UnitRecord, ((((d.freeChain r.chain).count n fun c => { c with retests := c.retests + 1 }).addHistory
      n .retested).modRecord n fun _ => q)
      = ((d.freeChain r.chain).count n fun c => { c with retests := c.retests + 1 }).setNest n
          { d.nest n with history := addEvent (d.nest n).history .retested, record := some q } := fun q => by
    rw [Device.addHistory_eq, Device.modRecord_eq, Device.nest_setNest_same, Device.setNest_setNest]
    exact congrArg (fun x => Device.setNest _ n { d.nest n with
      history := addEvent (d.nest n).history .retested, record := Option.map (fun _ => q) x }) hr
  rw [Device.retest, hbefore]
  have hlive := Device.count_live_same (d.freeChain r.chain) n fun c => { c with retests := c.retests + 1 }
  generalize hX : (d.freeChain r.chain).count n (fun c => { c with retests := c.retests + 1 }) = X at hlive
  have hlabels : X.labels = d.labels := by rw [← hX]; rfl
  have hpool : X.pool = { d.pool with free := d.pool.free ++ r.chain.blocks } := by rw [← hX]; rfl
  have hlock := (X.setNest n { d.nest n with
    history := addEvent (d.nest n).history .retested
    record := some (r.retested (d.planOf r).header) }).enterLevelLock_spec n
  generalize hE : (X.setNest n { d.nest n with
    history := addEvent (d.nest n).history .retested
    record := some (r.retested (d.planOf r).header) }).enterLevelLock n = E at hlock
  have hhistory := hlock.history
  have hrecord := hlock.record (r.retested (d.planOf r).header)
  rw [Device.nest_setNest_same] at hhistory hrecord
  have hframe := hlock.frame
  refine ⟨hlock.state, ?_, hhistory, hrecord rfl, ?_, ?_⟩
  · rw [hframe]
    exact hlabels
  · rw [hframe]
    exact hpool
  · rw [hframe]
    exact hlive

theorem Device.actOnEntry_retest {e : VerdictEntry} (i : Fin 16)
    (he : e.retest = true) (htries : r.tries - 1 < (s.dev.planOf r).header.retestLimit) :
    (s.dev.addHistory n .judged).actOnEntry n (s.dev.judgedRecord r) i e
      = (s.dev.addHistory n .judged).retest n (s.dev.judgedRecord r) := by
  refine if_pos ?_
  rw [takesRetest, Bool.and_eq_true, decide_eq_true_eq]
  exact ⟨he, htries⟩

theorem captureKept_iff (o : CaptureOverride) (p : CapturePolicy) (c : LabelClass) : captureKept o p c = true
    ↔ (o = .force ∧ p ≠ .none) ∨ (o = .inherit ∧ (p = .always ∨ (p = .onFail ∧ c ≠ .pass))) := by
  cases o <;> cases p <;> simp [captureKept]

end

end Sys2Proof.Machine

namespace Sys2Proof.Machine

/-! ## JUDGE_COMPLETE of a PRODUCTION or ENGINEERING unit (O59) -/

section
variable {s : State} {n : NestId} {r : UnitRecord}

/-- The retest that the selected entry asks for. -/
theorem judging_retests {e : VerdictEntry} (i : Fin 16) (hr : (s.dev.nest n).record = some r) (he : e.retest = true)
    (htries : r.tries - 1 < (s.dev.planOf r).header.retestLimit) :
    Retested (s.dev.addHistory n .judged)
      ((s.dev.addHistory n .judged).actOnEntry n (s.dev.judgedRecord r) i e) n (s.dev.judgedRecord r) := by
  rw [Device.actOnEntry_retest i he htries]
  refine Device.retest_spec (r₀ := r) ?_
  rw [Device.addHistory_eq, Device.nest_setNest_same]
  exact hr

theorem Device.addHistory_history (d : Device) (n : NestId) (e : HistoryEvent) :
    ((d.addHistory n e).nest n).history = addEvent (d.nest n).history e := by
  rw [Device.addHistory_eq, Device.nest_setNest_same]

end

theorem FinalPosted.labelled {d e : Device} {n : NestId} {r : UnitRecord} {v : Verdict} {kept stale : Bool}
    (h : FinalPosted d e n r v kept stale) : (e.yields.live[n]).labelled = (d.yields.live[n]).labelled + 1 := by
  have hlive : e.yields.live[n] = counted d.yields.live[n] r.role (if v.cls = .void then none else v.bin)
      (hasFailure r.failures .marginal) := by
    rw [h.yields]
    exact Vector.getElem_set_self _
  rw [hlive]
  rfl

theorem verdictLabel_worst (number : Word32) (n : NestId) {r : UnitRecord} (v : Verdict) (h : r.role ≠ .golden) :
    verdictLabel number n r v = { verdictLabel number n r v with worst := r.worst } := by
  simp only [verdictLabel, if_neg h]

theorem verdictLabel_golden (number : Word32) (n : NestId) {r : UnitRecord} {v : Verdict} (h : r.role = .golden)
    (hb : v.bin = none) :
    verdictLabel number n r v = { verdictLabel number n r v with role := .golden, bin := none, worst := none } := by
  simp only [verdictLabel, h, hb, ite_self, if_true]

/-- The worst band has a made test of the smallest margin, and the lower-numbered bands have none as small (R89). -/
theorem worstBand_least {p : Plan} {r : UnitRecord} {best : Option (BandId × Int)} {i : BandId} {g : Int}
    (h : WorstOf (fun i => bandMargin (testsOf p r i)) (measuredBands p r) best) (hb : best = some (i, g)) :
    Measured p r i ∧ (∃ c q, TestMade p.bands[i] r.accumulators[i] c q g)
    ∧ ∀ j c q k, Measured p r j → TestMade p.bands[j] r.accumulators[j] c q k → g ≤ k ∧ (j < i → g < k) := by
  obtain ⟨hi, hg, hleast⟩ := h.least i g hb
  obtain ⟨⟨t, ht, rfl⟩, -⟩ := bandMargin_eq_some hg
  refine ⟨(mem_measuredBands p r i).mp hi, ⟨t.cls, t.failed, (mem_bandTests _ _ _).mp ht⟩, fun j c q k hj hmade => ?_⟩
  have hmem : (⟨c, q, k⟩ : BandTest) ∈ testsOf p r j := (mem_bandTests _ _ _).mpr hmade
  cases hm : bandMargin (testsOf p r j) with
  | none =>
    rw [bandMargin_eq_none.mp hm] at hmem
    exact absurd hmem List.not_mem_nil
  | some m =>
    obtain ⟨hle, hlt⟩ := hleast j ((mem_measuredBands p r j).mpr hj) m hm
    have hmk : m ≤ k := (bandMargin_eq_some hm).2 _ hmem
    exact ⟨hle.trans hmk, fun hji => (hlt hji).trans_le hmk⟩

theorem worstBand_eq_none {p : Plan} {r : UnitRecord} :
    worstBand p r = none ↔ ∀ i c q m, Measured p r i → ¬ TestMade p.bands[i] r.accumulators[i] c q m := by
  obtain ⟨best, hbest, hworst⟩ := worstBand_spec p r
  rw [hworst, Option.map_eq_none_iff]
  refine ⟨fun hnone i c q m hi hmade => ?_, fun hnone => Option.eq_none_iff_forall_not_mem.mpr fun b hb => ?_⟩
  · have hmem : (⟨c, q, m⟩ : BandTest) ∈ testsOf p r i := (mem_bandTests _ _ _).mpr hmade
    rw [bandMargin_eq_none.mp (hbest.unmargined hnone i ((mem_measuredBands p r i).mpr hi))] at hmem
    exact absurd hmem List.not_mem_nil
  · obtain ⟨hi, ⟨c, q, hmade⟩, -⟩ := worstBand_least (i := b.1) (g := b.2) hbest hb
    exact hnone b.1 c q b.2 hi hmade

/-- Settles O59. -/
theorem judgingActsOnEntry : Obligations.JudgingActsOnEntry := by
  refine ⟨fun s n r p i v f w kept hs hr hrole hp hf hw hsel hv hk => ?_, fun p r f hf => ?_, fun p r => ?_,
    fun rows f accepts haccepts => ?_, fun limit measured hl hl' hm hm' => distortionMargin_spec hl hl' hm hm'⟩
  · subst hp hf hw
    have hkept : kept = captureKept v.override (s.dev.planOf r).header.capturePolicy v.cls := by
      rw [Bool.eq_iff_iff, captureKept_iff]
      exact hk
    refine ⟨_, exec_judgeComplete_entry hs hr hrole hsel, rfl, fun he htries => ?_, fun he => ⟨fun hfree => ?_, fun hfull => ?_⟩⟩
    · rw [hv]
      obtain ⟨hstate, hlabels, hhistory, hrecord, hpool, hlive⟩ := judging_retests i hr he htries
      rw [Device.addHistory_history] at hhistory
      exact ⟨hstate, hlabels, hhistory, hrecord, hpool, (congrArg Counters.retests hlive).trans rfl,
        (congrArg Counters.labelled hlive).trans rfl⟩
    · rw [hv, Device.actOnEntry_final i hr he]
      have hposts := Device.finalVerdict_posts (r := s.dev.judgedRecord r) (v := verdictOfEntry i v) (n := n)
        (stale := false) (c := s.dev.calibration) (a := s.dev.notices) hfree hkept
      refine ⟨hposts.ring.trans ?_, hposts.pool, hposts.posted, hposts.counter, hposts.history, hposts.state,
        hposts.claims, hposts.pins, hposts.labelled⟩
      rw [verdictLabel_worst (r := (s.dev.judgedRecord r).decided (verdictOfEntry i v) kept false) _ _ _ hrole]
      rfl
    · rw [hv, Device.actOnEntry_final i hr he, Device.finalVerdict_joins hfull hkept]
      have hwaits := Device.finalVerdict_waits (r := s.dev.judgedRecord r) (v := verdictOfEntry i v) (n := n)
        (stale := false) (c := s.dev.calibration) (a := s.dev.notices) hfull hkept
      rw [Device.finalVerdict_joins hfull hkept] at hwaits
      refine ⟨hwaits.state, (congrArg LabelUnit.ring hwaits.labels).trans rfl, hwaits.record, (congrArg LabelUnit.counter hwaits.labels).trans rfl,
        (congrArg LabelUnit.waitQueue hwaits.labels).trans rfl, hwaits.history, hwaits.tables, hwaits.yields, hwaits.pool,
        fun hempty => ?_, fun hbusy => if_neg hbusy⟩
      rw [if_pos hempty]
      exact NoticeArbiter.raise_pending_same _ _
  · subst hf
    refine ⟨fun c hc => ?_, ?_, hasFailure_judged_noSignal, fun c hc => ?_⟩
    · have hclass : ∀ c ∈ bandClasses, c ≠ .marginal ∧ c ≠ .noSignal := by decide
      obtain ⟨hm, hn⟩ := hclass c hc
      rw [hasFailure_judged_other hm hn, hasFailure_failedSet]
    · rw [hasFailure_judged_marginal, marginalTests_iff]
    · have hclass : ∀ c ∈ [FailureClass.polarity, .levelLock, .noise, .fixture, .aborted, .link],
          c ≠ .marginal ∧ c ≠ .noSignal ∧ c ∉ bandClasses := by decide
      obtain ⟨hm, hn, hb⟩ := hclass c hc
      rw [hasFailure_judged_other hm hn, hasFailure_failedSet_other hb]
  · refine ⟨worstBand_eq_none, fun i m h => ?_⟩
    obtain ⟨best, hbest, hworst⟩ := worstBand_spec p r
    rw [hworst, Option.map_eq_some_iff] at h
    obtain ⟨⟨j, g⟩, hb, hheld⟩ := h
    obtain ⟨rfl, rfl⟩ := Prod.mk.inj hheld
    obtain ⟨hj, hmade, hleast⟩ := worstBand_least hbest hb
    exact ⟨hj, g, rfl, hmade, hleast⟩
  · have hiff : ∀ i : Fin 16, (rows.verdicts[i]).accepts f = true ↔ accepts i := fun i =>
      (VerdictEntry.accepts_iff _ f).trans (haccepts i).symm
    refine ⟨fun i => ?_, ?_⟩
    · rw [selectEntry_eq_some, hiff]
      refine and_congr_right fun _ => forall_congr' fun j => forall_congr' fun _ => ?_
      rw [← hiff, Bool.not_eq_true]
    · rw [selectEntry_none]
      refine forall_congr' fun i => ?_
      rw [← hiff, Bool.not_eq_true]

end Sys2Proof.Machine

namespace Sys2Proof.Machine

/-! ## JUDGE_COMPLETE of a GOLDEN unit (O60) -/

section
variable {s : State} {n : NestId} {r : UnitRecord}

theorem exec_judgeComplete_golden (hs : (s.dev.nest n).state = .judging) (hr : (s.dev.nest n).record = some r)
    (hrole : r.role = .golden) : exec (.judgeComplete n) s
      = .next { s with dev := (s.dev.addHistory n .judged).goldenComplete n (s.dev.goldenRecord r) } := by
  change execJudgeComplete n s = _
  simp only [execJudgeComplete, hs, hr, hrole]
  rfl

/-- A golden result writes its results and its verdict in the record of a nest that it has judged. -/
theorem Device.addHistory_applied {d : Device} (hr : (d.nest n).record = some r) (q : UnitRecord)
    (c : CalibrationStore) (a : NoticeArbiter) :
    ({ d.addHistory n .judged with calibration := c, notices := a }.modRecord n fun _ => q) = d.judged n q c a := by
  have hrec := Device.addHistory_judged hr q
  rw [Device.modRecord_eq] at hrec ⊢
  exact congrArg (fun e : Device => { e with calibration := c, notices := a }) hrec

/-- The part after the golden result has been applied, where its generation is the record's stamp (R129, R130). -/
def Device.applied (d : Device) (n : NestId) (r : UnitRecord) (cls : LabelClass) : Device :=
  if d.isStale n r then d
  else d.replaceCal n r.plan (applyGolden (d.calibration.record n r.plan) (d.planOf r) r cls) .golden

theorem Device.applied_frame (d : Device) (n : NestId) (r : UnitRecord) (cls : LabelClass) :
    d.applied n r cls = { d with calibration := (d.applied n r cls).calibration, notices := (d.applied n r cls).notices } := by
  rw [Device.applied]
  split
  · rfl
  · exact (d.replaceCal_spec n r.plan _ .golden).2.2.2

/-- What a golden result applies does not depend on the nest. -/
theorem Device.applied_addHistory (d : Device) (n : NestId) (q : UnitRecord) (cls : LabelClass) :
    ((d.addHistory n .judged).applied n q cls).calibration = (d.applied n q cls).calibration
    ∧ ((d.addHistory n .judged).applied n q cls).notices = (d.applied n q cls).notices := by
  cases hstale : d.isStale n q with
  | true =>
    have hstale' : (d.addHistory n .judged).isStale n q = true := hstale
    rw [Device.applied, Device.applied, if_pos hstale, if_pos hstale']
    exact ⟨rfl, rfl⟩
  | false =>
    have hstale' : (d.addHistory n .judged).isStale n q = false := hstale
    rw [Device.applied, Device.applied, if_neg (Bool.not_eq_true _ ▸ hstale), if_neg (Bool.not_eq_true _ ▸ hstale')]
    obtain ⟨hcal, hnew, hsame, -⟩ := d.replaceCal_spec n q.plan
      (applyGolden (d.calibration.record n q.plan) (d.planOf q) q cls) .golden
    obtain ⟨hcal', hnew', hsame', -⟩ := (d.addHistory n .judged).replaceCal_spec n q.plan
      (applyGolden (d.calibration.record n q.plan) (d.planOf q) q cls) .golden
    refine ⟨hcal'.trans hcal.symm, ?_⟩
    by_cases hstate : (applyGolden (d.calibration.record n q.plan) (d.planOf q) q cls).state
        = (d.calibration.record n q.plan).state
    · exact (hsame' hstate).trans (hsame hstate).symm
    · exact (hnew' hstate).trans (hnew hstate).symm

theorem Device.goldenComplete_eq (hr : (s.dev.nest n).record = some r) (q : UnitRecord) :
    (s.dev.addHistory n .judged).goldenComplete n q
      = (s.dev.judged n q (s.dev.applied n q (goldenClass (s.dev.planOf q) q q.failures)).calibration
          (s.dev.applied n q (goldenClass (s.dev.planOf q) q q.failures)).notices).finalVerdict n
        (goldenVerdict (goldenClass (s.dev.planOf q) q q.failures)) (s.dev.isStale n q) := by
  obtain ⟨hcal, hnotices⟩ := s.dev.applied_addHistory n q (goldenClass (s.dev.planOf q) q q.failures)
  rw [Device.goldenComplete]
  change (Device.modRecord (Device.applied _ n q _) n fun _ => q).finalVerdict n _ _ = _
  rw [Device.applied_frame, Device.addHistory_applied hr, ← hcal, ← hnotices]
  rfl

end

end Sys2Proof.Machine

namespace Sys2Proof.Machine

section
variable {d : Device} {n : NestId} {r q : UnitRecord} {cls : LabelClass}

/-- What a golden result does to the calibration store, now `c`, and the notices, now `a` (R129, R130, R137). -/
structure GoldenApplied (d : Device) (n : NestId) (q : UnitRecord) (cls : LabelClass) (c : CalibrationStore)
    (a : NoticeArbiter) : Prop where
  others : ∀ m p, (m, p) ≠ (n, q.plan) → c.record m p = d.calibration.record m p
  stale : q.generation ≠ (d.calibration.record n q.plan).stamp →
    c.record n q.plan = d.calibration.record n q.plan
  fresh : q.generation = (d.calibration.record n q.plan).stamp →
    c.record n q.plan = applyGolden (d.calibration.record n q.plan) (d.planOf q) q cls
  drift : c.drift = d.calibration.drift
  changed : (c.record n q.plan).state ≠ (d.calibration.record n q.plan).state → a.pending[calSource n] = true
    ∧ a.calCause = d.notices.calCause.set n (some (.golden, some q.plan))
  same : (c.record n q.plan).state = (d.calibration.record n q.plan).state → a = d.notices
  pending : ∀ i, i ≠ calSource n → a.pending[i] = d.notices.pending[i]

theorem Device.isStale_iff : d.isStale n q = true ↔ q.generation ≠ (d.calibration.record n q.plan).stamp := by
  rw [Device.isStale, decide_eq_true_eq]

theorem Device.applied_spec (d : Device) (n : NestId) (q : UnitRecord) (cls : LabelClass) :
    GoldenApplied d n q cls (d.applied n q cls).calibration (d.applied n q cls).notices := by
  by_cases hstale : q.generation ≠ (d.calibration.record n q.plan).stamp
  · rw [Device.applied, if_pos (Device.isStale_iff.mpr hstale)]
    exact ⟨fun _ _ _ => rfl, fun _ => rfl, fun h => absurd h hstale, rfl, fun h => absurd rfl h, fun _ => rfl, fun _ _ => rfl⟩
  · have hfresh : ¬ d.isStale n q = true := fun h => hstale (Device.isStale_iff.mp h)
    rw [Device.applied, if_neg hfresh]
    obtain ⟨hcal, hnew, hsame, -⟩ := d.replaceCal_spec n q.plan
      (applyGolden (d.calibration.record n q.plan) (d.planOf q) q cls) .golden
    rw [hcal]
    refine ⟨fun m p h => CalibrationStore.record_setRecord_ne _ _ h, fun h => absurd h hstale,
      fun _ => CalibrationStore.record_setRecord_same _ _ _ _, CalibrationStore.setRecord_drift _ _ _ _, fun h => ?_,
      fun h => ?_, fun i hi => ?_⟩
    · rw [CalibrationStore.record_setRecord_same] at h
      rw [hnew h]
      exact ⟨Vector.getElem_set_self _, rfl⟩
    · rw [CalibrationStore.record_setRecord_same] at h
      exact hsame h
    · by_cases h : (applyGolden (d.calibration.record n q.plan) (d.planOf q) q cls).state
          = (d.calibration.record n q.plan).state
      · rw [hsame h]
      · rw [hnew h]
        exact Vector.getElem_set_ne (calSource n).isLt i.isLt fun e => hi (Fin.ext e.symm)

/-- The calibration store and CAL after the final verdict of a golden unit are those that its result left (R120). -/
theorem Device.finalVerdict_golden {c : CalibrationStore} {a : NoticeArbiter} {v : Verdict} {stale : Bool}
    (hrole : r.role = .golden) :
    ((d.judged n r c a).finalVerdict n v stale).calibration = c
    ∧ ((d.judged n r c a).finalVerdict n v stale).notices.calCause = a.calCause
    ∧ ((d.judged n r c a).finalVerdict n v stale).notices.pending[calSource n] = a.pending[calSource n] := by
  obtain ⟨kept, hk⟩ : ∃ kept, kept = captureKept v.override (d.planOf r).header.capturePolicy v.cls := ⟨_, rfl⟩
  by_cases hf : d.labels.posted < 64
  · have hcal := Device.finalVerdict_posts_calibration (r := r) (v := v) (n := n) (stale := stale) (c := c) (a := a) hf hk
    have hnotices := Device.finalVerdict_posts_notices (r := r) (v := v) (n := n) (stale := stale) (c := c) (a := a) hf hk
    have hdrift : ∀ l : Label, l.role = .golden → ∀ chain, (d.judged n (r.decided v kept stale) c a).drifted n l chain
        = (d.judged n (r.decided v kept stale) c a).labelled n l chain :=
      fun l hl chain => if_neg (by rw [hl]; decide)
    rw [hdrift _ hrole] at hcal hnotices
    obtain ⟨hcause, hpending⟩ := (NoticeArbiter.countPosting_spec _).cal hnotices n
    exact ⟨hcal, hcause, hpending⟩
  · rw [Device.finalVerdict_joins (Nat.not_lt.mp hf) hk]
    refine ⟨rfl, ?_⟩
    by_cases hq : d.labels.waitQueue = []
    · have hne : calSource n ≠ ringFullSource := fun h => by
        have h := congrArg Fin.val h
        simp only [ringFullSource, calSource] at h
        change _ = 13 at h
        omega
      rw [if_pos hq]
      exact ⟨rfl, NoticeArbiter.raise_pending_ne _ hne⟩
    · rw [if_neg hq]
      exact ⟨rfl, rfl⟩

theorem goldenClass_eq {p : Plan} {f : FailureSet} : goldenClass p r f
    = if hasFailure f .noise ∨ hasFailure f .levelLock ∨ hasFailure f .noSignal ∨ hasFailure f .fixture then .void
      else if ∀ i : BandId, i.val < p.header.bandCount → (deviation p r i).natAbs ≤ p.header.adjustLimit then .pass
      else .fail := by
  have hall : (p.bandIds.all fun i => decide ((deviation p r i).natAbs ≤ p.header.adjustLimit)) = true
      ↔ ∀ i : BandId, i.val < p.header.bandCount → (deviation p r i).natAbs ≤ p.header.adjustLimit := by
    rw [List.all_eq_true]
    exact forall_congr' fun i => imp_congr (p.mem_bandIds i) decide_eq_true_iff
  rw [goldenClass]
  refine if_congr ?_ rfl (if_congr hall rfl rfl)
  rw [Bool.or_eq_true, Bool.or_eq_true, Bool.or_eq_true, or_assoc, or_assoc]

/-! ## The mean of a band (R90, R128) -/

theorem deviation_of_exact {p : Plan} {i : BandId} (hc : 1 ≤ (r.accumulators[i]).windowCount)
    (h : (r.accumulators[i]).uncorrectedSum % (r.accumulators[i]).windowCount = 0) :
    deviation p r i = (r.accumulators[i]).uncorrectedSum / (r.accumulators[i]).windowCount - (p.references[i]).response := by
  have hmean : (r.accumulators[i]).mean = some ((r.accumulators[i]).uncorrectedSum / (r.accumulators[i]).windowCount) := by
    rw [Accumulator.mean, if_neg (Nat.one_le_iff_ne_zero.mp hc)]
    exact if_pos h
  rw [deviation, hmean]
  rfl

theorem deviation_of_between {p : Plan} {i : BandId} (hc : 1 ≤ (r.accumulators[i]).windowCount)
    (h : (r.accumulators[i]).uncorrectedSum % (r.accumulators[i]).windowCount ≠ 0) :
    deviation p r i = (r.accumulators[i]).uncorrectedSum / (r.accumulators[i]).windowCount - (p.references[i]).response
    ∨ deviation p r i = (r.accumulators[i]).uncorrectedSum / (r.accumulators[i]).windowCount + 1
        - (p.references[i]).response := by
  have hmean : (r.accumulators[i]).mean = some (if Config.meanRoundsUp (r.accumulators[i]).uncorrectedSum
        (r.accumulators[i]).windowCount then (r.accumulators[i]).uncorrectedSum / (r.accumulators[i]).windowCount + 1
      else (r.accumulators[i]).uncorrectedSum / (r.accumulators[i]).windowCount) := by
    rw [Accumulator.mean, if_neg (Nat.one_le_iff_ne_zero.mp hc)]
    exact if_neg h
  rw [deviation, hmean]
  split
  · exact .inr rfl
  · exact .inl rfl

end

end Sys2Proof.Machine

namespace Sys2Proof.Machine

theorem actMark_golden (c : LabelClass) : actMark (goldenVerdict c).actions = false := by cases c <;> decide

theorem goldenVerdict_actions (c : LabelClass) : (goldenVerdict c).actions = if c = .pass then 4 else 0 := rfl

/-- The failure set of a judged golden unit (R90). -/
theorem goldenRecord_failures {p : Plan} {r : UnitRecord} : addUnmeasured p r r.failures
    = if (∃ i : BandId, i.val < p.header.bandCount ∧ (r.accumulators[i]).windowCount = 0)
        ∧ hasFailure r.failures .noise = false ∧ hasFailure r.failures .levelLock = false
      then addFailure r.failures .noSignal else r.failures := by
  split
  · rename_i h
    obtain ⟨hu, hn, hl⟩ := h
    exact addUnmeasured_of hu hn hl
  · rename_i h
    exact addUnmeasured_of_not h

/-- A golden label counts LABELLED and GOLDEN alone (R113, Table 6-2). -/
theorem counted_golden {role : Role} (x : Counters) (h : role = .golden) (bin : Option (Fin 16)) (marginal : Bool) :
    counted x role bin marginal = counted x .golden none false := by
  subst h
  rfl

theorem calSource_ne_ringFull (n : NestId) : calSource n ≠ ringFullSource := fun h => by
  have h := congrArg Fin.val h
  simp only [ringFullSource, calSource] at h
  change _ = 13 at h
  omega

theorem Device.finalVerdict_ringFull {d : Device} {n : NestId} {r : UnitRecord} {c : CalibrationStore} {a : NoticeArbiter}
    {v : Verdict} {kept stale : Bool} (hf : 64 ≤ d.labels.posted)
    (hk : kept = captureKept v.override (d.planOf r).header.capturePolicy v.cls) :
    ((d.judged n r c a).finalVerdict n v stale).notices.pending[ringFullSource]
      = (a.pending[ringFullSource] || decide (d.labels.waitQueue = [])) := by
  rw [Device.finalVerdict_joins hf hk]
  by_cases hq : d.labels.waitQueue = []
  · rw [decide_eq_true hq, Bool.or_true, if_pos hq]
    exact NoticeArbiter.raise_pending_same _ _
  · rw [decide_eq_false hq, Bool.or_false, if_neg hq]

/-- Settles O60. -/
theorem goldenJudging : Obligations.GoldenJudging := by
  refine ⟨fun s n r p f c kept hs hr hrole hp hf hk hc => ?_,
    fun c => ⟨hasFailure_zero c, fun f b => hasFailure_addFailure_eq f c b⟩,
    fun p r i hcount => ⟨deviation_of_exact hcount, deviation_of_between hcount⟩⟩
  rw [← goldenRecord_failures] at hf
  subst hp hf
  have hc : c = goldenClass (s.dev.planOf r) (s.dev.goldenRecord r) (s.dev.goldenRecord r).failures :=
    hc.trans goldenClass_eq.symm
  have hkept : kept = captureKept (goldenVerdict c).override (s.dev.planOf r).header.capturePolicy c := by
    rw [Bool.eq_iff_iff, captureKept_iff, hk]
    simp [goldenVerdict]
  have happlied := s.dev.applied_spec n (s.dev.goldenRecord r) c
  have hexec := exec_judgeComplete_golden hs hr hrole
  rw [Device.goldenComplete_eq hr] at hexec
  have hclass : goldenClass (s.dev.planOf (s.dev.goldenRecord r)) (s.dev.goldenRecord r) (s.dev.goldenRecord r).failures
    = c := hc.symm
  rw [hclass] at hexec
  generalize (s.dev.applied n (s.dev.goldenRecord r) c).calibration = ca at happlied hexec
  generalize (s.dev.applied n (s.dev.goldenRecord r) c).notices = na at happlied hexec
  obtain ⟨hcal, hcause, hpending⟩ := Device.finalVerdict_golden (d := s.dev) (n := n) (r := s.dev.goldenRecord r) (c := ca)
    (a := na) (v := goldenVerdict c) (stale := s.dev.isStale n (s.dev.goldenRecord r)) hrole
  have hposts := fun hfree => Device.finalVerdict_posts (d := s.dev) (n := n) (r := s.dev.goldenRecord r) (c := ca)
    (a := na) (v := goldenVerdict c) (stale := s.dev.isStale n (s.dev.goldenRecord r)) hfree hkept
  have hwaits := fun hfull => Device.finalVerdict_waits (d := s.dev) (n := n) (r := s.dev.goldenRecord r) (c := ca)
    (a := na) (v := goldenVerdict c) (stale := s.dev.isStale n (s.dev.goldenRecord r)) hfull hkept
  have hring := fun hfull => Device.finalVerdict_ringFull (d := s.dev) (n := n) (r := s.dev.goldenRecord r) (c := ca)
    (a := na) (v := goldenVerdict c) (stale := s.dev.isStale n (s.dev.goldenRecord r)) hfull hkept
  generalize (s.dev.judged n (s.dev.goldenRecord r) ca na).finalVerdict n (goldenVerdict c)
    (s.dev.isStale n (s.dev.goldenRecord r)) = e at hexec hcal hcause hpending hposts hwaits hring
  obtain ⟨hothers, hstale, hfresh, hdrift, hchanged, hsame, hkeeps⟩ := happlied
  refine ⟨_, hexec, rfl, fun m q h => ?_, fun h => ?_, ?_, fun h => ?_, fun h => ?_, ?_, fun h => ?_, fun hfree => ?_,
    fun hfull => ?_⟩
  · rw [hcal]
    exact hothers m q h
  · rw [hcal]
    exact hstale h
  · rw [hcal]
    exact hdrift
  · rw [hcal] at h
    rw [hcause, hpending]
    exact hchanged h
  · rw [hcal] at h
    rw [hcause, hpending, hsame h]
    exact ⟨rfl, rfl⟩
  · split
    · rename_i hfree
      exact (hposts hfree).history
    · rename_i hfull
      exact (hwaits (Nat.not_lt.mp hfull)).history
  · have happly : ca.record n r.plan
        = applyGolden (s.dev.calibration.record n r.plan) (s.dev.planOf r) (s.dev.goldenRecord r) c := hfresh h
    rw [hcal]
    refine ⟨?_, fun hv => ?_, fun hv => ?_, fun hv => ?_⟩
    · rw [happly]
      cases c <;> rfl
    · rw [happly, hv]
      rfl
    · rw [happly, hv]
      exact ⟨rfl, fun i => Vector.getElem_ofFn i.isLt⟩
    · rw [happly, hv]
      exact ⟨rfl, rfl⟩
  · obtain ⟨hring, _, _, hpool, _, hyields, _, hstate, hclaims⟩ := hposts hfree
    refine ⟨hring.trans ?_, hpool, ?_, hclaims, ?_⟩
    · rw [verdictLabel_golden (r := (s.dev.goldenRecord r).decided (goldenVerdict c) kept _) _ _ hrole rfl]
      rfl
    · rw [hstate, actMark_golden, if_neg Bool.false_ne_true]
    · rw [hyields, counted_golden (role := (s.dev.goldenRecord r).role) _ hrole]
  · obtain ⟨hstate, hrecord, _, hlabels, htables, hyields, hpool⟩ := hwaits hfull
    refine ⟨hstate, hrecord, (congrArg LabelUnit.waitQueue hlabels).trans rfl,
      (congrArg LabelUnit.ring hlabels).trans rfl, hpool, htables, hyields, ?_⟩
    rw [hring hfull, hkeeps _ (calSource_ne_ringFull n).symm]

end Sys2Proof.Machine

namespace Sys2Proof.Machine

/-! ## THE PERMIT ARBITER (O33) -/

theorem Group.onlyLoud_iff (x : Group) (n : NestId) : x.onlyLoud n = true ↔ ∀ m : NestId, m ≠ n → x.loud[m] = false := by
  rw [Group.onlyLoud, List.all_eq_true]
  refine ⟨fun h m hm => ?_, fun h m _ => ?_⟩
  · simpa [hm] using h m (List.mem_finRange m)
  · by_cases hm : m = n
    · simp [hm]
    · simp [h m hm]

section
variable {d : Device} {g : GroupId} {n : NestId} {rest : List NestId}

theorem Device.grantTest_of_holder (h : (d.group g).holder ≠ none) : d.grantTest g = d := by
  rcases d.grantTest_cases g with he | ⟨_, _, hnone, _, _⟩
  · exact he
  · exact absurd hnone h

theorem Device.grantTest_of_empty (h : (d.group g).queue = []) : d.grantTest g = d := by
  rcases d.grantTest_cases g with he | ⟨_, _, _, hq, _⟩
  · exact he
  · rw [h] at hq
    cases hq

theorem Device.grantTest_of_loud (hq : (d.group g).queue = n :: rest) (h : ¬ (d.group g).onlyLoud n = true) :
    d.grantTest g = d := by
  cases hh : (d.group g).holder with
  | none => simp only [Device.grantTest, hh, hq, if_neg h]
  | some m => exact Device.grantTest_of_holder (by rw [hh]; exact Option.some_ne_none m)

theorem Device.grantTest_grants (hh : (d.group g).holder = none) (hq : (d.group g).queue = n :: rest)
    (h : (d.group g).onlyLoud n = true) :
    d.grantTest g = (d.modGroup g fun x => { x with holder := some n, queue := rest }).beginStart n := by
  simp only [Device.grantTest, hh, hq, if_pos h]

theorem Device.modGroup_modGroup (f f' : Group → Group) : (d.modGroup g f).modGroup g f' = d.modGroup g fun x => f' (f x) := by
  simp [Device.modGroup]

theorem Device.modGroup_congr {f f' : Group → Group} (h : f (d.group g) = f' (d.group g)) :
    d.modGroup g f = d.modGroup g f' :=
  congrArg (fun x => { d with groups := d.groups.set g x }) h

theorem Device.modGroup_setNest (f : Group → Group) (x : Nest) :
    (d.modGroup g f).setNest n x = (d.setNest n x).modGroup g f := rfl

theorem Nest.started_quiet {x : Nest} (hs : x.state = .quietCheck) : x.started = { x with
    stageTimer := 0, quietCount := 0, quietSquares := 0
    record := x.record.map fun r => { r with sub := .measuring } } := by
  simp only [Nest.started, hs]

theorem Nest.started_lock {x : Nest} (hs : x.state = .levelLock) : x.started = { x with
    tone := { x.tone with mode := .lock, phase := 0, timer := 0, inTolerance := 0, intervals := 0, sense := [], pilot := [] }
    record := x.record.map fun r => { r with sub := .locking } } := by
  simp only [Nest.started, hs]

theorem Nest.started_sweep {x : Nest} (hs : x.state = .sweeping) : x.started = { x with
    tone := { x.tone with mode := .segment, phase := 0, timer := 0 }
    engine := { window := none, closed := 0 }
    record := x.record.map fun r => { r with sub := .running } } := by
  simp only [Nest.started, hs]

/-! ### The level of a start (R53) -/

/-- The level of the lock pilot at +12.0 dB (R37, R53). -/
theorem Device.exceedsThreshold_lock {r : UnitRecord} (hs : (d.nest n).state = .levelLock)
    (hr : (d.nest n).record = some r) : d.exceedsThreshold n
      = decide ((d.group (d.groupOf n)).threshold < min 0 ((d.planOf r).header.pilotLevel + 120)) := by
  simp only [Device.exceedsThreshold, hs, hr]
  rfl

theorem Device.exceedsThreshold_quiet (hs : (d.nest n).state = .quietCheck) : d.exceedsThreshold n = false := by
  cases hr : (d.nest n).record <;> simp only [Device.exceedsThreshold, hs, hr]

/-- Whether a start is loud depends on the nest, the tables and the threshold of its group alone. -/
theorem Device.exceedsThreshold_congr {e : Device} (hn : e.nest n = d.nest n) (ht : e.tables = d.tables)
    (hg : (e.group (e.groupOf n)).threshold = (d.group (d.groupOf n)).threshold) :
    e.exceedsThreshold n = d.exceedsThreshold n := by
  have hplan : ∀ r, e.planOf r = d.planOf r := fun r => by simp only [Device.planOf, ht]
  have hsegment : ∀ r, e.segmentOf r = d.segmentOf r := fun r => by simp only [Device.segmentOf, hplan]
  simp only [Device.exceedsThreshold, hn, hg, hplan, hsegment]

theorem Device.beginStart_quietStage (hs : (d.nest n).state = .quietCheck) :
    d.beginStart n = d.setNest n (d.nest n).started := by
  rw [Device.beginStart_eq, Device.exceedsThreshold_quiet hs]
  rfl

/-! ### A quiet start presented (R55) -/

theorem Device.presentStart_waits {r : UnitRecord} (hs : (d.nest n).state = .quietCheck) (hr : (d.nest n).record = some r) :
    d.presentStart n = ((d.setNest n { d.nest n with record := some { r with sub := .waitPermit } }).modGroup (d.groupOf n)
      fun x => { x with queue := x.queue ++ [n] }).grantTest (d.groupOf n) := by
  have hclass : d.startClass n = .quiet := by simp only [Device.startClass, hr, hs]
  simp only [Device.presentStart, hclass, Device.setSub_eq, hr, Option.map_some]

/-- The unit of a nest in QUIET_CHECK waits in the queue of its group. -/
def Device.queued (d : Device) (n : NestId) (r : UnitRecord) : Device :=
  (d.setNest n { d.nest n with record := some { r with sub := .waitPermit } }).modGroup (d.groupOf n)
    fun x => { x with queue := x.queue ++ [n] }

theorem Device.queued_group (r : UnitRecord) : (d.queued n r).group (d.groupOf n)
    = { d.group (d.groupOf n) with queue := (d.group (d.groupOf n)).queue ++ [n] } := by
  rw [Device.queued, Device.modGroup_group_same, Device.setNest_group]

theorem Device.presentStart_granted {r : UnitRecord} (hs : (d.nest n).state = .quietCheck)
    (hr : (d.nest n).record = some r) (hh : (d.group (d.groupOf n)).holder = none)
    (hq : (d.group (d.groupOf n)).queue = []) (hl : ∀ m, m ≠ n → (d.group (d.groupOf n)).loud[m] = false) :
    d.presentStart n = (d.setNest n { d.nest n with
        record := some { r with sub := .measuring }, stageTimer := 0, quietCount := 0, quietSquares := 0 }).modGroup
      (d.groupOf n) fun x => { x with holder := some n } := by
  have hgroup := Device.queued_group (d := d) (n := n) r
  rw [hq, List.nil_append] at hgroup
  have hgrant := Device.grantTest_grants (d := d.queued n r) (g := d.groupOf n) (n := n) (rest := [])
    (by rw [hgroup]; exact hh) (by rw [hgroup]) (by rw [hgroup]; exact (Group.onlyLoud_iff _ n).mpr hl)
  have hnest : (((d.queued n r).modGroup (d.groupOf n) fun x => { x with holder := some n, queue := [] }).nest n)
      = { d.nest n with record := some { r with sub := .waitPermit } } := by
    rw [Device.modGroup_nest, Device.queued, Device.modGroup_nest, Device.nest_setNest_same]
  rw [Device.presentStart_waits hs hr]
  change (d.queued n r).grantTest _ = _
  rw [hgrant, Device.beginStart_quietStage (by rw [hnest]; exact hs), hnest, Device.queued, Device.modGroup_modGroup]
  rw [Device.modGroup_setNest, Device.setNest_setNest,
    Nest.started_quiet (x := { d.nest n with record := some { r with sub := .waitPermit } }) hs]
  exact Device.modGroup_congr (by rw [Device.setNest_group, hq])

theorem Device.presentStart_queued {r : UnitRecord} (hs : (d.nest n).state = .quietCheck)
    (hr : (d.nest n).record = some r) (h : (d.group (d.groupOf n)).holder ≠ none
      ∨ ((d.group (d.groupOf n)).queue = [] ∧ ∃ m, m ≠ n ∧ (d.group (d.groupOf n)).loud[m] = true)) :
    d.presentStart n = d.queued n r := by
  have hgroup := Device.queued_group (d := d) (n := n) r
  rw [Device.presentStart_waits hs hr]
  change (d.queued n r).grantTest _ = _
  rcases h with h | ⟨hq, m, hm, hl⟩
  · exact Device.grantTest_of_holder (by rw [hgroup]; exact h)
  · rw [hq, List.nil_append] at hgroup
    refine Device.grantTest_of_loud (n := n) (rest := []) (by rw [hgroup]) fun k => ?_
    rw [hgroup, Group.onlyLoud_iff] at k
    rw [show (d.group (d.groupOf n)).loud[m] = false from k m hm] at hl
    cases hl

/-! ### The lock pilot presented (R53, R56) -/

/-- A nest that enters LEVEL_LOCK, before its pilot is presented (R37). -/
def Nest.lockEntering (x : Nest) : Nest :=
  { x with
    state := .levelLock
    tone := { x.tone with
      mode := .silent, gain := (x.record.bind fun r => r.lockedGain).getD 0, inTolerance := 0, intervals := 0
      sense := [], pilot := [] } }

theorem Device.enterLevelLock_eq (d : Device) (n : NestId) :
    d.enterLevelLock n = (d.setNest n (d.nest n).lockEntering).presentStart n := rfl

theorem Device.presentStart_held {r : UnitRecord} (hs : (d.nest n).state = .levelLock)
    (hr : (d.nest n).record = some r)
    (hlevel : (d.group (d.groupOf n)).threshold < min 0 ((d.planOf r).header.pilotLevel + 120)) {m : NestId}
    (hh : (d.group (d.groupOf n)).holder = some m) (hm : m ≠ n) :
    d.presentStart n = d.setNest n { d.nest n with record := some { r with sub := .held } } := by
  have hloud : d.exceedsThreshold n = true := by rw [Device.exceedsThreshold_lock hs hr, decide_eq_true hlevel]
  have hclass : d.startClass n = .loud := by simp only [Device.startClass, hr, hs, hloud, if_true]
  have hheld : ((d.group (d.groupOf n)).holder.any fun m => decide (m ≠ n)) = true := by
    rw [hh]
    exact decide_eq_true hm
  simp only [Device.presentStart, hclass]
  rw [if_pos hheld, Device.setSub_eq, hr]
  rfl

theorem Device.presentStart_begins {r : UnitRecord} (hs : (d.nest n).state = .levelLock)
    (hr : (d.nest n).record = some r)
    (h : (d.group (d.groupOf n)).threshold < min 0 ((d.planOf r).header.pilotLevel + 120) →
      ∀ m, (d.group (d.groupOf n)).holder = some m → m = n) : d.presentStart n = d.beginStart n := by
  by_cases hlevel : (d.group (d.groupOf n)).threshold < min 0 ((d.planOf r).header.pilotLevel + 120)
  · have hloud : d.exceedsThreshold n = true := by rw [Device.exceedsThreshold_lock hs hr, decide_eq_true hlevel]
    have hclass : d.startClass n = .loud := by simp only [Device.startClass, hr, hs, hloud, if_true]
    have hnot : ¬ ((d.group (d.groupOf n)).holder.any fun m => decide (m ≠ n)) = true := fun k => by
      obtain ⟨m, hm, hne⟩ := Option.any_eq_true _ _ |>.mp k
      exact of_decide_eq_true hne (h hlevel m hm)
    simp only [Device.presentStart, hclass]
    exact if_neg hnot
  · have hquiet : d.exceedsThreshold n = false := by rw [Device.exceedsThreshold_lock hs hr, decide_eq_false hlevel]
    have hclass : d.startClass n = .plain := by
      simp only [Device.startClass, hr, hs, hquiet, Bool.false_eq_true, if_false]
    simp only [Device.presentStart, hclass]

/-- The lock pilot begins, and joins the loud set where its level exceeds the threshold. -/
theorem Device.beginStart_lock {r : UnitRecord} (hs : (d.nest n).state = .levelLock) (hr : (d.nest n).record = some r) :
    d.beginStart n = if (d.group (d.groupOf n)).threshold < min 0 ((d.planOf r).header.pilotLevel + 120) then
        (d.setNest n (d.nest n).started).modGroup (d.groupOf n) fun x => { x with loud := x.loud.set n true }
      else d.setNest n (d.nest n).started := by
  rw [Device.beginStart_eq, Device.exceedsThreshold_lock hs hr]
  exact if_congr decide_eq_true_iff rfl rfl

end

end Sys2Proof.Machine

namespace Sys2Proof.Machine

/-! ## HELD STARTS THAT BEGIN (O33) -/

section
variable {d : Device} {g : GroupId} {n m : NestId}

theorem Device.beginStart_threshold (d : Device) (n : NestId) (k : GroupId) :
    ((d.beginStart n).group k).threshold = (d.group k).threshold := by
  rw [Device.beginStart_eq]
  split
  · by_cases hk : k = d.groupOf n
    · subst hk
      rw [Device.modGroup_group_same, Device.setNest_group]
    · rw [Device.modGroup_group_ne _ _ hk, Device.setNest_group]
  · rw [Device.setNest_group]

/-- A start that begins joins the loud set of its group where its drive exceeds the threshold (R56). -/
theorem Device.beginStart_loud (h : d.groupOf n = g) :
    ((d.beginStart n).group g).loud[n] = ((d.group g).loud[n] || d.exceedsThreshold n) := by
  subst h
  rw [Device.beginStart_eq]
  cases d.exceedsThreshold n with
  | true =>
    rw [if_pos rfl, Device.modGroup_group_same, Bool.or_true]
    exact Vector.getElem_set_self _
  | false =>
    rw [if_neg Bool.false_ne_true, Device.setNest_group, Bool.or_false]

theorem Device.beginStart_sameGroup (d : Device) (n m : NestId) : (d.beginStart n).groupOf m = d.groupOf m :=
  (d.beginStart_startsOnly n).groupOf m

theorem Device.beginStart_tables (d : Device) (n : NestId) : (d.beginStart n).tables = d.tables := by
  rw [(d.beginStart_startsOnly n).frame]

theorem Device.isHeld_iff : d.isHeld g n = true
    ↔ d.groupOf n = g ∧ ∃ r, (d.nest n).record = some r ∧ r.sub = .held := by
  rw [Device.isHeld, Bool.and_eq_true, decide_eq_true_eq, Option.any_eq_true]
  simp only [decide_eq_true_eq]

/-- The held starts of the nests `l` of group `g` have begun (R58). -/
structure HeldBegun (g : GroupId) (l : List NestId) (d e : Device) : Prop where
  begun : ∀ m ∈ l, e.nest m = (if d.isHeld g m then (d.nest m).started else d.nest m)
    ∧ (e.group g).loud[m] = ((d.group g).loud[m] || (d.isHeld g m && d.exceedsThreshold m))
  others : ∀ m, m ∉ l → e.nest m = d.nest m ∧ (e.group g).loud[m] = (d.group g).loud[m]
  holder : (e.group g).holder = (d.group g).holder
  queue : (e.group g).queue = (d.group g).queue

theorem Device.beginIfHeld_begun (d : Device) (g : GroupId) (n : NestId) : HeldBegun g [n] d (d.beginIfHeld g n) := by
  cases hh : d.isHeld g n with
  | true =>
    obtain ⟨hg, -⟩ := Device.isHeld_iff.mp hh
    obtain ⟨hholder, hqueue, hloud⟩ := d.beginStart_group n g
    rw [Device.beginIfHeld, if_pos hh]
    refine ⟨fun m hm => ?_, fun m hm => ?_, hholder, hqueue⟩
    · obtain rfl := List.mem_singleton.mp hm
      rw [if_pos hh, hh, Bool.true_and]
      exact ⟨d.beginStart_nest_same m, Device.beginStart_loud hg⟩
    · have hne : m ≠ n := fun k => hm (List.mem_singleton.mpr k)
      exact ⟨d.beginStart_nest_ne hne, hloud m hne⟩
  | false =>
    rw [Device.beginIfHeld, if_neg (by rw [hh]; exact Bool.false_ne_true)]
    refine ⟨fun m hm => ?_, fun m _ => ⟨rfl, rfl⟩, rfl, rfl⟩
    obtain rfl := List.mem_singleton.mp hm
    rw [hh, Bool.false_and, Bool.or_false]
    exact ⟨rfl, rfl⟩

theorem Device.beginIfHeld_congr (hm : m ≠ n) : (d.beginIfHeld g n).isHeld g m = d.isHeld g m
    ∧ (d.beginIfHeld g n).exceedsThreshold m = d.exceedsThreshold m := by
  rw [Device.beginIfHeld]
  split
  · have hnest := d.beginStart_nest_ne hm
    have hgroup := d.beginStart_sameGroup n m
    refine ⟨by rw [Device.isHeld, Device.isHeld, hnest, hgroup], ?_⟩
    exact Device.exceedsThreshold_congr hnest (d.beginStart_tables n) (by rw [hgroup, Device.beginStart_threshold])
  · exact ⟨rfl, rfl⟩

theorem Device.foldHeld_begun (g : GroupId) (l : List NestId) : ∀ d : Device, l.Nodup →
    HeldBegun g l d (l.foldl (Device.beginIfHeld g) d) := by
  induction l with
  | nil => exact fun d _ => ⟨fun m hm => absurd hm List.not_mem_nil, fun _ _ => ⟨rfl, rfl⟩, rfl, rfl⟩
  | cons n l ih =>
    intro d hl
    obtain ⟨hn, hl⟩ := List.nodup_cons.mp hl
    have hfirst := d.beginIfHeld_begun g n
    have hrest := ih (d.beginIfHeld g n) hl
    rw [List.foldl_cons]
    refine ⟨fun m hm => ?_, fun m hm => ?_, hrest.holder.trans hfirst.holder, hrest.queue.trans hfirst.queue⟩
    · rcases List.mem_cons.mp hm with rfl | hm
      · obtain ⟨hnest, hloud⟩ := hrest.others m hn
        rw [hnest, hloud]
        exact hfirst.begun m (List.mem_singleton_self m)
      · have hne : m ≠ n := fun k => hn (k ▸ hm)
        obtain ⟨hnest, hloud⟩ := hrest.begun m hm
        obtain ⟨hheld, hexceeds⟩ := Device.beginIfHeld_congr (d := d) (g := g) hne
        obtain ⟨hsame, hsameLoud⟩ := hfirst.others m fun k => hne (List.mem_singleton.mp k)
        rw [hnest, hloud, hheld, hexceeds, hsame, hsameLoud]
        exact ⟨rfl, rfl⟩
    · obtain ⟨hmn, hml⟩ := not_or.mp (List.mem_cons.not.mp hm)
      obtain ⟨hnest, hloud⟩ := hrest.others m hml
      obtain ⟨hsame, hsameLoud⟩ := hfirst.others m fun k => hmn (List.mem_singleton.mp k)
      exact ⟨hnest.trans hsame, hloud.trans hsameLoud⟩

/-! ### The permit given up (R55, R57, R58) -/

/-- The nest has given up the permit and its places, and the head of the queue is still to be granted. -/
def Device.gaveUp (d : Device) (n : NestId) : Device :=
  (d.setSub n .none).modGroup (d.groupOf n) fun x =>
    { x with
      holder := x.holder.filter fun m => decide (m ≠ n)
      queue := x.queue.filter fun m => decide (m ≠ n)
      loud := x.loud.set n false }

theorem Device.leaveArbiter_eq (d : Device) (n : NestId) :
    d.leaveArbiter n = ((d.gaveUp n).grantTest (d.groupOf n)).beginHeld (d.groupOf n) := rfl

theorem Device.gaveUp_nest (hm : m ≠ n) : (d.gaveUp n).nest m = d.nest m := by
  rw [Device.gaveUp, Device.modGroup_nest, Device.setSub_eq, Device.nest_setNest_ne _ _ hm]

theorem Device.gaveUp_group (hh : (d.group (d.groupOf n)).holder = some n) (hq : n ∉ (d.group (d.groupOf n)).queue) :
    (d.gaveUp n).group (d.groupOf n) = { d.group (d.groupOf n) with
      holder := none, loud := (d.group (d.groupOf n)).loud.set n false } := by
  have hfilter : (d.group (d.groupOf n)).queue.filter (fun m => decide (m ≠ n)) = (d.group (d.groupOf n)).queue :=
    List.filter_eq_self.mpr fun m hm => decide_eq_true fun k => hq (k ▸ hm)
  have hnone : (some n).filter (fun m => decide (m ≠ n)) = none :=
    Option.filter_eq_none_iff.mpr fun m hm => by simp_all
  rw [Device.gaveUp, Device.modGroup_group_same, Device.setSub_eq, Device.setNest_group, hh, hfilter, hnone]

theorem Device.gaveUp_loud_ne (hm : m ≠ n) : ((d.group g).loud.set n false)[m] = (d.group g).loud[m] :=
  Vector.getElem_set_ne n.isLt m.isLt fun k => hm (Fin.ext k.symm)

theorem Device.gaveUp_held (hm : m ≠ n) (hh : (d.group (d.groupOf n)).holder = some n)
    (hq : n ∉ (d.group (d.groupOf n)).queue) (hg : d.groupOf m = d.groupOf n) :
    (d.gaveUp n).isHeld (d.groupOf n) m = d.isHeld (d.groupOf n) m
    ∧ (d.gaveUp n).exceedsThreshold m = d.exceedsThreshold m := by
  have hnest := Device.gaveUp_nest (d := d) hm
  have hgroup : (d.gaveUp n).groupOf m = d.groupOf m := rfl
  refine ⟨by rw [Device.isHeld, Device.isHeld, hnest, hgroup], Device.exceedsThreshold_congr hnest rfl ?_⟩
  rw [hgroup, hg, Device.gaveUp_group hh hq]

/-- With an empty queue every held start of the group begins (R58). -/
theorem Device.leaveArbiter_begins (hh : (d.group (d.groupOf n)).holder = some n)
    (hq : (d.group (d.groupOf n)).queue = []) :
    HeldBegun (d.groupOf n) (List.finRange 4) (d.gaveUp n) (d.leaveArbiter n) := by
  have hgroup := Device.gaveUp_group hh (by rw [hq]; exact List.not_mem_nil)
  have hnone : ((d.gaveUp n).group (d.groupOf n)).holder = none := by rw [hgroup]
  have hempty : ((d.gaveUp n).group (d.groupOf n)).queue = [] := by rw [hgroup]; exact hq
  rw [Device.leaveArbiter_eq, Device.grantTest_of_empty hempty, Device.beginHeld, if_pos hnone]
  exact Device.foldHeld_begun _ _ _ (List.nodup_finRange 4)

/-- The head of the queue is granted the permit (R55). -/
theorem Device.leaveArbiter_grants {h : NestId} {rest : List NestId} (hh : (d.group (d.groupOf n)).holder = some n)
    (hn : n ∉ (d.group (d.groupOf n)).queue) (hq : (d.group (d.groupOf n)).queue = h :: rest)
    (hl : ∀ m, m ≠ n → m ≠ h → (d.group (d.groupOf n)).loud[m] = false) :
    d.leaveArbiter n = ((d.gaveUp n).modGroup (d.groupOf n) fun x => { x with holder := some h, queue := rest }).beginStart h
    ∧ ((d.leaveArbiter n).group (d.groupOf n)).holder = some h
    ∧ ((d.leaveArbiter n).group (d.groupOf n)).queue = rest := by
  have hgroup := Device.gaveUp_group hh hn
  have honly : ((d.gaveUp n).group (d.groupOf n)).onlyLoud h = true := by
    rw [Group.onlyLoud_iff, hgroup]
    intro m hm
    by_cases hmn : m = n
    · subst hmn
      exact Vector.getElem_set_self _
    · exact (Device.gaveUp_loud_ne hmn).trans (hl m hmn hm)
  have hgrant := Device.grantTest_grants (d := d.gaveUp n) (g := d.groupOf n) (n := h) (rest := rest)
    (by rw [hgroup]) (by rw [hgroup]; exact hq) honly
  obtain ⟨hholder, hqueue, -⟩ := Device.beginStart_group
    ((d.gaveUp n).modGroup (d.groupOf n) fun x => { x with holder := some h, queue := rest }) h (d.groupOf n)
  rw [Device.modGroup_group_same] at hholder hqueue
  have hleave : d.leaveArbiter n
      = ((d.gaveUp n).modGroup (d.groupOf n) fun x => { x with holder := some h, queue := rest }).beginStart h := by
    rw [Device.leaveArbiter_eq, hgrant, Device.beginHeld, if_neg]
    rw [hholder]
    exact Option.some_ne_none h
  rw [hleave]
  exact ⟨rfl, hholder, hqueue⟩

end

end Sys2Proof.Machine

namespace Sys2Proof.Machine

/-! ## THE PERMIT ARBITER AT WORK (O33) -/

section
variable {d : Device} {n : NestId} {r : UnitRecord}

/-- The part at the end of a settle, before the lock pilot is presented (R14, R37). -/
def Device.settled (d : Device) (n : NestId) : Device :=
  d.setNest n { d.nest n with settling := none }.lockEntering

theorem Device.settled_nest : (d.settled n).nest n = { d.nest n with settling := none }.lockEntering :=
  Device.nest_setNest_same d n _

theorem Device.settleEnd_eq : (d.setNest n { d.nest n with settling := none }).enterLevelLock n
    = (d.settled n).presentStart n := by
  rw [Device.enterLevelLock_eq, Device.nest_setNest_same, Device.setNest_setNest]
  rfl

theorem Device.settled_record (hr : (d.nest n).record = some r) : ((d.settled n).nest n).record = some r := by
  rw [Device.settled_nest]
  exact hr

theorem Device.settled_state : ((d.settled n).nest n).state = .levelLock := by
  rw [Device.settled_nest]
  rfl

/-- A lock pilot that begins, in the nest. -/
theorem Device.lockBegun_nest (hr : (d.nest n).record = some r) :
    (((d.settled n).beginStart n).nest n).record = some { r with sub := .locking }
    ∧ (((d.settled n).beginStart n).nest n).tone.mode = .lock ∧ (((d.settled n).beginStart n).nest n).tone.phase = 0
    ∧ (((d.settled n).beginStart n).nest n).tone.timer = 0 := by
  rw [Device.beginStart_nest_same, Nest.started_lock Device.settled_state, Device.settled_record hr]
  exact ⟨rfl, rfl, rfl, rfl⟩

theorem Device.lockBegun_groups (hr : (d.nest n).record = some r) : ((d.settled n).beginStart n).groups
    = if (d.group (d.groupOf n)).threshold < min 0 ((d.planOf r).header.pilotLevel + 120) then
        d.groups.set (d.groupOf n) { d.group (d.groupOf n) with loud := (d.group (d.groupOf n)).loud.set n true }
      else d.groups := by
  rw [Device.beginStart_lock Device.settled_state (Device.settled_record hr)]
  split
  · rename_i h
    exact (if_pos h).symm
  · rename_i h
    exact (if_neg h).symm

/-- The unit waits for another attempt, its permit given up (R62). -/
def Device.retrying (d : Device) (n : NestId) (r : UnitRecord) : Device :=
  (d.leaveArbiter n).setNest n { d.nest n with
    record := some { r with quietAttempts := r.quietAttempts + 1, sub := .retryWait }, stageTimer := 0 }

theorem Device.quietClose_retrying (hr : (d.nest n).record = some r) (hq : (d.nest n).isQuiet (d.planOf r).header = false)
    (hleft : r.quietAttempts < (d.planOf r).header.quietRetries) : d.quietClose n r = d.retrying n r := by
  simp only [Device.quietClose, hq, Bool.false_eq_true, if_false, if_pos hleft, Device.modRecord_eq, Device.modNest_eq,
    Device.nest_setNest_same, Device.setNest_setNest]
  rw [Device.leaveArbiter_record hr]
  rfl

theorem Device.retrying_nest {m : NestId} (hm : m ≠ n) : (d.retrying n r).nest m = (d.leaveArbiter n).nest m :=
  Device.nest_setNest_ne _ _ hm

/-- A held start that begins when its group has no holder (R58). -/
theorem Device.retrying_begins {m : NestId} {q : UnitRecord} (hh : (d.group (d.groupOf n)).holder = some n)
    (hq : (d.group (d.groupOf n)).queue = []) (hm : m ≠ n) (hg : d.groupOf m = d.groupOf n)
    (hr : (d.nest m).record = some q) (hheld : q.sub = .held) :
    (d.retrying n r).nest m = (d.nest m).started
    ∧ ((d.retrying n r).group (d.groupOf n)).loud[m]
      = ((d.group (d.groupOf n)).loud[m] || d.exceedsThreshold m) := by
  have hn : n ∉ (d.group (d.groupOf n)).queue := by rw [hq]; exact List.not_mem_nil
  have hgroup := Device.gaveUp_group hh hn
  obtain ⟨hisHeld, hexceeds⟩ := Device.gaveUp_held hm hh hn hg
  obtain ⟨hnest, hloud⟩ := (Device.leaveArbiter_begins hh hq).begun m (List.mem_finRange m)
  have hheld' : d.isHeld (d.groupOf n) m = true := Device.isHeld_iff.mpr ⟨hg, q, hr, hheld⟩
  have hloudSame : ((d.gaveUp n).group (d.groupOf n)).loud[m] = (d.group (d.groupOf n)).loud[m] := by
    rw [hgroup]
    exact Device.gaveUp_loud_ne hm
  rw [hisHeld, hheld', if_pos rfl, Device.gaveUp_nest hm] at hnest
  rw [hisHeld, hheld', Bool.true_and, hexceeds, hloudSame] at hloud
  exact ⟨(Device.retrying_nest hm).trans hnest, hloud⟩

/-- The head of the queue, granted the permit that nest `n` gave up (R55). -/
theorem Device.retrying_grants {h : NestId} {rest : List NestId} {q : UnitRecord}
    (hh : (d.group (d.groupOf n)).holder = some n) (hn : n ∉ (d.group (d.groupOf n)).queue)
    (hq : (d.group (d.groupOf n)).queue = h :: rest)
    (hl : ∀ m, m ≠ n → m ≠ h → (d.group (d.groupOf n)).loud[m] = false) (hr : (d.nest h).record = some q)
    (hs : (d.nest h).state = .quietCheck ∨ (d.nest h).state = .sweeping) :
    ((d.retrying n r).group (d.groupOf n)).holder = some h ∧ ((d.retrying n r).group (d.groupOf n)).queue = rest
    ∧ ((d.retrying n r).nest h).record = some { q with sub :=
        if (d.nest h).state = .quietCheck then .measuring else .running }
    ∧ ∀ m, m ≠ n → m ≠ h → (d.retrying n r).nest m = d.nest m := by
  have hhn : h ≠ n := fun k => hn (by rw [hq, k]; exact List.mem_cons_self)
  obtain ⟨hleave, hholder, hqueue⟩ := Device.leaveArbiter_grants hh hn hq hl
  refine ⟨hholder, hqueue, ?_, fun m hm hmh => ?_⟩
  · rw [Device.retrying_nest hhn, hleave, Device.beginStart_nest_same, Device.modGroup_nest, Device.gaveUp_nest hhn]
    rcases hs with hs | hs
    · rw [Nest.started_quiet hs, hr, if_pos hs]
      rfl
    · rw [Nest.started_sweep hs, hr, if_neg (by rw [hs]; decide)]
      rfl
  · rw [Device.retrying_nest hm, hleave, Device.beginStart_nest_ne _ hmh, Device.modGroup_nest, Device.gaveUp_nest hm]

end

/-- Settles O33. -/
theorem arbiterDecides : Obligations.ArbiterDecides := by
  refine ⟨fun s n r g hs hr hsub hdue hg => ⟨fun hh hq hl => ?_, fun h => ?_⟩,
    fun s n r g level run total hs hsettling hover hr hg hlevel => ?_,
    fun s n r g hs hr hsub hdue hg hquiet hleft hh hn => ?_⟩
  · subst hg
    exact ⟨_, exec_quietRetryWaitEnd hs hr hsub hdue, Device.presentStart_granted hs hr hh hq hl⟩
  · subst hg
    exact ⟨_, exec_quietRetryWaitEnd hs hr hsub hdue, Device.presentStart_queued hs hr h⟩
  · subst hg hlevel
    have hexec := exec_settleEnd (s := s) (n := n) (by
      simp only [Nest.settleOver, hs, hsettling, Option.any_some, decide_true, Bool.true_and]
      exact decide_eq_true hover)
    rw [Device.settleEnd_eq] at hexec
    have hstate := Device.settled_state (d := s.dev) (n := n)
    have hrecord := Device.settled_record hr
    refine ⟨fun hloud ⟨m, hm, hne⟩ => ⟨_, hexec, ?_⟩, fun hloud hnone => ⟨_, hexec, ?_⟩, fun hquiet => ⟨_, hexec, ?_⟩⟩
    · rw [Device.presentStart_held hstate hrecord hloud hm hne, Device.nest_setNest_same]
      exact ⟨rfl, by rw [Device.settled_nest]; rfl, rfl⟩
    · rw [Device.presentStart_begins hstate hrecord fun _ => hnone]
      obtain ⟨h1, h2, h3, h4⟩ := Device.lockBegun_nest hr
      exact ⟨h1, h2, h3, h4, (Device.lockBegun_groups hr).trans (if_pos hloud)⟩
    · rw [Device.presentStart_begins hstate hrecord fun hloud => absurd hloud (not_lt.mpr hquiet)]
      obtain ⟨h1, h2, h3, h4⟩ := Device.lockBegun_nest hr
      exact ⟨h1, h2, h3, h4, (Device.lockBegun_groups hr).trans (if_neg (not_lt.mpr hquiet))⟩
  · subst hg
    have hexec := exec_quietWindowClose hs hr hsub hdue
    rw [Device.quietClose_retrying hr hquiet hleft] at hexec
    refine ⟨_, hexec, fun hq => ?_, fun h rest q hq hl hr' hs' => Device.retrying_grants hh hn hq hl hr' hs'⟩
    have hbegun := Device.leaveArbiter_begins hh hq
    have hgroup := Device.gaveUp_group hh hn
    refine ⟨hbegun.holder.trans (by rw [hgroup]), hbegun.queue.trans (by rw [hgroup]; exact hq),
      fun m q hm hg hr' hheld => ?_⟩
    obtain ⟨hnest, hloud⟩ := Device.retrying_begins (r := r) hh hq hm hg hr' hheld
    refine ⟨fun hlock => ?_, fun hsweep => ?_, hloud⟩
    · rw [hnest, Nest.started_lock hlock, hr']
      exact ⟨rfl, rfl, rfl, rfl⟩
    · rw [hnest, Nest.started_sweep hsweep, hr']
      exact ⟨rfl, rfl, rfl, rfl⟩

end Sys2Proof.Machine

namespace Sys2Proof.Machine

/-! ## FLAGS THAT STAY SET (O18) -/

/-- Every notice flag that is set in `d` is set in `e`. -/
def Raises (d e : Device) : Prop := ∀ i : SourceId, d.notices.pending[i] = true → e.notices.pending[i] = true

theorem Raises.refl (d : Device) : Raises d d := fun _ h => h

theorem Raises.trans {d e f : Device} (h : Raises d e) (k : Raises e f) : Raises d f := fun i hi => k i (h i hi)

theorem Raises.of_eq {d e : Device} (h : e.notices.pending = d.notices.pending) : Raises d e := fun i hi => by
  rw [h]
  exact hi

theorem Device.setNest_raises (d : Device) (n : NestId) (x : Nest) : Raises d (d.setNest n x) := .of_eq rfl

theorem Device.freeChain_raises (d : Device) (c : Chain) : Raises d (d.freeChain c) := .of_eq rfl

theorem Device.raise_raises (d : Device) (j : SourceId) : Raises d (d.raise j) :=
  fun i hi => NoticeArbiter.raise_keeps _ j i hi

theorem Device.raiseCal_raises (d : Device) (n : NestId) (cause : CalCause) (p : Option PlanId) :
    Raises d (d.raiseCal n cause p) := fun i hi => NoticeArbiter.raise_keeps _ (calSource n) i hi

theorem Device.demoteRecords_raises (d : Device) (n : NestId) : Raises d (d.demoteRecords n) := by
  rw [Device.demoteRecords_eq]
  split
  · exact fun i hi => NoticeArbiter.raise_keeps _ (calSource n) i hi
  · exact .of_eq rfl

theorem Device.enterDrift_raises (d : Device) (n : NestId) (marginal : Bool) : Raises d (d.enterDrift n marginal) := by
  obtain ⟨w, hw⟩ : ∃ w, d.calibration.drift[n] = w := ⟨_, rfl⟩
  obtain ⟨k, hk⟩ : ∃ k, k = if marginal then w.marginals + 1 else w.marginals := ⟨_, rfl⟩
  have hplain : ∀ x, Raises d (d.withDrift n x) := fun x => .of_eq rfl
  rw [d.enterDrift_eq n marginal hw hk]
  split
  · exact hplain _
  · split
    · exact (hplain _).trans (Device.demoteRecords_raises _ n)
    · exact hplain _

theorem NoticeArbiter.countPosting_raises (a : NoticeArbiter) (i : SourceId) (h : a.pending[i] = true) :
    a.countPosting.pending[i] = true := by
  have hcount := a.countPosting_spec
  by_cases hi : i = labelsSource
  · subst hi
    exact hcount.pending.trans (by rw [h, Bool.true_or])
  · rw [hcount.others i hi]
    exact h

theorem Device.postLabel_raises (d : Device) (n : NestId) (l : Label) (chain : Option Chain) :
    Raises d (d.postLabel n l chain) := fun i hi => by
  have hlabelled : Raises d (d.labelled n l chain) := .of_eq rfl
  have hdrift : Raises d (d.drifted n l chain) := by
    rw [Device.drifted]
    split
    · exact hlabelled.trans (Device.enterDrift_raises _ n _)
    · exact hlabelled
  rw [Device.postLabel_notices]
  exact NoticeArbiter.countPosting_raises _ i (hdrift i hi)

theorem Device.endInTest_raises (d : Device) (n : NestId) (r : UnitRecord) : Raises d (d.endInTest n r) := by
  have hunpin : Raises d (d.unpin r.bank) := by
    rw [Device.unpin]
    split
    · exact Raises.trans (Raises.of_eq rfl) (Device.raise_raises _ _)
    · exact .of_eq rfl
  refine hunpin.trans (.of_eq ?_)
  rw [Device.endInTest, ((d.unpin r.bank).leaveArbiter_startsOnly n).frame]

theorem Device.discardUnit_raises (d : Device) (n : NestId) (r : UnitRecord) : Raises d (d.discardUnit n r) :=
  Raises.trans (Raises.of_eq rfl) ((Device.endInTest_raises (({ d with labels := { d.labels with
    waitQueue := d.labels.waitQueue.filter fun m => decide (m ≠ n) } } : Device).freeChain r.chain) n r).trans (.of_eq rfl))

theorem Device.enterFault_raises (d : Device) (n : NestId) :
    Raises d (d.enterFault n) ∧ (d.enterFault n).notices.pending[nestFaultSource n] = true := by
  rw [Device.enterFault_eq]
  exact ⟨Raises.trans (Raises.of_eq rfl) (Device.raise_raises _ _), NoticeArbiter.raise_pending_same _ _⟩

/-! ## A UNIT THAT ENDS AT LINK LOSS (O18) -/

section
variable {d : Device} {n : NestId} {r : UnitRecord}

/-- The part after a unit has ended early with LINK, before its nest enters FAULT. -/
def Device.linkEnded (d : Device) (n : NestId) (r : UnitRecord) : Device :=
  if d.labels.hasFree then
    (((d.setNest n ((d.nest n).endingEarly .link)).postLabel n
      (earlyEndLabel d.labels.counter n { r with failures := addFailure r.failures .link }) none).freeChain
        r.chain).endInTest n { r with failures := addFailure r.failures .link }
  else (d.setNest n ((d.nest n).endingEarly .link)).discardUnit n { r with failures := addFailure r.failures .link }

theorem Device.earlyEnd_link (hr : (d.nest n).record = some r) :
    d.earlyEnd n .link = (d.linkEnded n r).enterFault n := by
  rw [Device.earlyEnd_eq .link hr, Device.afterEnd, if_pos rfl]
  rfl

theorem Device.linkEnded_raises (d : Device) (n : NestId) (r : UnitRecord) : Raises d (d.linkEnded n r) := by
  rw [Device.linkEnded]
  split
  · exact (Device.setNest_raises d n _).trans ((Device.postLabel_raises _ n _ none).trans
      ((Device.freeChain_raises _ r.chain).trans (Device.endInTest_raises _ n _)))
  · exact (Device.setNest_raises d n _).trans (Device.discardUnit_raises _ n _)

/-- The pins after a unit of bank `b` has ended. -/
theorem Device.endInTest_pins (d : Device) (n : NestId) (r : UnitRecord) (b : BankId) :
    ((d.endInTest n r).tables.bank b).pins = (d.tables.bank b).pins - if r.bank = b then 1 else 0 := by
  obtain ⟨u, hu, htables, -⟩ := (d.endInTest_spec n r).pin
  rw [htables]
  by_cases h : r.bank = b
  · subst h
    rw [hu.pins, if_pos rfl]
  · rw [hu.others b fun k => h k.symm, if_neg h, Nat.sub_zero]

theorem Device.discardUnit_pins (d : Device) (n : NestId) (r : UnitRecord) (b : BankId) :
    ((d.discardUnit n r).tables.bank b).pins = (d.tables.bank b).pins - if r.bank = b then 1 else 0 :=
  Device.endInTest_pins (({ d with labels := { d.labels with
    waitQueue := d.labels.waitQueue.filter fun m => decide (m ≠ n) } } : Device).freeChain r.chain) n r b

theorem Device.linkEnded_pins (d : Device) (n : NestId) (r : UnitRecord) (b : BankId) :
    ((d.linkEnded n r).tables.bank b).pins = (d.tables.bank b).pins - if r.bank = b then 1 else 0 := by
  rw [Device.linkEnded]
  split
  · refine (Device.endInTest_pins _ n _ b).trans ?_
    have htables : ((d.setNest n ((d.nest n).endingEarly .link)).postLabel n
        (earlyEndLabel d.labels.counter n { r with failures := addFailure r.failures .link }) none).tables = d.tables := by
      rw [(Device.postLabel_spec _ n _ none).frame]
      rfl
    exact congrArg (fun t : TableStore => (t.bank b).pins - if r.bank = b then 1 else 0) htables
  · exact Device.discardUnit_pins _ n _ b

end

end Sys2Proof.Machine

namespace Sys2Proof.Machine

/-! ## WHAT A NEST DOES AT LINK LOSS (O18) -/

/-- The unit of a nest is in test and pinned to a bank. -/
def Device.pinnedBy (d : Device) (b : BankId) (n : NestId) : Bool :=
  (d.nest n).state.inTest && (d.nest n).record.any fun r => decide (r.bank = b)

theorem Device.pinnedBy_of {d : Device} {n : NestId} {r : UnitRecord} (hs : (d.nest n).state.inTest = true)
    (hr : (d.nest n).record = some r) (b : BankId) :
    (if d.pinnedBy b n then 1 else 0) = if r.bank = b then 1 else 0 := by
  rw [Device.pinnedBy, hs, hr, Bool.true_and, Option.any_some]
  exact if_congr decide_eq_true_iff rfl rfl

theorem Device.pinnedBy_of_not {d : Device} {n : NestId} (hs : (d.nest n).state.inTest = false) (b : BankId) :
    d.pinnedBy b n = false := by
  rw [Device.pinnedBy, hs, Bool.false_and]

/-- A nest whose link is lost stands in FAULT afterwards (R27). -/
def NestState.loses (st : NestState) : Prop := st.testStage = true ∨ st = .releasing

/-- What nest `n` does at link loss. -/
structure LossStep (d e : Device) (n : NestId) : Prop where
  others : ∀ m, m ≠ n → SameButStart (d.nest m) (e.nest m) ∧ e.yields.live[m] = d.yields.live[m]
  faults : (d.nest n).state.loses → (e.nest n).state = .fault ∧ (e.nest n).record = none
    ∧ e.notices.pending[nestFaultSource n] = true
  stays : ¬ (d.nest n).state.loses → (e.nest n).state = (d.nest n).state
  raises : Raises d e
  fixture : e.fixture = d.fixture
  nestPort : e.nestPort = d.nestPort
  pins : ∀ b, (e.tables.bank b).pins = (d.tables.bank b).pins - if d.pinnedBy b n then 1 else 0
  labelled : ∀ r, (d.nest n).record = some r → (d.nest n).state.endsEarly = true → d.labels.posted < 64 →
    e.labels = d.labels.put
      { label := earlyEndLabel d.labels.counter n { r with failures := addFailure r.failures .link }, chain := none }
    ∧ (e.yields.live[n]).labelled = (d.yields.live[n]).labelled + 1
    ∧ (e.yields.live[n]).discarded = (d.yields.live[n]).discarded
  discarded : ((d.nest n).state.endsEarly = true ∧ 64 ≤ d.labels.posted) ∨ (d.nest n).state = .labelWait →
    e.labels = { d.labels with waitQueue := d.labels.waitQueue.filter fun m => decide (m ≠ n) }
    ∧ (e.yields.live[n]).discarded = (d.yields.live[n]).discarded + 1
    ∧ (e.yields.live[n]).labelled = (d.yields.live[n]).labelled
  unlabelled : (d.nest n).state.endsEarly = false → (d.nest n).state ≠ .labelWait → e.labels = d.labels

section
variable {d : Device} {n : NestId} {r : UnitRecord}

theorem NestState.loses_of_inTest {st : NestState} (h : st.inTest = true) : st.loses :=
  .inl (NestState.testStage_of_inTest h)

theorem Device.lossStep_labelled (hr : (d.nest n).record = some r) (hs : (d.nest n).state.endsEarly = true)
    (hf : d.labels.posted < 64) : LossStep d (d.earlyEnd n .link) n := by
  obtain ⟨⟨hlabels, _, _, hlive, hrecord, hport, _, hfix, _, _, _, hlives, hnests⟩, hstate, -⟩ :=
    Device.earlyEnd_labels .link hr hf
  have hraises := d.linkEnded_raises n r
  obtain ⟨hfault, hpending⟩ := (d.linkEnded n r).enterFault_raises n
  have htest := NestState.inTest_of_endsEarly hs
  have heq := Device.earlyEnd_link hr
  refine ⟨fun m hm => ⟨hnests m hm, hlives m hm⟩, fun _ => ⟨hstate.trans (if_pos rfl), hrecord, ?_⟩,
    fun h => absurd (NestState.loses_of_inTest htest) h, ?_, hfix, hport, fun b => ?_, fun q hq _ _ => ?_, fun h => ?_,
    fun h => ?_⟩
  · rw [heq]
    exact hpending
  · rw [heq]
    exact hraises.trans hfault
  · rw [heq, Device.pinnedBy_of htest hr]
    exact d.linkEnded_pins n r b
  · obtain rfl := Option.some.inj (hr.symm.trans hq)
    rw [hlive]
    exact ⟨hlabels, rfl, rfl⟩
  · rcases h with ⟨_, h⟩ | h
    · exact absurd hf (Nat.not_lt.mpr h)
    · rw [h] at hs
      cases hs
  · rw [h] at hs
    cases hs

theorem Device.lossStep_full (hr : (d.nest n).record = some r) (hs : (d.nest n).state.endsEarly = true)
    (hf : 64 ≤ d.labels.posted) : LossStep d (d.earlyEnd n .link) n := by
  obtain ⟨⟨hlabels, _, _, hlive, _, hrecord, hport, _, hfix, _, _, _, hlives, hnests⟩, hstate, -⟩ :=
    Device.earlyEnd_discards .link hr hf
  have hraises := d.linkEnded_raises n r
  obtain ⟨hfault, hpending⟩ := (d.linkEnded n r).enterFault_raises n
  have htest := NestState.inTest_of_endsEarly hs
  have heq := Device.earlyEnd_link hr
  refine ⟨fun m hm => ⟨hnests m hm, hlives m hm⟩, fun _ => ⟨hstate.trans (if_pos rfl), hrecord, ?_⟩,
    fun h => absurd (NestState.loses_of_inTest htest) h, ?_, hfix, hport, fun b => ?_,
    fun _ _ _ h => absurd h (Nat.not_lt.mpr hf), fun _ => ?_, fun h => ?_⟩
  · rw [heq]
    exact hpending
  · rw [heq]
    exact hraises.trans hfault
  · rw [heq, Device.pinnedBy_of htest hr]
    exact d.linkEnded_pins n r b
  · rw [hlive]
    exact ⟨hlabels, rfl, rfl⟩
  · rw [h] at hs
    cases hs

theorem Device.lossStep_waiting (hr : (d.nest n).record = some r) (hs : (d.nest n).state = .labelWait) :
    LossStep d ((d.discardUnit n r).enterFault n) n := by
  obtain ⟨y, hy, hx⟩ := (d.discardUnit n r).enterFault_exits n
  obtain ⟨hlabels, _, _, hlive, _, hrecord, hport, _, hfix, _, _, _, hlives, hnests⟩ :=
    Device.discardUnit_discards (a := ((d.discardUnit n r).enterFault n).notices) hx
  obtain ⟨hfault, hpending⟩ := (d.discardUnit n r).enterFault_raises n
  have heq : { (d.discardUnit n r).setNest n y with notices := ((d.discardUnit n r).enterFault n).notices }
      = (d.discardUnit n r).enterFault n := by rw [hy]; rfl
  rw [heq] at hlabels hlive hrecord hport hfix hlives hnests
  have htest : (d.nest n).state.inTest = true := by rw [hs]; rfl
  refine ⟨fun m hm => ⟨hnests m hm, hlives m hm⟩, fun _ => ⟨?_, hrecord, hpending⟩,
    fun h => absurd (NestState.loses_of_inTest htest) h, (d.discardUnit_raises n r).trans hfault, hfix, hport, fun b => ?_,
    fun _ _ h => ?_, fun _ => ?_, fun _ h => absurd hs h⟩
  · rw [hy, Device.raise_nest, Device.nest_setNest_same, hx.state]
  · rw [Device.pinnedBy_of htest hr]
    exact d.discardUnit_pins n r b
  · rw [hs] at h
    cases h
  · rw [hlive]
    exact ⟨hlabels, rfl, rfl⟩

theorem Device.lossStep_fault (hs : (d.nest n).state = .marking ∨ (d.nest n).state = .releasing) :
    LossStep d (d.enterFault n) n := by
  obtain ⟨hfault, hpending⟩ := d.enterFault_raises n
  have hout : (d.nest n).state.inTest = false ∧ (d.nest n).state.endsEarly = false ∧ (d.nest n).state ≠ .labelWait
      ∧ (d.nest n).state.loses := by
    rcases hs with hs | hs <;> rw [hs]
    · exact ⟨rfl, rfl, by decide, .inl rfl⟩
    · exact ⟨rfl, rfl, by decide, .inr rfl⟩
  obtain ⟨htest, hearly, hwait, hloses⟩ := hout
  rw [Device.enterFault_eq] at hfault hpending ⊢
  refine ⟨fun m hm => ⟨?_, rfl⟩, fun _ => ⟨?_, ?_, hpending⟩, fun h => absurd hloses h, hfault, rfl, rfl, fun b => ?_,
    fun _ _ h => ?_, fun h => ?_, fun _ _ => rfl⟩
  · rw [Device.raise_nest, Device.nest_setNest_ne _ _ hm]
    exact SameButStart.refl _
  · rw [Device.raise_nest, Device.nest_setNest_same]
  · rw [Device.raise_nest, Device.nest_setNest_same]
  · rw [Device.pinnedBy_of_not htest]
    rfl
  · rw [hearly] at h
    cases h
  · rcases h with ⟨h, _⟩ | h
    · rw [hearly] at h
      cases h
    · exact absurd h hwait

theorem Device.lossStep_none (hs : (d.nest n).state = .empty ∨ (d.nest n).state = .loaded ∨ (d.nest n).state = .done
    ∨ (d.nest n).state = .fault) : LossStep d d n := by
  have hout : (d.nest n).state.inTest = false ∧ (d.nest n).state.endsEarly = false ∧ (d.nest n).state ≠ .labelWait
      ∧ ¬ (d.nest n).state.loses := by
    rcases hs with hs | hs | hs | hs <;> rw [hs] <;>
      exact ⟨rfl, rfl, by decide, fun h => h.elim (by decide) (by decide)⟩
  obtain ⟨htest, hearly, hwait, hloses⟩ := hout
  refine ⟨fun m _ => ⟨SameButStart.refl _, rfl⟩, fun h => absurd h hloses, fun _ => rfl, .refl d, rfl, rfl, fun b => ?_,
    fun _ _ h => ?_, fun h => ?_, fun _ _ => rfl⟩
  · rw [Device.pinnedBy_of_not htest]
    rfl
  · rw [hearly] at h
    cases h
  · rcases h with ⟨h, _⟩ | h
    · rw [hearly] at h
      cases h
    · exact absurd h hwait

theorem Device.linkLossNest_step (h : (d.nest n).record.isSome = (d.nest n).state.testStage) :
    LossStep d (d.linkLossNest n) n := by
  have hrec : (d.nest n).state.testStage = true → ∃ r, (d.nest n).record = some r := fun k =>
    Option.isSome_iff_exists.mp (h.trans k)
  have hends : (d.nest n).state.endsEarly = true → LossStep d (d.earlyEnd n .link) n := fun hs => by
    obtain ⟨r, hr⟩ := hrec (NestState.testStage_of_inTest (NestState.inTest_of_endsEarly hs))
    by_cases hf : d.labels.posted < 64
    · exact Device.lossStep_labelled hr hs hf
    · exact Device.lossStep_full hr hs (Nat.not_lt.mp hf)
  cases hs : (d.nest n).state with
  | clamping | levelLock | quietCheck | sweeping | judging =>
    have heq : d.linkLossNest n = d.earlyEnd n .link := by simp only [Device.linkLossNest, hs]
    rw [heq]
    exact hends (by rw [hs]; rfl)
  | labelWait =>
    obtain ⟨r, hr⟩ := hrec (by rw [hs]; rfl)
    have heq : d.linkLossNest n = (d.discardUnit n r).enterFault n := by simp only [Device.linkLossNest, hs, hr]
    rw [heq]
    exact Device.lossStep_waiting hr hs
  | marking =>
    have heq : d.linkLossNest n = d.enterFault n := by simp only [Device.linkLossNest, hs]
    rw [heq]
    exact Device.lossStep_fault (.inl hs)
  | releasing =>
    have heq : d.linkLossNest n = d.enterFault n := by simp only [Device.linkLossNest, hs]
    rw [heq]
    exact Device.lossStep_fault (.inr hs)
  | empty | loaded | done | fault =>
    have heq : d.linkLossNest n = d := by simp only [Device.linkLossNest, hs]
    rw [heq]
    exact Device.lossStep_none (by rw [hs]; simp)

end

end Sys2Proof.Machine

namespace Sys2Proof.Machine

/-! ## LINK LOSS, NEST BY NEST (O18) -/

/-- The nests of `l` whose units end early. -/
def Device.endingNests (d : Device) (l : List NestId) : List NestId := l.filter fun m => (d.nest m).state.endsEarly

/-- The number of labels that the nests of `l` post at link loss: one for each unit that ends, while an entry is free. -/
def Device.lossLabels (d : Device) (l : List NestId) : Nat := min (d.endingNests l).length (64 - d.labels.posted)

/-- The nests `l`, taken in their order, have acted on the loss of the link. -/
structure LinkLost (d e : Device) (l : List NestId) : Prop where
  others : ∀ m, m ∉ l → SameButStart (d.nest m) (e.nest m) ∧ e.yields.live[m] = d.yields.live[m]
  faults : ∀ n ∈ l, (d.nest n).state.loses → (e.nest n).state = .fault ∧ (e.nest n).record = none
    ∧ e.notices.pending[nestFaultSource n] = true
  stays : ∀ n ∈ l, ¬ (d.nest n).state.loses → (e.nest n).state = (d.nest n).state
  raises : Raises d e
  fixture : e.fixture = d.fixture
  nestPort : e.nestPort = d.nestPort
  pins : ∀ b, (e.tables.bank b).pins = (d.tables.bank b).pins - (l.filter (d.pinnedBy b)).length
  posted : e.labels.posted = d.labels.posted + d.lossLabels l
  ring : ∀ x : EntryId, (∀ i < d.lossLabels l, x ≠ d.labels.post + Fin.ofNat 64 i) → e.labels.ring[x] = d.labels.ring[x]
  waitQueue : ∀ m ∈ e.labels.waitQueue, m ∈ d.labels.waitQueue ∧ (m ∈ l → (d.nest m).state ≠ .labelWait)
  labelled : ∀ (i : Nat) (n : NestId) (r : UnitRecord), (d.endingNests l)[i]? = some n → (d.nest n).record = some r →
    d.labels.posted + i < 64 →
    e.labels.ring[d.labels.post + Fin.ofNat 64 i] = some
      { label := earlyEndLabel (d.labels.counter + BitVec.ofNat 32 i) n
          { r with failures := addFailure r.failures .link }
        chain := none }
    ∧ (e.yields.live[n]).labelled = (d.yields.live[n]).labelled + 1
    ∧ (e.yields.live[n]).discarded = (d.yields.live[n]).discarded
  discarded : ∀ (i : Nat) (n : NestId), (d.endingNests l)[i]? = some n → 64 ≤ d.labels.posted + i →
    (e.yields.live[n]).discarded = (d.yields.live[n]).discarded + 1
    ∧ (e.yields.live[n]).labelled = (d.yields.live[n]).labelled
  waits : ∀ n ∈ l, (d.nest n).state = .labelWait → (e.yields.live[n]).discarded = (d.yields.live[n]).discarded + 1
    ∧ (e.yields.live[n]).labelled = (d.yields.live[n]).labelled

theorem Device.lossLabels_nil (d : Device) : d.lossLabels [] = 0 := Nat.zero_min _

theorem LinkLost.nil (d : Device) : LinkLost d d [] :=
  ⟨fun _ _ => ⟨SameButStart.refl _, rfl⟩, fun _ h => absurd h List.not_mem_nil, fun _ h => absurd h List.not_mem_nil,
    .refl d, rfl, rfl, fun _ => rfl, by rw [d.lossLabels_nil, Nat.add_zero], fun _ _ => rfl,
    fun _ hm => ⟨hm, fun h => absurd h List.not_mem_nil⟩, fun _ _ _ h => (nomatch h), fun _ _ h => (nomatch h),
    fun _ h => absurd h List.not_mem_nil⟩

section
variable {d d' e : Device} {n : NestId} {l : List NestId}

theorem Device.endingNests_cons_of (h : (d.nest n).state.endsEarly = true) :
    d.endingNests (n :: l) = n :: d.endingNests l := List.filter_cons_of_pos h

theorem Device.endingNests_cons_of_not (h : (d.nest n).state.endsEarly = false) :
    d.endingNests (n :: l) = d.endingNests l := List.filter_cons_of_neg (by rw [h]; exact Bool.false_ne_true)

theorem LossStep.endingNests (h : LossStep d d' n) (hn : n ∉ l) : d'.endingNests l = d.endingNests l :=
  List.filter_congr fun m hm => by rw [(h.others m fun k => hn (k ▸ hm)).1.state]

theorem SameButStart.pinned {x y : Nest} (h : SameButStart x y) (b : BankId) :
    (y.record.any fun r => decide (r.bank = b)) = x.record.any fun r => decide (r.bank = b) := by
  cases hx : x.record with
  | none => rw [h.record_none.mpr hx]
  | some r =>
    obtain ⟨sub, hy⟩ := h.record_some hx
    rw [hy]
    rfl

theorem LossStep.pinnedBy (h : LossStep d d' n) (hn : n ∉ l) (b : BankId) :
    l.filter (d'.pinnedBy b) = l.filter (d.pinnedBy b) :=
  List.filter_congr fun m hm => by
    have hsame := (h.others m fun k => hn (k ▸ hm)).1
    rw [Device.pinnedBy, Device.pinnedBy, hsame.state, hsame.pinned b]

/-- What the first nest leaves of the label unit. -/
theorem LossStep.unposted (h : LossStep d d' n)
    (hno : (d.nest n).state.endsEarly = false ∨ 64 ≤ d.labels.posted) :
    d'.labels = { d.labels with waitQueue := d'.labels.waitQueue }
    ∧ ∀ m ∈ d'.labels.waitQueue, m ∈ d.labels.waitQueue ∧ ((d.nest n).state = .labelWait → m ≠ n) := by
  by_cases hd : ((d.nest n).state.endsEarly = true ∧ 64 ≤ d.labels.posted) ∨ (d.nest n).state = .labelWait
  · obtain ⟨hlabels, -⟩ := h.discarded hd
    rw [hlabels]
    refine ⟨rfl, fun m hm => ?_⟩
    obtain ⟨hmem, hne⟩ := List.mem_filter.mp hm
    exact ⟨hmem, fun _ => of_decide_eq_true hne⟩
  · obtain ⟨hd1, hd2⟩ := not_or.mp hd
    have hearly : (d.nest n).state.endsEarly = false := by
      rcases hno with h | h
      · exact h
      · exact Bool.eq_false_iff.mpr fun k => hd1 ⟨k, h⟩
    rw [h.unlabelled hearly hd2]
    exact ⟨rfl, fun m hm => ⟨hm, fun k => absurd k hd2⟩⟩

/-- The fields that a step and the steps after it join in the same way, whatever the step's nest does. -/
theorem LinkLost.cons_common (h : LossStep d d' n) (k : LinkLost d' e l) (hn : n ∉ l) :
    (∀ m, m ∉ n :: l → SameButStart (d.nest m) (e.nest m) ∧ e.yields.live[m] = d.yields.live[m])
    ∧ (∀ m ∈ n :: l, (d.nest m).state.loses → (e.nest m).state = .fault ∧ (e.nest m).record = none
        ∧ e.notices.pending[nestFaultSource m] = true)
    ∧ (∀ m ∈ n :: l, ¬ (d.nest m).state.loses → (e.nest m).state = (d.nest m).state)
    ∧ ∀ b, (e.tables.bank b).pins = (d.tables.bank b).pins - ((n :: l).filter (d.pinnedBy b)).length := by
  have hhead := (k.others n hn).1
  have hsame : ∀ m ∈ l, (d'.nest m).state = (d.nest m).state := fun m hm => (h.others m fun q => hn (q ▸ hm)).1.state
  refine ⟨fun m hm => ?_, fun m hm hl => ?_, fun m hm hl => ?_, fun b => ?_⟩
  · obtain ⟨hmn, hml⟩ := not_or.mp (List.mem_cons.not.mp hm)
    obtain ⟨h1, h2⟩ := h.others m hmn
    obtain ⟨k1, k2⟩ := k.others m hml
    exact ⟨h1.trans k1, k2.trans h2⟩
  · rcases List.mem_cons.mp hm with rfl | hm
    · obtain ⟨hstate, hrecord, hpending⟩ := h.faults hl
      exact ⟨hhead.state.trans hstate, hhead.record_none.mpr hrecord, k.raises _ hpending⟩
    · exact k.faults m hm (by rw [hsame m hm]; exact hl)
  · rcases List.mem_cons.mp hm with rfl | hm
    · exact hhead.state.trans (h.stays hl)
    · exact (k.stays m hm (by rw [hsame m hm]; exact hl)).trans (hsame m hm)
  · rw [k.pins, h.pins, h.pinnedBy hn, List.filter_cons, Nat.sub_sub]
    cases d.pinnedBy b n with
    | true => rw [if_pos rfl, if_pos rfl, List.length_cons, Nat.add_comm]
    | false => rw [if_neg Bool.false_ne_true, if_neg Bool.false_ne_true, Nat.zero_add]

theorem LinkLost.cons_waits (h : LossStep d d' n) (k : LinkLost d' e l) (hn : n ∉ l) : ∀ m ∈ n :: l,
    (d.nest m).state = .labelWait → (e.yields.live[m]).discarded = (d.yields.live[m]).discarded + 1
      ∧ (e.yields.live[m]).labelled = (d.yields.live[m]).labelled := by
  intro m hm hs
  rcases List.mem_cons.mp hm with rfl | hm
  · obtain ⟨-, hd, hl⟩ := h.discarded (.inr hs)
    rw [(k.others m hn).2]
    exact ⟨hd, hl⟩
  · obtain ⟨hsame, hlive⟩ := h.others m fun q => hn (q ▸ hm)
    obtain ⟨hd, hl⟩ := k.waits m hm (hsame.state.trans hs)
    rw [hd, hl, hlive]
    exact ⟨rfl, rfl⟩

theorem Device.mem_of_endingNests {m : NestId} {i : Nat} (h : (d.endingNests l)[i]? = some m) :
    m ∈ l ∧ (d.nest m).state.endsEarly = true := List.mem_filter.mp (List.mem_of_getElem? h)

/-- A label that a later nest posts, told from the device before the first. -/
theorem LinkLost.labelled_later (h : LossStep d d' n) (k : LinkLost d' e l) (hn : n ∉ l) {i : Nat} {m : NestId}
    {r : UnitRecord} (hi : (d.endingNests l)[i]? = some m) (hr : (d.nest m).record = some r)
    (hf : d'.labels.posted + i < 64) :
    e.labels.ring[d'.labels.post + Fin.ofNat 64 i] = some
      { label := earlyEndLabel (d'.labels.counter + BitVec.ofNat 32 i) m
          { r with failures := addFailure r.failures .link }
        chain := none }
    ∧ (e.yields.live[m]).labelled = (d.yields.live[m]).labelled + 1
    ∧ (e.yields.live[m]).discarded = (d.yields.live[m]).discarded := by
  obtain ⟨hm, -⟩ := Device.mem_of_endingNests hi
  obtain ⟨hsame, hlive⟩ := h.others m fun q => hn (q ▸ hm)
  obtain ⟨sub, hr'⟩ := hsame.record_some hr
  rw [← h.endingNests hn] at hi
  have hlabelled := k.labelled i m _ hi hr' hf
  rw [hlive] at hlabelled
  exact hlabelled

theorem LinkLost.discarded_later (h : LossStep d d' n) (k : LinkLost d' e l) (hn : n ∉ l) {i : Nat} {m : NestId}
    (hi : (d.endingNests l)[i]? = some m) (hf : 64 ≤ d'.labels.posted + i) :
    (e.yields.live[m]).discarded = (d.yields.live[m]).discarded + 1
    ∧ (e.yields.live[m]).labelled = (d.yields.live[m]).labelled := by
  obtain ⟨hm, -⟩ := Device.mem_of_endingNests hi
  obtain ⟨-, hlive⟩ := h.others m fun q => hn (q ▸ hm)
  rw [← h.endingNests hn] at hi
  have hdiscarded := k.discarded i m hi hf
  rw [hlive] at hdiscarded
  exact hdiscarded

theorem LinkLost.cons_waitQueue (h : LossStep d d' n) (k : LinkLost d' e l) (hn : n ∉ l)
    (hqueue : ∀ m ∈ d'.labels.waitQueue, m ∈ d.labels.waitQueue ∧ ((d.nest n).state = .labelWait → m ≠ n)) :
    ∀ m ∈ e.labels.waitQueue, m ∈ d.labels.waitQueue ∧ (m ∈ n :: l → (d.nest m).state ≠ .labelWait) := by
  intro m hm
  obtain ⟨hmem, hstate⟩ := k.waitQueue m hm
  obtain ⟨hmem, hne⟩ := hqueue m hmem
  refine ⟨hmem, fun hml hs => ?_⟩
  rcases List.mem_cons.mp hml with rfl | hml
  · exact hne hs rfl
  · exact hstate hml ((h.others m fun q => hn (q ▸ hml)).1.state.trans hs)

/-- A step without a label, before the steps after it. -/
theorem LinkLost.cons_unposted (h : LossStep d d' n) (k : LinkLost d' e l) (hn : n ∉ l)
    (hno : (d.nest n).state.endsEarly = false ∨ 64 ≤ d.labels.posted) : LinkLost d e (n :: l) := by
  obtain ⟨hothers, hfaults, hstays, hpins⟩ := LinkLost.cons_common h k hn
  obtain ⟨hlabels, hqueue⟩ := h.unposted hno
  have hposted : d'.labels.posted = d.labels.posted := by rw [hlabels]
  have hpost : d'.labels.post = d.labels.post := by rw [hlabels]
  have hcounter : d'.labels.counter = d.labels.counter := by rw [hlabels]
  have hring : d'.labels.ring = d.labels.ring := by rw [hlabels]
  have hcount : d.lossLabels (n :: l) = d'.lossLabels l := by
    rw [Device.lossLabels, Device.lossLabels, hposted, h.endingNests hn]
    rcases hno with hno | hno
    · rw [Device.endingNests_cons_of_not hno]
    · rw [Nat.sub_eq_zero_of_le hno, Nat.min_zero, Nat.min_zero]
  refine ⟨hothers, hfaults, hstays, h.raises.trans k.raises, k.fixture.trans h.fixture, k.nestPort.trans h.nestPort, hpins,
    by rw [k.posted, hcount, hposted], fun x hx => ?_, LinkLost.cons_waitQueue h k hn hqueue, fun i m r hi hr hf => ?_,
    fun i m hi hf => ?_, LinkLost.cons_waits h k hn⟩
  · rw [k.ring x fun i hi => by rw [hpost]; exact hx i (by rw [hcount]; exact hi), hring]
  · rcases hno with hno | hno
    · rw [Device.endingNests_cons_of_not hno] at hi
      have hlater := LinkLost.labelled_later h k hn hi hr (by rw [hposted]; exact hf)
      rw [hcounter] at hlater
      simp only [hpost] at hlater
      exact hlater
    · omega
  · cases hs : (d.nest n).state.endsEarly with
    | false =>
      rw [Device.endingNests_cons_of_not hs] at hi
      exact LinkLost.discarded_later h k hn hi (by rw [hposted]; exact hf)
    | true =>
      have hfull : 64 ≤ d.labels.posted := hno.resolve_left (by rw [hs]; decide)
      rw [Device.endingNests_cons_of hs] at hi
      cases i with
      | zero =>
        obtain rfl : n = m := Option.some.inj hi
        obtain ⟨-, hd, hl⟩ := h.discarded (.inl ⟨hs, hfull⟩)
        rw [(k.others n hn).2]
        exact ⟨hd, hl⟩
      | succ j => exact LinkLost.discarded_later h k hn hi (by omega)

/-- A step that posts a label, before the steps after it. -/
theorem LinkLost.cons_posted {r : UnitRecord} (h : LossStep d d' n) (k : LinkLost d' e l) (hn : n ∉ l)
    (hs : (d.nest n).state.endsEarly = true) (hr : (d.nest n).record = some r) (hf : d.labels.posted < 64) :
    LinkLost d e (n :: l) := by
  obtain ⟨hothers, hfaults, hstays, hpins⟩ := LinkLost.cons_common h k hn
  obtain ⟨hlabels, hlive, hdisc⟩ := h.labelled r hr hs hf
  have hposted : d'.labels.posted = d.labels.posted + 1 := by rw [hlabels]; rfl
  have hpost : d'.labels.post = d.labels.post + 1 := by rw [hlabels]; rfl
  have hcounter : d'.labels.counter = d.labels.counter + 1 := by rw [hlabels]; rfl
  have hqueue : d'.labels.waitQueue = d.labels.waitQueue := by rw [hlabels]; rfl
  have hcount : d.lossLabels (n :: l) = d'.lossLabels l + 1 := by
    rw [Device.lossLabels, Device.lossLabels, hposted, h.endingNests hn, Device.endingNests_cons_of hs, List.length_cons]
    omega
  have hnext : ∀ i, d'.labels.post + Fin.ofNat 64 i = d.labels.post + Fin.ofNat 64 (i + 1) := fun i => by
    rw [hpost, entry_succ]
  have hroom : d'.lossLabels l < 64 := by
    rw [Device.lossLabels, hposted]
    omega
  refine ⟨hothers, hfaults, hstays, h.raises.trans k.raises, k.fixture.trans h.fixture, k.nestPort.trans h.nestPort, hpins,
    by rw [k.posted, hcount, hposted]; omega, fun x hx => ?_, LinkLost.cons_waitQueue h k hn fun m hm => ?_,
    fun i m q hi hq hfi => ?_, fun i m hi hfi => ?_, LinkLost.cons_waits h k hn⟩
  · have hne : x ≠ d.labels.post := fun q => hx 0 (by rw [hcount]; exact Nat.succ_pos _)
      (q.trans (entry_zero d.labels.post).symm)
    rw [k.ring x fun i hi q => hx (i + 1) (by rw [hcount]; exact Nat.succ_lt_succ hi) (q.trans (hnext i)), hlabels]
    exact LabelUnit.put_ring_ne _ hne
  · rw [hqueue] at hm
    exact ⟨hm, fun q => by rw [q] at hs; cases hs⟩
  · rw [Device.endingNests_cons_of hs] at hi
    cases i with
    | zero =>
      obtain rfl : n = m := Option.some.inj hi
      obtain rfl : r = q := Option.some.inj (hr.symm.trans hq)
      have hhead : ∀ i < d'.lossLabels l, d.labels.post ≠ d'.labels.post + Fin.ofNat 64 i := fun i hi q => by
        have q := congrArg Fin.val q
        rw [hnext] at q
        simp only [Fin.add_def, Fin.ofNat_eq_cast, Fin.val_natCast] at q
        omega
      refine ⟨?_, ?_⟩
      · simp only [entry_zero]
        rw [k.ring _ hhead, hlabels, BitVec.add_zero]
        exact LabelUnit.put_ring_same _ _
      · rw [(k.others n hn).2]
        exact ⟨hlive, hdisc⟩
    | succ j =>
      have hlater := LinkLost.labelled_later h k hn hi hq (by omega)
      rw [hcounter, number_succ] at hlater
      simp only [hnext] at hlater
      exact hlater
  · rw [Device.endingNests_cons_of hs] at hi
    cases i with
    | zero => omega
    | succ j => exact LinkLost.discarded_later h k hn hi (by omega)

end

/-- A nest holds a Unit Record exactly in the test stages (R2). -/
def Device.UnitAt (d : Device) (n : NestId) : Prop := (d.nest n).record.isSome = (d.nest n).state.testStage

theorem LossStep.unitAt {d d' : Device} {n m : NestId} (h : LossStep d d' n) (hm : m ≠ n) (hu : d.UnitAt m) :
    d'.UnitAt m := by
  have hsame := (h.others m hm).1
  rw [Device.UnitAt, hsame.state, ← hu]
  cases hr : (d.nest m).record with
  | none => rw [hsame.record_none.mpr hr]
  | some r =>
    obtain ⟨sub, hr'⟩ := hsame.record_some hr
    rw [hr']
    rfl

theorem Device.foldLoss (l : List NestId) : ∀ d : Device, l.Nodup → (∀ n ∈ l, d.UnitAt n) →
    LinkLost d (l.foldl Device.linkLossNest d) l := by
  induction l with
  | nil => exact fun d _ _ => .nil d
  | cons n l ih =>
    intro d hl hu
    obtain ⟨hn, hl⟩ := List.nodup_cons.mp hl
    have hstep := Device.linkLossNest_step (hu n List.mem_cons_self)
    have hrest := ih (d.linkLossNest n) hl fun m hm =>
      hstep.unitAt (fun k => hn (k ▸ hm)) (hu m (List.mem_cons_of_mem n hm))
    rw [List.foldl_cons]
    by_cases hp : (d.nest n).state.endsEarly = true ∧ d.labels.posted < 64
    · obtain ⟨hs, hf⟩ := hp
      obtain ⟨r, hr⟩ := Option.isSome_iff_exists.mp ((hu n List.mem_cons_self).trans
        (NestState.testStage_of_inTest (NestState.inTest_of_endsEarly hs)))
      exact LinkLost.cons_posted hstep hrest hn hs hr hf
    · refine LinkLost.cons_unposted hstep hrest hn ?_
      rcases not_and_or.mp hp with h | h
      · exact .inl (Bool.eq_false_iff.mpr h)
      · exact .inr (Nat.not_lt.mp h)

end Sys2Proof.Machine

namespace Sys2Proof.Machine

/-! ## THE SYNC OF THE NEST LINK (O18) -/

theorem Device.clearCounts_fixture (d : Device) (n : NestId) :
    d.clearCounts.fixture[n] = { d.fixture[n] with count := Vector.replicate 4 0 } := Vector.getElem_ofFn n.isLt

theorem exec_nestLinkLocked {s : State} (hl : s.dev.nestPort.locked = false) (hr : 16 ≤ s.dev.nestPort.received) :
    exec .nestLinkLocked s = .next { s with
      dev := ({ s.dev with nestPort := { s.dev.nestPort with locked := true } }.clearCounts).raise linkSource } := by
  change Host.Outcome.next _ = _
  rw [if_pos ⟨by rw [hl]; rfl, hr⟩]

/-- The part at link loss, before the nests act (R169, R179). -/
def Device.unlocked (d : Device) : Device :=
  ({ d with nestPort := { d.nestPort with locked := false, received := 0 } }.clearCounts).raise linkSource

theorem exec_nestLinkLoss {s : State} (order : List NestId) (hl : s.dev.nestPort.locked = true)
    (hm : 8 ≤ s.dev.nestPort.missed) : exec (.nestLinkLoss order) s
      = .next { s with dev := (nestOrder order).foldl Device.linkLossNest s.dev.unlocked } := by
  change Host.Outcome.next _ = _
  rw [if_pos ⟨hl, hm⟩]
  rfl

/-- The pins of a bank, counted over the nests in any order. -/
theorem pinnedUnits_order (d : Device) (b : BankId) (order : List NestId) :
    ((nestOrder order).filter (d.pinnedBy b)).length = d.pinnedUnits b := by
  have hperm : (nestOrder order).Perm (List.finRange 4) :=
    (List.perm_ext_iff_of_nodup (nodup_nestOrder order) (List.nodup_finRange 4)).mpr fun n =>
      iff_of_true (mem_nestOrder order n) (List.mem_finRange n)
  exact (hperm.filter _).length_eq

/-- Settles O18. -/
theorem nestLinkSync : Obligations.NestLinkSync := by
  refine ⟨fun s hl hr => ⟨_, exec_nestLinkLocked hl hr, rfl, rfl, fun n => Device.clearCounts_fixture _ n, rfl⟩,
    fun s order hl hm hkept => ?_⟩
  obtain ⟨hunits, -, -, hwaits⟩ := hkept
  have hlost := Device.foldLoss (nestOrder order) s.dev.unlocked (nodup_nestOrder order) fun n _ => hunits n
  have hmem := mem_nestOrder order
  refine ⟨_, exec_nestLinkLoss order hl hm, ?_⟩
  generalize (nestOrder order).foldl Device.linkLossNest s.dev.unlocked = e at hlost
  have hlink : s.dev.unlocked.notices.pending[linkSource] = true := NoticeArbiter.raise_pending_same _ _
  refine ⟨congrArg NestPort.locked hlost.nestPort, hlost.raises _ hlink, fun n => ?_, fun n hs => ?_,
    fun n => hlost.waits n (hmem n), fun i n r hi hr => ⟨hlost.labelled i n r hi hr, hlost.discarded i n hi⟩, hlost.posted,
    ?_, fun b => ?_, fun n => ?_⟩
  · split
    · rename_i hs
      exact (hlost.faults n (hmem n) hs).1
    · rename_i hs
      exact hlost.stays n (hmem n) hs
  · exact (hlost.faults n (hmem n) hs).2
  · refine List.eq_nil_iff_forall_not_mem.mpr fun m hm => ?_
    obtain ⟨hqueue, hstate⟩ := hlost.waitQueue m hm
    exact hstate (hmem m) (hwaits m hqueue)
  · rw [← pinnedUnits_order s.dev b order]
    exact hlost.pins b
  · change e.fixture[n] = _
    rw [hlost.fixture]
    exact Device.clearCounts_fixture _ n

end Sys2Proof.Machine

namespace Sys2Proof.Machine

/-! ## THE NESTS IN LINK RESET (O15) -/

/-- A nest in LINK RESET, before its unit is discarded: the drive silent, the loopback flag and the GATE and LAMP claims
cleared (R34, R30, R109). -/
def Nest.hushed (x : Nest) : Nest :=
  { x with
    loopback := false
    gateClaim := false
    lampClaim := false
    tone := { x.tone with
      mode := .silent, gain := 0, timer := 0, inTolerance := 0, intervals := 0, sense := [], pilot := [] }
    engine := { window := none, closed := 0 } }

/-- Where LINK RESET takes nest `n` (R30, R22). -/
def Device.afterReset (d : Device) (n : NestId) : NestState :=
  if (d.nest n).state.testStage then d.afterRelease n
  else if (d.nest n).state = .fault then (if d.taken n .present then .loaded else .empty)
  else (d.nest n).state

/-- Nest `n` before LINK RESET, `x`, and after it, `y`. -/
structure NestReset (d : Device) (n : NestId) (x y : Nest) : Prop where
  loopback : y.loopback = false
  mode : y.tone.mode = .silent
  gain : y.tone.gain = 0
  gateOpen : y.gateOpen = x.gateOpen
  autoStart : y.autoStart = x.autoStart
  history : y.history = x.history
  gateClaim : y.gateClaim = false
  lampClaim : y.lampClaim = false
  state : y.state = d.afterReset n
  ended : x.state.testStage = true → y.record = none ∧ y.markClaim = false
  marks : x.state.testStage = false → y.markClaim = x.markClaim

theorem NestState.idle_of_not_testStage {st : NestState} (h : st.testStage = false) : st.idle := by
  refine ⟨?_, ?_, ?_⟩ <;> rintro rfl <;> cases h

theorem Device.afterReset_testStage (d : Device) (n : NestId) : (d.afterReset n).testStage = false := by
  rw [Device.afterReset]
  split
  · exact d.afterRelease_noUnit n
  · rename_i h
    split
    · split <;> rfl
    · exact Bool.eq_false_iff.mpr h

theorem Device.enterReleasing_claims (d : Device) (n : NestId) (hg : (d.nest n).gateClaim = false)
    (hl : (d.nest n).lampClaim = false) :
    ((d.enterReleasing n).nest n).gateClaim = false ∧ ((d.enterReleasing n).nest n).lampClaim = false := by
  by_cases hc : d.taken n .clamped = true
  · simp [Device.enterReleasing, Device.modNest_eq, hc, hg, hl]
  · by_cases hp : d.taken n .present = true <;>
      simp [Device.enterReleasing, Device.modNest_eq, hc, Device.enterDone_eq, hp, hg, hl]

section
variable {d e : Device} {n : NestId} {r : UnitRecord}

/-- A nest whose test ends in LINK RESET: `e` is the part before RELEASING is entered. -/
theorem NestReset.releasing {q : Option UnitRecord} (hs : (d.nest n).state.testStage = true)
    (he : e.nest n = { (d.nest n).hushed with record := q }) (hf : e.fixture = d.fixture) :
    ∃ y, e.enterReleasing n = e.setNest n y ∧ NestReset d n (d.nest n) y := by
  obtain ⟨y, hy, hx⟩ := e.enterReleasing_exits n
  obtain ⟨hgate, hlamp⟩ := e.enterReleasing_claims n (by rw [he]; rfl) (by rw [he]; rfl)
  rw [hy, Device.nest_setNest_same] at hgate hlamp
  rw [he] at hx
  have ht : ∀ l, e.taken n l = d.taken n l := fun l => by simp only [Device.taken, hf]
  have hafter : e.afterRelease n = d.afterRelease n := by simp only [Device.afterRelease, ht]
  refine ⟨y, hy, hx.loopback, by rw [hx.tone]; rfl, by rw [hx.tone]; rfl, hx.gateOpen, hx.autoStart, hx.history, hgate,
    hlamp, ?_, fun _ => ⟨hx.record, hx.markClaim⟩, fun h => ?_⟩
  · rw [hx.state, hafter, Device.afterReset, if_pos hs]
  · rw [hs] at h
    cases h

theorem Device.linkResetNest_hushed (d : Device) (n : NestId) :
    ((d.silence n).modNest n fun x =>
      { x with loopback := false, gateClaim := false, lampClaim := false, tone := { x.tone with gain := 0 } })
      = d.setNest n (d.nest n).hushed := by
  rw [Device.modNest_eq, Device.silence_eq, Device.nest_setNest_same, Device.setNest_setNest]
  rfl

theorem Device.hushed_nest : (d.setNest n (d.nest n).hushed).nest n = (d.nest n).hushed := Device.nest_setNest_same _ _ _

/-- A unit in test is discarded (R25, R30). -/
theorem Device.linkResetNest_discards (hs : (d.nest n).state.inTest = true) (hr : (d.nest n).record = some r) :
    d.linkResetNest n = ((d.setNest n (d.nest n).hushed).discardUnit n r).enterReleasing n := by
  have hrec : ((d.setNest n (d.nest n).hushed).nest n).record = some r := by rw [Device.hushed_nest]; exact hr
  have hst : ((d.setNest n (d.nest n).hushed).nest n).state = (d.nest n).state := by rw [Device.hushed_nest]; rfl
  rw [Device.linkResetNest, Device.linkResetNest_hushed]
  cases h : (d.nest n).state <;> rw [h] at hst hs
  case clamping | levelLock | quietCheck | sweeping | judging | labelWait => simp only [hst, hrec]
  all_goals cases hs

/-- A nest in a test stage without a unit in test leaves it (R21, R30). -/
theorem Device.linkResetNest_leaves (hs : (d.nest n).state.testStage = true)
    (hr : (d.nest n).state = .marking ∨ (d.nest n).record = none) :
    d.linkResetNest n = (d.setNest n (d.nest n).hushed).enterReleasing n := by
  have hrec : ((d.setNest n (d.nest n).hushed).nest n).record = (d.nest n).record := by rw [Device.hushed_nest]; rfl
  have hst : ((d.setNest n (d.nest n).hushed).nest n).state = (d.nest n).state := by rw [Device.hushed_nest]; rfl
  rw [Device.linkResetNest, Device.linkResetNest_hushed]
  cases h : (d.nest n).state <;> rw [h] at hst hs hr
  case marking => simp only [hst]
  case clamping | levelLock | quietCheck | sweeping | judging | labelWait =>
    rw [hr.resolve_left (by decide)] at hrec
    simp only [hst, hrec]
  all_goals cases hs

/-- FAULT is left by the taken level of PRESENT (R30). -/
theorem Device.linkResetNest_fault (hs : (d.nest n).state = .fault) : d.linkResetNest n
    = d.setNest n (if d.taken n .present then { (d.nest n).hushed with state := .loaded, autoTestOwed := true }
        else { (d.nest n).hushed with state := .empty, autoTestOwed := false }) := by
  have hst : ((d.setNest n (d.nest n).hushed).nest n).state = .fault := by rw [Device.hushed_nest]; exact hs
  rw [Device.linkResetNest, Device.linkResetNest_hushed]
  have htaken : (d.setNest n (d.nest n).hushed).taken n .present = d.taken n .present := rfl
  simp only [hst]
  by_cases hp : d.taken n .present = true
  · rw [if_pos (htaken.trans hp), if_pos hp, Device.modNest_eq, Device.hushed_nest, Device.setNest_setNest]
  · rw [if_neg (htaken ▸ hp), if_neg hp, Device.enterEmpty_eq, Device.hushed_nest, Device.setNest_setNest]
    rfl

theorem Device.linkResetNest_rest (hs : (d.nest n).state.testStage = false) (hf : (d.nest n).state ≠ .fault) :
    d.linkResetNest n = d.setNest n (d.nest n).hushed := by
  have hst : ((d.setNest n (d.nest n).hushed).nest n).state = (d.nest n).state := by rw [Device.hushed_nest]; rfl
  rw [Device.linkResetNest, Device.linkResetNest_hushed]
  cases h : (d.nest n).state <;> rw [h] at hst hs hf
  case empty | loaded | releasing | done => simp only [hst]
  case fault => exact absurd rfl hf
  all_goals cases hs

/-- A nest without a unit in test changes alone. -/
theorem Device.linkResetNest_alone (hs : (d.nest n).state.inTest = false ∨ (d.nest n).record = none) :
    ∃ y, d.linkResetNest n = d.setNest n y ∧ NestReset d n (d.nest n) y := by
  cases ht : (d.nest n).state.testStage with
  | true =>
    have hleaves : (d.nest n).state = .marking ∨ (d.nest n).record = none := by
      refine hs.imp_left fun h => ?_
      cases hst : (d.nest n).state <;> rw [hst] at h ht
      case empty | loaded | releasing | done | fault => exact nomatch ht
      all_goals exact nomatch h
    obtain ⟨y, hy, hreset⟩ := NestReset.releasing (d := d) (e := d.setNest n (d.nest n).hushed)
      (q := (d.nest n).record) ht Device.hushed_nest rfl
    exact ⟨y, by rw [Device.linkResetNest_leaves ht hleaves, hy, Device.setNest_setNest], hreset⟩
  | false =>
    have hno : ∀ {p : Prop}, (d.nest n).state.testStage = true → p := fun h => by rw [ht] at h; cases h
    by_cases hf : (d.nest n).state = .fault
    · refine ⟨_, Device.linkResetNest_fault hf, ?_⟩
      have hafter : d.afterReset n = if d.taken n .present then .loaded else .empty := by
        rw [Device.afterReset, if_neg (by rw [ht]; decide), if_pos hf]
      split
      · rename_i hp
        exact ⟨rfl, rfl, rfl, rfl, rfl, rfl, rfl, rfl, by rw [hafter, if_pos hp], hno, fun _ => rfl⟩
      · rename_i hp
        exact ⟨rfl, rfl, rfl, rfl, rfl, rfl, rfl, rfl, by rw [hafter, if_neg hp], hno, fun _ => rfl⟩
    · refine ⟨_, Device.linkResetNest_rest ht hf, rfl, rfl, rfl, rfl, rfl, rfl, rfl, rfl, ?_, hno, fun _ => rfl⟩
      rw [Device.afterReset, if_neg (by rw [ht]; decide), if_neg hf]
      rfl

end

end Sys2Proof.Machine

namespace Sys2Proof.Machine

/-! ## WHAT LINK RESET KEEPS (O15) -/

/-- What the nests' part of LINK RESET leaves as it is (R186, R189). -/
structure ResetKeeps (d e : Device) : Prop where
  labels : e.labels = { d.labels with waitQueue := e.labels.waitQueue }
  snapshot : e.yields.snapshot = d.yields.snapshot
  number : e.yields.number = d.yields.number
  calibration : e.calibration = d.calibration
  groupMap : e.groupMap = d.groupMap
  fixture : e.fixture = d.fixture
  nestPort : e.nestPort = d.nestPort
  controllerPort : e.controllerPort = d.controllerPort
  generationCounter : e.tables.generationCounter = d.tables.generationCounter
  banks : ∀ b, (e.tables.bank b).rows = (d.tables.bank b).rows
    ∧ (e.tables.bank b).generation = (d.tables.bank b).generation
  priorities : e.notices.priorities = d.notices.priorities

theorem ResetKeeps.ringFields {d e : Device} (h : ResetKeeps d e) : e.labels.ring = d.labels.ring
    ∧ e.labels.post = d.labels.post ∧ e.labels.ret = d.labels.ret ∧ e.labels.posted = d.labels.posted
    ∧ e.labels.counter = d.labels.counter := by
  rw [h.labels]
  exact ⟨rfl, rfl, rfl, rfl, rfl⟩

theorem ResetKeeps.refl (d : Device) : ResetKeeps d d :=
  ⟨rfl, rfl, rfl, rfl, rfl, rfl, rfl, rfl, rfl, fun _ => ⟨rfl, rfl⟩, rfl⟩

theorem ResetKeeps.trans {d e f : Device} (h : ResetKeeps d e) (k : ResetKeeps e f) : ResetKeeps d f :=
  ⟨by rw [k.labels, h.labels], k.snapshot.trans h.snapshot, k.number.trans h.number,
    k.calibration.trans h.calibration, k.groupMap.trans h.groupMap, k.fixture.trans h.fixture, k.nestPort.trans h.nestPort,
    k.controllerPort.trans h.controllerPort, k.generationCounter.trans h.generationCounter,
    fun b => ⟨(k.banks b).1.trans (h.banks b).1, (k.banks b).2.trans (h.banks b).2⟩, k.priorities.trans h.priorities⟩

theorem ResetKeeps.setNest (d : Device) (n : NestId) (x : Nest) : ResetKeeps d (d.setNest n x) :=
  ⟨rfl, rfl, rfl, rfl, rfl, rfl, rfl, rfl, rfl, fun _ => ⟨rfl, rfl⟩, rfl⟩

theorem ResetKeeps.count (d : Device) (n : NestId) (f : Counters → Counters) : ResetKeeps d (d.count n f) :=
  ⟨rfl, rfl, rfl, rfl, rfl, rfl, rfl, rfl, rfl, fun _ => ⟨rfl, rfl⟩, rfl⟩

theorem Device.unpin_keeps (d : Device) (b : BankId) :
    (d.unpin b).tables.generationCounter = d.tables.generationCounter
    ∧ (d.unpin b).notices.priorities = d.notices.priorities := by
  simp only [Device.unpin]
  split
  · exact ⟨TableStore.modBank_generationCounter _ _ _, rfl⟩
  · exact ⟨TableStore.modBank_generationCounter _ _ _, rfl⟩

theorem ResetKeeps.unpin (d : Device) (b : BankId) : ResetKeeps d (d.unpin b) := by
  have h := d.unpin_spec b
  obtain ⟨hcounter, hpriorities⟩ := d.unpin_keeps b
  refine ⟨?_, ?_, ?_, ?_, ?_, ?_, ?_, ?_, hcounter, fun c => ?_, hpriorities⟩
  case refine_9 =>
    by_cases hc : c = b
    · subst hc
      exact ⟨h.rows, h.generation⟩
    · rw [h.others c hc]
      exact ⟨rfl, rfl⟩
  all_goals
    rw [h.frame]

theorem ResetKeeps.startsOnly {d e : Device} (h : StartsOnly d e) : ResetKeeps d e := by
  rw [h.frame]
  exact ⟨rfl, rfl, rfl, rfl, rfl, rfl, rfl, rfl, rfl, fun _ => ⟨rfl, rfl⟩, rfl⟩

theorem ResetKeeps.discardUnit (d : Device) (n : NestId) (r : UnitRecord) : ResetKeeps d (d.discardUnit n r) := by
  obtain ⟨u, hu⟩ : ∃ u : Device, u = ({ d with labels := { d.labels with
      waitQueue := d.labels.waitQueue.filter fun m => decide (m ≠ n) } } : Device).freeChain r.chain := ⟨_, rfl⟩
  have hfreed : ResetKeeps d u := by
    rw [hu]
    exact ⟨rfl, rfl, rfl, rfl, rfl, rfl, rfl, rfl, rfl, fun _ => ⟨rfl, rfl⟩, rfl⟩
  have hended : ResetKeeps u (u.endInTest n r) :=
    (ResetKeeps.unpin u r.bank).trans (.startsOnly ((u.unpin r.bank).leaveArbiter_startsOnly n))
  have hdiscard : d.discardUnit n r = (u.endInTest n r).count n fun c => { c with discarded := c.discarded + 1 } := by
    rw [hu]
    rfl
  rw [hdiscard]
  exact hfreed.trans (hended.trans (.count _ n _))

/-! ## LINK RESET, NEST BY NEST (O15) -/

/-- The blocks of the chain of a nest's unit. -/
def Device.chainBlocks (d : Device) (n : NestId) : List BlockId :=
  ((d.nest n).record.map fun r => r.chain.blocks).getD []

/-- The live counters of a nest after LINK RESET (R110). -/
def Device.liveAfterReset (d : Device) (n : NestId) : Counters :=
  if (d.nest n).state.inTest then { d.yields.live[n] with discarded := (d.yields.live[n]).discarded + 1 }
  else d.yields.live[n]

/-- The units that the nests `l` hold in test have been discarded (R25, R110). -/
structure UnitsReset (d e : Device) (l : List NestId) : Prop where
  waits : ∀ n ∈ l, (d.nest n).state.inTest = true → n ∉ e.labels.waitQueue
  live : ∀ n ∈ l, e.yields.live[n] = d.liveAfterReset n
  pool : e.pool = { d.pool with
    free := d.pool.free ++ (l.filter fun n => (d.nest n).state.inTest).flatMap d.chainBlocks }
  pins : ∀ b, (e.tables.bank b).pins = (d.tables.bank b).pins - (l.filter (d.pinnedBy b)).length

/-- The nests `l`, taken in their order, have been reset. -/
structure NestsReset (d e : Device) (l : List NestId) : Prop where
  keeps : ResetKeeps d e
  nests : ∀ n ∈ l, NestReset d n (d.nest n) (e.nest n)
  others : ∀ m, m ∉ l → SameButStart (d.nest m) (e.nest m)
  idle : ∀ m, m ∉ l → (d.nest m).state.idle → e.nest m = d.nest m
  queue : ∀ m ∈ e.labels.waitQueue, m ∈ d.labels.waitQueue
  live : ∀ m, m ∉ l → e.yields.live[m] = d.yields.live[m]
  units : (∀ n ∈ l, d.UnitAt n) → UnitsReset d e l

section
variable {d d' e : Device} {n : NestId} {l : List NestId} {r : UnitRecord}

theorem NestsReset.nil (d : Device) : NestsReset d d [] :=
  ⟨.refl d, fun _ h => absurd h List.not_mem_nil, fun _ _ => SameButStart.refl _, fun _ _ _ => rfl, fun _ h => h,
    fun _ _ => rfl, fun _ => ⟨fun _ h => absurd h List.not_mem_nil, fun _ h => absurd h List.not_mem_nil,
      by rw [List.filter_nil, List.flatMap_nil, List.append_nil], fun _ => rfl⟩⟩

/-- A nest that changes alone. -/
theorem NestsReset.alone {y : Nest} (h : NestReset d n (d.nest n) y)
    (hs : (d.nest n).state.inTest = false ∨ (d.nest n).record = none) : NestsReset d (d.setNest n y) [n] := by
  have hne : ∀ {m}, m ∉ [n] → m ≠ n := fun h k => h (List.mem_singleton.mpr k)
  refine ⟨.setNest d n y, fun m hm => ?_, fun m hm => ?_, fun m hm _ => ?_, fun _ h => h, fun _ _ => rfl, fun hu => ?_⟩
  · obtain rfl := List.mem_singleton.mp hm
    rw [Device.nest_setNest_same]
    exact h
  · rw [Device.nest_setNest_ne _ _ (hne hm)]
    exact SameButStart.refl _
  · exact Device.nest_setNest_ne _ _ (hne hm)
  · have hout : (d.nest n).state.inTest = false := by
      refine hs.elim id fun hr => Bool.eq_false_iff.mpr fun ht => ?_
      have hunit := hu n (List.mem_singleton.mpr rfl)
      rw [Device.UnitAt, hr, NestState.testStage_of_inTest ht] at hunit
      cases hunit
    have hfilter : [n].filter (fun m => (d.nest m).state.inTest) = [] :=
      List.filter_cons_of_neg (by rw [hout]; exact Bool.false_ne_true)
    refine ⟨fun m hm ht => ?_, fun m hm => ?_, ?_, fun b => ?_⟩
    · rw [List.mem_singleton.mp hm, hout] at ht
      cases ht
    · rw [List.mem_singleton.mp hm, Device.liveAfterReset, hout]
      rfl
    · rw [hfilter, List.flatMap_nil, List.append_nil]
      rfl
    · rw [List.filter_cons_of_neg (by rw [Device.pinnedBy_of_not hout]; exact Bool.false_ne_true)]
      rfl

/-- A nest whose unit is discarded. -/
theorem NestsReset.discards (hs : (d.nest n).state.inTest = true) (hr : (d.nest n).record = some r) :
    NestsReset d (d.linkResetNest n) [n] := by
  have hne : ∀ {m}, m ∉ [n] → m ≠ n := fun h k => h (List.mem_singleton.mpr k)
  have htest := NestState.testStage_of_inTest hs
  obtain ⟨u, hu⟩ : ∃ u, u = d.setNest n (d.nest n).hushed := ⟨_, rfl⟩
  have hun : u.nest n = (d.nest n).hushed := by rw [hu]; exact Device.hushed_nest
  have hum : ∀ {m}, m ≠ n → u.nest m = d.nest m := fun hm => by rw [hu]; exact Device.nest_setNest_ne _ _ hm
  have hukeeps : ResetKeeps d u := by rw [hu]; exact .setNest d n _
  obtain ⟨y, hy, hreset⟩ := NestReset.releasing (d := d) (e := u.discardUnit n r) (n := n) (q := _) htest
    ((u.discardUnit_nest n r).trans (by rw [hun])) ((ResetKeeps.discardUnit u n r).fixture.trans hukeeps.fixture)
  obtain ⟨z, hz, hexit⟩ := (u.discardUnit n r).enterReleasing_exits n
  have heq : d.linkResetNest n = (u.discardUnit n r).setNest n y := by
    rw [Device.linkResetNest_discards hs hr, ← hu, hy]
  have hdisc : Discarded u (d.linkResetNest n) n r := by
    have hd := Device.discardUnit_discards (a := (u.discardUnit n r).notices) hexit
    rw [Device.linkResetNest_discards hs hr, ← hu, hz]
    exact hd
  obtain ⟨hlabels, hpool, -, hlive, -, -, -, -, -, -, -, -, hlives, hnests⟩ := hdisc
  have huyields : u.yields = d.yields := by rw [hu]; rfl
  have hulabels : u.labels = d.labels := by rw [hu]; rfl
  have hupool : u.pool = d.pool := by rw [hu]; rfl
  have hutables : u.tables = d.tables := by rw [hu]; rfl
  have hkeeps : ResetKeeps d (d.linkResetNest n) := by
    rw [heq]
    exact hukeeps.trans ((ResetKeeps.discardUnit u n r).trans (.setNest _ n y))
  rw [huyields] at hlive hlives
  rw [hulabels] at hlabels
  rw [hupool] at hpool
  have hfilter : [n].filter (fun m => (d.nest m).state.inTest) = [n] := List.filter_cons_of_pos hs
  refine ⟨hkeeps, fun m hm => ?_, fun m hm => ?_, fun m hm hi => ?_, fun m hm => ?_, fun m hm => hlives m (hne hm),
    fun _ => ⟨fun m hm _ => ?_, fun m hm => ?_, ?_, fun b => ?_⟩⟩
  · obtain rfl := List.mem_singleton.mp hm
    rw [heq, Device.nest_setNest_same]
    exact hreset
  · rw [← hum (hne hm)]
    exact hnests m (hne hm)
  · have hidle : (u.discardUnit n r).nest m = u.nest m := Device.endInTest_idle (d := ({ u with labels := { u.labels with
      waitQueue := u.labels.waitQueue.filter fun m => decide (m ≠ n) } } : Device).freeChain r.chain) (hne hm)
        (by change (u.nest m).state.idle; rw [hum (hne hm)]; exact hi) r
    rw [heq, Device.nest_setNest_ne _ _ (hne hm), hidle, hum (hne hm)]
  · rw [hlabels] at hm
    exact (List.mem_filter.mp hm).1
  · rw [hlabels]
    exact fun k => of_decide_eq_true (List.mem_filter.mp k).2 (List.mem_singleton.mp hm)
  · obtain rfl := List.mem_singleton.mp hm
    rw [hlive, Device.liveAfterReset, if_pos hs]
  · rw [hpool, hfilter, List.flatMap_singleton, Device.chainBlocks, hr]
    rfl
  · have hpins := u.discardUnit_pins n r b
    rw [hutables, ← Device.pinnedBy_of hs hr] at hpins
    rw [heq, List.filter_cons]
    refine hpins.trans ?_
    cases d.pinnedBy b n <;> rfl

theorem Device.linkResetNest_reset (d : Device) (n : NestId) : NestsReset d (d.linkResetNest n) [n] := by
  cases hs : (d.nest n).state.inTest with
  | false =>
    obtain ⟨y, hy, h⟩ := Device.linkResetNest_alone (.inl hs)
    rw [hy]
    exact .alone h (.inl hs)
  | true =>
    cases hr : (d.nest n).record with
    | some r => exact .discards hs hr
    | none =>
      obtain ⟨y, hy, h⟩ := Device.linkResetNest_alone (.inr hr)
      rw [hy]
      exact .alone h (.inr hr)

/-! ## THE NESTS ONE AFTER THE OTHER (O15) -/

theorem NestReset.of_same {y : Nest} (hx : SameButStart (d.nest n) (d'.nest n)) (hf : d'.fixture = d.fixture)
    (h : NestReset d' n (d'.nest n) y) : NestReset d n (d.nest n) y := by
  have ht : ∀ l, d'.taken n l = d.taken n l := fun l => by simp only [Device.taken, hf]
  have hafter : d'.afterReset n = d.afterReset n := by
    simp only [Device.afterReset, Device.afterRelease, ht, hx.state]
  have hstate := hx.state
  exact ⟨h.loopback, h.mode, h.gain, h.gateOpen.trans (by rw [hx.1]), h.autoStart.trans (by rw [hx.1]),
    h.history.trans (by rw [hx.1]), h.gateClaim, h.lampClaim, h.state.trans hafter, fun k => h.ended (by rw [hstate]; exact k),
    fun k => (h.marks (by rw [hstate]; exact k)).trans hx.markClaim⟩

theorem SameButStart.chainBlocks (h : SameButStart (d.nest n) (d'.nest n)) : d'.chainBlocks n = d.chainBlocks n := by
  have hunit := congrArg (Option.map Prod.snd) h.unit
  simp only [Option.map_map, Function.comp_def] at hunit
  rw [Device.chainBlocks, Device.chainBlocks, hunit]

theorem SameButStart.unitAt (h : SameButStart (d.nest n) (d'.nest n)) (hu : d.UnitAt n) : d'.UnitAt n := by
  have hunit := congrArg Option.isSome h.unit
  rw [Option.isSome_map, Option.isSome_map] at hunit
  rw [Device.UnitAt, hunit, h.state]
  exact hu

theorem UnitsReset.cons (hn : n ∉ l) (hsame : ∀ m ∈ l, SameButStart (d.nest m) (d'.nest m))
    (hlive : ∀ m ∈ l, d'.yields.live[m] = d.yields.live[m]) (hrest : e.yields.live[n] = d'.yields.live[n])
    (hqueue : ∀ m ∈ e.labels.waitQueue, m ∈ d'.labels.waitQueue)
    (h : UnitsReset d d' [n]) (k : UnitsReset d' e l) : UnitsReset d e (n :: l) := by
  have hmem := List.mem_singleton.mpr (rfl : n = n)
  have hfilter : l.filter (fun m => (d'.nest m).state.inTest) = l.filter fun m => (d.nest m).state.inTest :=
    List.filter_congr fun m hm => by rw [(hsame m hm).state]
  have hchains : (l.filter fun m => (d.nest m).state.inTest).flatMap d'.chainBlocks
      = (l.filter fun m => (d.nest m).state.inTest).flatMap d.chainBlocks :=
    List.flatMap_congr fun m hm => (hsame m (List.mem_filter.mp hm).1).chainBlocks
  refine ⟨fun m hm hs => ?_, fun m hm => ?_, ?_, fun b => ?_⟩
  · rcases List.mem_cons.mp hm with rfl | hm
    · exact fun q => h.waits m hmem hs (hqueue m q)
    · exact k.waits m hm (by rw [(hsame m hm).state]; exact hs)
  · rcases List.mem_cons.mp hm with rfl | hm
    · exact hrest.trans (h.live m hmem)
    · rw [k.live m hm, Device.liveAfterReset, Device.liveAfterReset, (hsame m hm).state, hlive m hm]
  · have happend : (n :: l).filter (fun m => (d.nest m).state.inTest)
        = [n].filter (fun m => (d.nest m).state.inTest) ++ l.filter fun m => (d.nest m).state.inTest :=
      List.filter_append (l₁ := [n]) l
    rw [k.pool, h.pool, hfilter, hchains, happend, List.flatMap_append, ← List.append_assoc]
  · have hpinned : l.filter (d'.pinnedBy b) = l.filter (d.pinnedBy b) := List.filter_congr fun m hm => by
      rw [Device.pinnedBy, Device.pinnedBy, (hsame m hm).state, (hsame m hm).pinned b]
    rw [k.pins, h.pins, hpinned, Nat.sub_sub, ← List.length_append, ← List.filter_append, List.singleton_append]

theorem NestsReset.cons (h : NestsReset d d' [n]) (k : NestsReset d' e l) (hn : n ∉ l) : NestsReset d e (n :: l) := by
  have hmem := List.mem_singleton.mpr (rfl : n = n)
  have hout : ∀ m ∈ l, m ∉ [n] := fun m hm q => hn (List.mem_singleton.mp q ▸ hm)
  have hself := h.nests n hmem
  have hidle : (d'.nest n).state.idle :=
    NestState.idle_of_not_testStage (by rw [hself.state]; exact d.afterReset_testStage n)
  have hsplit : ∀ {m}, m ∉ n :: l → m ∉ [n] ∧ m ∉ l := fun hm =>
    ⟨fun q => hm (List.mem_cons.mpr (.inl (List.mem_singleton.mp q))), fun q => hm (List.mem_cons_of_mem n q)⟩
  refine ⟨h.keeps.trans k.keeps, fun m hm => ?_, fun m hm => ?_, fun m hm hi => ?_, fun m hm => h.queue m (k.queue m hm),
    fun m hm => ?_, fun hu => ?_⟩
  · rcases List.mem_cons.mp hm with rfl | hm
    · rw [k.idle m hn hidle]
      exact hself
    · exact (k.nests m hm).of_same (h.others m (hout m hm)) h.keeps.fixture
  · obtain ⟨h1, h2⟩ := hsplit hm
    exact (h.others m h1).trans (k.others m h2)
  · obtain ⟨h1, h2⟩ := hsplit hm
    have hfirst := h.idle m h1 hi
    exact (k.idle m h2 (by rw [hfirst]; exact hi)).trans hfirst
  · obtain ⟨h1, h2⟩ := hsplit hm
    exact (k.live m h2).trans (h.live m h1)
  · have hunit : ∀ m ∈ l, d'.UnitAt m := fun m hm =>
      (h.others m (hout m hm)).unitAt (hu m (List.mem_cons_of_mem n hm))
    exact UnitsReset.cons hn (fun m hm => h.others m (hout m hm)) (fun m hm => h.live m (hout m hm)) (k.live n hn) k.queue
      (h.units fun m hm => hu m (by rw [List.mem_singleton.mp hm]; exact List.mem_cons_self)) (k.units hunit)

end

theorem Device.foldReset (l : List NestId) : ∀ d : Device, l.Nodup →
    NestsReset d (l.foldl Device.linkResetNest d) l := by
  induction l with
  | nil => exact fun d _ => .nil d
  | cons n l ih =>
    intro d hl
    obtain ⟨hn, hl⟩ := List.nodup_cons.mp hl
    exact (d.linkResetNest_reset n).cons (ih (d.linkResetNest n) hl) hn

end Sys2Proof.Machine

namespace Sys2Proof.Machine

/-! ## LINK RESET: THE BLOCKS (O15) -/

theorem State.dropPartMessage_dev (s : State) : ∃ a, s.dropPartMessage.dev = { s.dev with notices := a }
    ∧ a.priorities = s.dev.notices.priorities := by
  simp only [State.dropPartMessage, State.discardMessage]
  split
  · split
    · exact ⟨s.dev.notices.raise discardSource, rfl, rfl⟩
    · exact ⟨_, rfl, rfl⟩
  · exact ⟨_, rfl, rfl⟩

theorem TableStore.linkReset_bank (t : TableStore) (b : BankId) : (t.linkReset.bank b).rows = (t.bank b).rows
    ∧ (t.linkReset.bank b).generation = (t.bank b).generation ∧ (t.linkReset.bank b).pins = (t.bank b).pins
    ∧ (t.linkReset.bank b).state ≠ .verifying := by
  obtain ⟨x, hx⟩ : ∃ x, t.bank b = x := ⟨_, rfl⟩
  have hbank : t.linkReset.bank b = if x.state = .verifying then { x with state := .opened } else x := by
    subst hx
    cases b <;> rfl
  rw [hbank, hx]
  split
  · exact ⟨rfl, rfl, rfl, fun h => nomatch h⟩
  · rename_i h
    exact ⟨rfl, rfl, rfl, h⟩

/-- The part after LINK RESET, where `e` is the part after the nests have acted. -/
def Device.blocksReset (e : Device) : Device :=
  { e with
    tables := e.tables.linkReset
    fixture := Vector.ofFn fun n => e.fixture[n].linkReset
    groups := Vector.ofFn fun g => e.groups[g].linkReset
    notices := e.notices.linkReset }

theorem Device.blocksReset_fixture (e : Device) (n : NestId) :
    e.blocksReset.fixture[n] = { e.fixture[n] with
      changed := Vector.replicate 4 false, manual := Vector.replicate 4 false } := Vector.getElem_ofFn n.isLt

theorem Device.linkReset_nests (d : Device) (order : List NestId) :
    ∃ e, NestsReset d e (nestOrder order) ∧ d.linkReset order = e.blocksReset :=
  ⟨_, Device.foldReset (nestOrder order) d (nodup_nestOrder order), rfl⟩

/-- The loss of a message in reception, before the reset, changes the notices alone. -/
theorem State.linkReset_nests (s : State) (tag : Byte) (order : List NestId) :
    ∃ a e, a.priorities = s.dev.notices.priorities ∧ NestsReset { s.dev with notices := a } e (nestOrder order)
      ∧ (s.linkReset tag order).dev = e.blocksReset := by
  obtain ⟨a, ha, hpriorities⟩ := s.dropPartMessage_dev
  obtain ⟨e, he, hreset⟩ := Device.linkReset_nests { s.dev with notices := a } order
  refine ⟨a, e, hpriorities, he, ?_⟩
  rw [← hreset, ← ha]
  rfl

section
variable {d e : Device} {order : List NestId}

theorem NestsReset.no_testStage (h : NestsReset d e (nestOrder order)) (n : NestId) :
    (e.nest n).state.testStage = false := by
  rw [(h.nests n (mem_nestOrder order n)).state]
  exact d.afterReset_testStage n

/-- Every fixture output is de-asserted (R109, R177). -/
theorem NestsReset.lineState (h : NestsReset d e (nestOrder order)) (hu : UnitsKept d) (n : NestId) (k : Fin 4) :
    e.blocksReset.lineState n k = false := by
  obtain ⟨-, hmarks, -, -⟩ := hu
  have hn := h.nests n (mem_nestOrder order n)
  have hmark : (e.nest n).markClaim = false := by
    cases ht : (d.nest n).state.testStage with
    | true => exact (hn.ended ht).2
    | false =>
      rw [hn.marks ht]
      exact Bool.eq_false_iff.mpr fun k => by rw [hmarks n k] at ht; cases ht
  have hclaim : (e.nest n).claim k = false := by
    simp only [Nest.claim, h.no_testStage n, hmark, hn.gateClaim, hn.lampClaim, ite_self]
  rw [Device.lineState]
  split
  · exact hclaim
  · rw [e.blocksReset_fixture n]
    exact Vector.getElem_replicate k.isLt

theorem NestsReset.waitQueue (h : NestsReset d e (nestOrder order)) (hu : UnitsKept d) : e.labels.waitQueue = [] := by
  obtain ⟨hunits, -, -, hwaits⟩ := hu
  refine List.eq_nil_iff_forall_not_mem.mpr fun m hm => ?_
  have hstate := hwaits m (h.queue m hm)
  exact (h.units fun n _ => hunits n).waits m (mem_nestOrder order m) (by rw [hstate]; rfl) hm

theorem NestsReset.pins (h : NestsReset d e (nestOrder order)) (hu : UnitsKept d)
    (hpins : ∀ b, (d.tables.bank b).pins = d.pinnedUnits b) (b : BankId) : (e.tables.bank b).pins = 0 := by
  rw [(h.units fun n _ => hu.1 n).pins b, pinnedUnits_order, hpins, Nat.sub_self]

end

/-- Without a unit in a test stage every arbiter is empty (R54). -/
theorem arbiters_empty {t : State} (h : ArbitersKept t) (hidle : ∀ n, (t.dev.nest n).state.testStage = false)
    (g : GroupId) : (t.dev.group g).holder = none ∧ (t.dev.group g).queue = []
      ∧ ∀ n : NestId, (t.dev.group g).loud[n] = false := by
  obtain ⟨⟨hunits, -⟩, -, -, hholder, -, hqueue, hloud, -⟩ := h
  have hsub : ∀ n x, ¬ t.dev.InSub n x := fun n x hx => by
    have hnone : (t.dev.nest n).record = none :=
      Option.not_isSome_iff_eq_none.mp (by rw [hunits n, hidle n]; exact Bool.false_ne_true)
    rw [Device.InSub, hnone] at hx
    cases hx
  refine ⟨Option.eq_none_iff_forall_ne_some.mpr fun n hn => ?_, List.eq_nil_iff_forall_not_mem.mpr fun n hn => ?_,
    fun n => Bool.eq_false_iff.mpr fun hn => ?_⟩
  · exact (hholder g n hn).2.1.elim (hsub n _) (hsub n _)
  · exact hsub n _ ((hqueue g n).mp hn).2
  · exact (hloud g n hn).2.elim (hsub n _) (hsub n _)

theorem State.linkReset_arbiters {s : State} (hq : s.mgmt.queue ≠ []) (tag : Byte) (order : List NestId)
    (h : ArbitersKept s) : ArbitersKept (s.linkReset tag order) := by
  have hturn : Turn (.linkReset tag (some 0xD5) order) s (s.linkReset tag order) := .linkReset tag order hq rfl
  obtain ⟨hunits, hkept⟩ := (arbitersKept_iff s).mp h
  have hunits := (unitsKept_iff s.dev).mp hunits
  exact (arbitersKept_iff _).mpr ⟨(unitsKept_iff _).mpr
    (hturn.accounts Accounts.Step.units Accounts.Operate.units reset_units hunits),
    hturn.arbiters hunits hkept reset_arbiters⟩

/-- Settles O15. -/
theorem linkResetBlocks : Obligations.LinkResetBlocks := by
  intro s tag order hs
  obtain ⟨rest, hrest⟩ := State.heads_queue hs
  have hq : s.mgmt.queue ≠ [] := by rw [hrest]; exact List.cons_ne_nil _ _
  have harbiters := State.linkReset_arbiters hq tag order
  refine ⟨_, exec_linkReset_confirmed hs order, ?_⟩
  obtain ⟨a, e, hpriorities, hreset, hdev⟩ := s.linkReset_nests tag order
  have hidle : ∀ n, ((s.linkReset tag order).dev.nest n).state.testStage = false := fun n => by
    rw [hdev]
    exact hreset.no_testStage n
  have hempty : ArbitersKept s → _ := fun h => arbiters_empty (harbiters h) hidle
  rw [hdev] at hempty ⊢
  have hkeeps := hreset.keeps
  obtain ⟨hring, hpost, hret, hposted, hcounter⟩ := hkeeps.ringFields
  refine ⟨fun n => ?_, hring, hpost, hret, hposted, hcounter, hkeeps.snapshot, hkeeps.number, hkeeps.calibration,
    hkeeps.groupMap, fun n => ?_, fun b => ?_, rfl, rfl, rfl, rfl, hkeeps.generationCounter,
    fun i => Vector.getElem_replicate i.isLt, rfl, rfl, hkeeps.priorities.trans hpriorities, hkeeps.nestPort,
    hkeeps.controllerPort, fun hu => ⟨hreset.waitQueue hu, hreset.lineState hu, fun n => ?_, ?_⟩, fun hp b => ?_, hempty⟩
  · have h := hreset.nests n (mem_nestOrder order n)
    exact ⟨h.loopback, h.mode, h.gain, h.gateOpen, h.autoStart, h.history, h.gateClaim, h.lampClaim, h.state, h.ended⟩
  · rw [e.blocksReset_fixture n, hkeeps.fixture]
  · obtain ⟨hrows, hgeneration, -, hstate⟩ := e.tables.linkReset_bank b
    obtain ⟨krows, kgeneration⟩ := hkeeps.banks b
    exact ⟨hrows.trans krows, hgeneration.trans kgeneration, hstate⟩
  · exact (hreset.units fun n _ => hu.1 n).live n (mem_nestOrder order n)
  · exact (hreset.units fun n _ => hu.1 n).pool
  · obtain ⟨hu, hpins, -⟩ := hp
    obtain ⟨-, -, hpin, -⟩ := e.tables.linkReset_bank b
    exact hpin.trans (hreset.pins hu (fun c => (hpins c).1) b)

end Sys2Proof.Machine
